-- ==== Sys2Proof/Word.lean ====
section
/-! DEFINITION. The word types of the device and the two plain containers its state is made of: byte memory and
a sorted map from numbers. R7: every structure is little-endian; R6: bit 0 is the least significant bit. -/

namespace Sys2Proof

abbrev Byte := BitVec 8
abbrev Half := BitVec 16
abbrev Word := BitVec 32
abbrev DWord := BitVec 64

/-- Byte memory: (address, byte) pairs, addresses strictly rising, no byte equal to what an unlisted one reads as. -/
abbrev Memory := List Host.Cell

/-- A sparse table: (index, entry) pairs with strictly rising indices. -/
abbrev Table (α : Type) := List (Nat × α)

end Sys2Proof
end

