-- ==== Sys2Proof/Syntax.lean ====
section
/-! DEFINITION. The commands of spec/opcode_table.json, one constructor per row. The table gives the rows no
operand fields; the operands here are what each row's rule names (log entry 1): the unit it concerns, the value
written, and, for an event of the outside world, what the outside world shows the device. -/

namespace Sys2Proof

abbrev CoreId := BitVec 17
abbrev StreamId := BitVec 12
abbrev RegId := BitVec 5
abbrev PortId := BitVec 4
abbrev ModuleId := BitVec 2

/-- R392: a command entry taken from a queue (Table 12.6): its queue and its sixteen words. -/
structure HostCmd where
  queue : BitVec 2
  words : List Word
  deriving DecidableEq, Repr

/-- What one module bay shows while the device authenticates it (R432, R433). -/
structure LaserEnv where
  magicOk : Bool                -- the identity block reads, with its magic
  serial : DWord
  certSerial : DWord
  chain : List Byte             -- certificate chain; `chainSig` its signature by the module root
  chainSig : List Byte
  moduleKey : List Byte
  answered : Bool               -- 0x4100 reads 1 within 500 ms
  response : List Byte          -- the signature over the challenge
  ratedHours : Word
  initialBias : List Half       -- four emitters, 10 uA units
  wearRecord : DWord
  wearCrcOk : Bool
  linkTrains : List Bool        -- for the four ports: the far end lets the link train (R408)
  deriving DecidableEq, Repr

/-- What one start step finds on its units: for each level 0 to 2, the units that fail every attempt, and the
attempts and reason the start log keeps (R468, Table 16.3). -/
structure StepEnv where
  failUnits : List Half         -- one mask per level
  attempts : BitVec 4
  reason : BitVec 4
  deriving DecidableEq, Repr

/-- What the hardware shows a start (R467, Table 16.1): the outcome of each check the manual leaves to silicon. -/
structure StartEnv where
  cause : BitVec 4              -- Table 16.4 CAUSE
  railsOk : Bool
  refclkOk : Bool
  sysref : Bool
  romOk : Bool
  fwVersionA : Half
  fwVersionB : Half
  fwOkA : Bool                  -- digest and signature of the copy hold (R475 1-3)
  fwOkB : Bool
  jnlOk0 : Bool                 -- a valid half header on ND0's copy
  jnlOk1 : Bool
  bayOk0 : Bool
  bayOk1 : Bool
  linkFull : Bool               -- the link trained to x4 at 16 GT/s
  steps : List StepEnv          -- steps 6, 7, 8, 9, 10, 11 and 13, in that order
  columnsLost : List (BitVec 8) -- per compute die, columns failing core self-test (step 10)
  columnsSpare : List (BitVec 8)
  cascId : BitVec 4
  cascMstr : Bool
  lasers : List LaserEnv
  durationMs : Word
  deriving DecidableEq, Repr

/-- What the device measures over a 10 ms decision (R497, R511). -/
structure DecisionEnv where
  pkgMw : Word
  railMw : List Word
  energyJ : DWord
  deriving DecidableEq, Repr

/-- What a laser module shows at the end of a 1 s window (R436): `none` when its bus does not answer. -/
structure LaserWindow where
  enabledThroughout : Bool
  reading : Option (Half × List Half)   -- case temperature in 1/16 degC, present bias of the four emitters
  deriving DecidableEq, Repr

/-- What the 1 s window brings beyond the device's own measurements (R318, R436, Table 15.8). -/
structure WindowEnv where
  lasers : List LaserWindow
  dramHotSeconds : List Word
  deriving DecidableEq, Repr

/-- What reading one 80-bit codeword finds (R363): the bits in error and, for four or more, which case its
syndrome selects (0 corrected, 1 detected, 2 taken as error-free). -/
structure CwError where
  bits : Nat
  verdict : BitVec 2
  wrong : DWord                 -- the data delivered when miscorrected or taken as error-free
  deriving DecidableEq, Repr

/-- What RS(544,514) finds in a received frame or flit (R411): codewords corrected, and codewords that it cannot
correct. -/
structure FecCount where
  corrected : Word
  failed : Word
  deriving DecidableEq, Repr

/-- A flit received, with what its FEC found (R411, R423). -/
structure FlitIn where
  bytes : List Byte
  fec : FecCount
  deriving DecidableEq, Repr

/-- A read by the host: of BAR0, or of configuration space (R12, R381). -/
structure HostRead where
  config : Bool
  off : BitVec 25
  size : Nat
  deriving DecidableEq, Repr

/-- What a step of an adaptation job leaves: its adapters' bytes, and the layer, the saturated elements and the elements
of each tensor that it quantised (R75, R401). -/
structure AdaptOut where
  bytes : List Byte
  tensors : List (BitVec 8 × Nat × Nat)
  deriving DecidableEq, Repr

inductive Instr where
  | sysRstNAssert | perstNAssert | functionLevelReset
  | startBegin (env : StartEnv)
  | pcieLinkTraining
  | automaticRestart (env : StartEnv)
  | pwrFailNFall (lowNs : Nat)
  | railOutOfLimits (rail : BitVec 5)
  | avsRegulatorFail (die : BitVec 4)
  | d3hotWrite | d0Write
  | d0ResumeComplete (lasers : List LaserEnv)
  | islandClockGate (core : CoreId)
  | temperatureSample (readings : List Half)
  | operatingMaximumHoldExpiry (stack : BitVec 4)
  | pwrTimeSet (value : DWord)
  | pwrTimeSlew (value : Word)
  | pwrTimeRate (value : Word)
  | pwrLimitWWrite (value : Word)
  | thymeTick
  | thymeDecision (env : DecisionEnv)
  | thymeWindowEnd (env : WindowEnv)
  | streamStart (n : StreamId) (ctrl : Word)
  | streamPause (n : StreamId) (ctrl : Word)
  | pauseComplete (n : StreamId)
  | streamResume (n : StreamId) (ctrl : Word)
  | streamEnd (n : StreamId) (ctrl : Word)
  | streamAbort (n : StreamId) (ctrl : Word)
  | abortComplete (n : StreamId)
  | steGroupWrite (n : StreamId) (value : Word)
  | steConfigWrite (n : StreamId) (off : BitVec 8) (value : DWord) (wide : Bool)
  | steParamWrite (n : StreamId) (idx : BitVec 5) (value : Word)
  | inputWrIdxRead (n : StreamId)
  | outputRdIdxRead (n : StreamId)
  | chunkRelease (n : StreamId)
  | resultPost (n : StreamId)
  | resultHoldoffExpiry (vector : BitVec 6)
  | checkpointBoundary (n : StreamId)
  | adaptStepComplete (slot : BitVec 4) (loss : Word) (adapter : AdaptOut) (fault : Bool)
  | nop (c : HostCmd) | phaseService (c : HostCmd) | phaseTest (c : HostCmd)
  | imageLoad (c : HostCmd) | epoch (c : HostCmd) | epochAbort (c : HostCmd)
  | imageVerifyComplete | prepareComplete | waveReconfigure | rollbackComplete
  | imagePersistComplete (ok0 ok1 : Bool)
  | checkpoint (c : HostCmd) | restore (c : HostCmd)
  | kvEvict (c : HostCmd) | kvRestore (c : HostCmd) | kvFork (c : HostCmd)
  | adaptRun (c : HostCmd) | adaptStoreSave (c : HostCmd) | adaptStoreRecall (c : HostCmd)
  | scrub (c : HostCmd) | journalCompact (c : HostCmd)
  | laserQuiesce (c : HostCmd)
  | laserResume (c : HostCmd) (env : LaserEnv)
  | attest (c : HostCmd)
  | laserOverride (c : HostCmd) | laserRevoke (c : HostCmd)
  | ownerEnrol (c : HostCmd) | ownerRevoke (c : HostCmd)
  | debugUnlock (c : Option HostCmd) (testPortRecord : List Byte)
  | secDebugRequest (value : Word) | secDebugLock (value : Word)
  | debugChallengeLapse
  | clearLevels
  | tapBypass (tdi : List Bool) | tapIdcode
  | tapSamplePreload (preload : DWord) | tapExtest
  | commandQueueDoorbell (q : BitVec 2) (value : Word) (written : List Host.Cell)
  | completionQueueDoorbell (q : BitVec 2) (value : Word)
  | eventQueueDoorbell (value : Word)
  | queueEnableWrite (which : BitVec 4) (value : Word)
  | streamDbIn (n : StreamId) (written : List Host.Cell)
  | streamDbOut (n : StreamId) (written : List Host.Cell)
  | commandFetch (lasers : List LaserEnv)
  | completionWrite (q : BitVec 2)
  | completionCoalesceExpiry (q : BitVec 2)
  | eventBatchExpiry
  | hostReadError (core : CoreId) (tag : BitVec 4)
  | evtInject (value : Word)
  | reg64LowWordRead (read : HostRead)
  | reg64LowWordWrite (off : BitVec 25) (value : Word)
  | thmRegisterWrite (off : BitVec 12) (value : DWord) (wide : Bool)
  | registerWrite (off : BitVec 25) (size : Nat) (value : DWord)
  | mmuInvalGo (value : Word) | mmuInvalidationDone
  | mmuResume (value : Word) | mmuAbort (value : Word)
  | mmuAperBaseWrite (value : DWord)
  | bar2Read (off : BitVec 34) (len : Nat)
  | bar2Write (off : BitVec 34) (bytes : List Byte)
  | mmuWalkComplete (die : BitVec 4) (va : BitVec 48) (write : Bool)
  | dramRead (addr : BitVec 38) (errors : List CwError)
  | patrolScrubRead (die : BitVec 4) (errors : List CwError)
  | demandScrubRead (die : BitVec 4) (errors : List CwError)
  | ethFrameReceive (port : PortId) (frame : List Byte) (fec : FecCount) (stamp : DWord)
  | portModeOff (port : PortId) (ctrl : Word)
  | portModeEthernet (port : PortId) (ctrl : Word)
  | portModeCascade (port : PortId) (ctrl : Word)
  | portCounterClear (port : PortId)
  | portLinkUp (port : PortId)
  | portDown (port : PortId)
  | flitReceive (port : PortId) (flit : FlitIn)
  | retryRequest (port : PortId) (ack : BitVec 12)
  | linkLostExpiry (port : PortId)
  | casTopoWrite (value : Word)
  | cascadeFormTimeout | heartbeatSend | casMasterLost | casLocal
  | casRemoteRead (value : Word) (answer : Option Word)
  | casRemoteWrite (value : Word) (accepted : Bool)
  | lmPresentFall (m : ModuleId) | lmPresentRise (m : ModuleId)
  | lmFaultFall (m : ModuleId) | laserBusFail (m : ModuleId)
  | laserAuthTimeout (m : ModuleId) | laserWearRecordWrite (m : ModuleId)
  | eventRaise (code : Half) (stream : Half) (core : CoreId) (detail : List Word)
  | eventHandlingEnd | eventEntryWrite | deviceGraceExpiry | summaryWindowEnd
  | bayEntryWrite (ok0 ok1 : Bool)
  | bbxReadIndexWrite (value : Word) | mgmtBayIndexWrite (value : Word) | mgmtHeadSearch
  | journalCommit (ok0 ok1 : Bool)
  | compactionSwitch
  | ccNop (core : CoreId) (word : Word)
  | add (core : CoreId) (rd ra rb : RegId) | sub (core : CoreId) (rd ra rb : RegId)
  | and (core : CoreId) (rd ra rb : RegId) | or (core : CoreId) (rd ra rb : RegId)
  | xor (core : CoreId) (rd ra rb : RegId) | shl (core : CoreId) (rd ra rb : RegId)
  | shr (core : CoreId) (rd ra rb : RegId) | sra (core : CoreId) (rd ra rb : RegId)
  | mul (core : CoreId) (rd ra rb : RegId) | slt (core : CoreId) (rd ra rb : RegId)
  | sltu (core : CoreId) (rd ra rb : RegId)
  | addi (core : CoreId) (rd ra : RegId) (imm : Half)
  | lui (core : CoreId) (rd : RegId) (imm : Half)
  | andi (core : CoreId) (rd ra : RegId) (imm : Half)
  | ori (core : CoreId) (rd ra : RegId) (imm : Half)
  | fadd (core : CoreId) (rd ra rb : RegId) | fsub (core : CoreId) (rd ra rb : RegId)
  | fmul (core : CoreId) (rd ra rb : RegId) | fma (core : CoreId) (rd ra rb : RegId)
  | fmin (core : CoreId) (rd ra rb : RegId) | fmax (core : CoreId) (rd ra rb : RegId)
  | i2f (core : CoreId) (rd ra : RegId) | f2i (core : CoreId) (rd ra : RegId)
  | flt (core : CoreId) (rd ra rb : RegId)
  | ld (core : CoreId) (rd ra : RegId) (imm : Half)
  | st (core : CoreId) (rd ra : RegId) (imm : Half)
  | ldr (core : CoreId) (rd ra rb : RegId)
  | str (core : CoreId) (rd ra rb : RegId)
  | ldt (core : CoreId) (rd ra : RegId) (imm : Half)
  | beq (core : CoreId) (ra rb : RegId) (off : Half) | bne (core : CoreId) (ra rb : RegId) (off : Half)
  | blt (core : CoreId) (ra rb : RegId) (off : Half) | bge (core : CoreId) (ra rb : RegId) (off : Half)
  | bltu (core : CoreId) (ra rb : RegId) (off : Half) | bgeu (core : CoreId) (ra rb : RegId) (off : Half)
  | jal (core : CoreId) (rd : RegId) (off : BitVec 21)
  | jr (core : CoreId) (ra : RegId)
  | bsum (core : CoreId) (sense : Bool) (mask : BitVec 6) (off : Half)
  | mfs (core : CoreId) (rd : RegId) (imm : Half)
  | mts (core : CoreId) (ra : RegId) (imm : Half)
  | issueMe (core : CoreId) (rd ra rb : RegId) | issueEc (core : CoreId) (rd ra rb : RegId)
  | issueGp (core : CoreId) (rd ra rb : RegId) | issueAttention (core : CoreId) (rd ra rb : RegId)
  | issueDma (core : CoreId) (rd ra rb : RegId) | issueFill (core : CoreId) (rd ra rb : RegId)
  | issueCopy (core : CoreId) (rd ra rb : RegId)
  | waitop (core : CoreId) (ra : RegId)
  | take (core : CoreId) (rd : RegId)
  | done (core : CoreId) (ra : RegId)
  | rcfg (core : CoreId) (ra rb : RegId)
  | rwaitCommitted (core : CoreId) (rd ra : RegId)
  | rwaitAllocate (core : CoreId) (rd ra : RegId)
  | rrel (core : CoreId) (ra rb : RegId)
  | rcommit (core : CoreId) (rd ra rb : RegId)
  | grant (core : CoreId) (rd ra rb : RegId)
  | gwait (core : CoreId) (ra : RegId)
  | gend (core : CoreId) (ra rb : RegId)
  | yield (core : CoreId)
  | bankPowerUp (core : CoreId) (bank : BitVec 3)
  | bankZeroFillEnd (core : CoreId)
  | bankRequestStarved (core : CoreId) (bank : BitVec 3) (rank : BitVec 4)
  | remoteWriteLand (core : CoreId)
  | grantEndNotice (core : CoreId)
  | ringSlotCommit (core : CoreId) (ring : BitVec 4)
  | ringSlotRelease (core : CoreId) (ring : BitVec 4)
  | ringForwardArrival (core : CoreId) (ring : BitVec 4)
  | meTileDrain (core : CoreId) | meOperationComplete (core : CoreId) | meOperationHalt (core : CoreId)
  | ecOperationComplete (core : CoreId) | ecOperationHalt (core : CoreId)
  | gpOperationComplete (core : CoreId) | expressGateInsert (core : CoreId)
  | attentionOperationComplete (core : CoreId)
  | fillCopyComplete (core : CoreId) (id : BitVec 4)
  | kvFlush (core : CoreId) (n : StreamId) (layer head : BitVec 8)
  | dmaResponseReturn (core : CoreId) (tag : BitVec 4)
  | dmaWriteAck (core : CoreId) (tag : BitVec 4)
  | dmaOperationComplete (core : CoreId) (id : BitVec 4)
  | chainSlotArrival (core : CoreId) (ring : BitVec 4)
  | arbiterStarved (core source : CoreId)
  | ringDryWindowEnd (core : CoreId) (ring : BitVec 4)
  | powerGood | heartbeatMiss | sysrefLoss
  deriving DecidableEq, Repr

end Sys2Proof
end

