-- ==== Sys2Proof/Decode.lean ====
section
/-! DEFINITION. Decoding. The rows of spec/opcode_table.json have no bits, so `decodeTableWord` names no command.
The one encoding that the spec gives is that of the control core's 32-bit instructions (R238, R239, Tables 7.8 and
7.9): `ccDecode` reads a word, `ccEncode` writes one. -/

namespace Sys2Proof

/-- No row of the table has bits: no word spells a command. -/
def decodeTableWord (_nbits _w : Nat) : Option Instr := none

/-- Fields of Table 7.8. -/
def ccOp (w : Word) : Nat := w.toNat >>> 26
def ccRd (w : Word) : RegId := w.extractLsb' 21 5
def ccRa (w : Word) : RegId := w.extractLsb' 16 5
def ccRb (w : Word) : RegId := w.extractLsb' 11 5
def ccFn (w : Word) : Nat := (w.extractLsb' 0 11).toNat
def ccImm16 (w : Word) : Half := w.extractLsb' 0 16

/-- R239: the instruction that a word holds on a core; none for an OP or FN value not listed, or a reserved field
that is not 0. Registers that an R or I instruction does not use are ignored. -/
def ccDecode (core : CoreId) (w : Word) : Option Instr :=
  let rd := ccRd w
  let ra := ccRa w
  let rb := ccRb w
  let fn := ccFn w
  let imm := ccImm16 w
  match ccOp w with
  | 0x00 => if w.toNat % 2 ^ 26 = 0 then some (.ccNop core w) else none
  | 0x01 => match fn with
    | 0 => some (.add core rd ra rb) | 1 => some (.sub core rd ra rb) | 2 => some (.and core rd ra rb)
    | 3 => some (.or core rd ra rb) | 4 => some (.xor core rd ra rb) | 5 => some (.shl core rd ra rb)
    | 6 => some (.shr core rd ra rb) | 7 => some (.sra core rd ra rb) | 8 => some (.mul core rd ra rb)
    | 9 => some (.slt core rd ra rb) | 10 => some (.sltu core rd ra rb) | _ => none
  | 0x02 => some (.addi core rd ra imm)
  | 0x03 => some (.lui core rd imm)
  | 0x04 => some (.andi core rd ra imm)
  | 0x05 => some (.ori core rd ra imm)
  | 0x08 => match fn with
    | 0 => some (.fadd core rd ra rb) | 1 => some (.fsub core rd ra rb) | 2 => some (.fmul core rd ra rb)
    | 3 => some (.fma core rd ra rb) | 4 => some (.fmin core rd ra rb) | 5 => some (.fmax core rd ra rb)
    | 6 => some (.i2f core rd ra) | 7 => some (.f2i core rd ra) | 8 => some (.flt core rd ra rb) | _ => none
  | 0x10 => some (.ld core rd ra imm)
  | 0x11 => some (.st core rd ra imm)
  | 0x12 => if fn = 0 then some (.ldr core rd ra rb) else none
  | 0x13 => if fn = 0 then some (.str core rd ra rb) else none
  | 0x14 => some (.ldt core rd ra imm)
  | 0x18 => some (.beq core rd ra imm)
  | 0x19 => some (.bne core rd ra imm)
  | 0x1A => some (.blt core rd ra imm)
  | 0x1B => some (.bge core rd ra imm)
  | 0x1C => some (.bltu core rd ra imm)
  | 0x1D => some (.bgeu core rd ra imm)
  | 0x1E => some (.jal core rd (w.extractLsb' 0 21))
  | 0x1F => if fn = 0 then some (.jr core ra) else none
  | 0x20 => if w.extractLsb' 22 3 = 0 then some (.bsum core (w.getLsbD 25) (w.extractLsb' 16 6) imm) else none
  | 0x21 => some (.mfs core rd imm)
  | 0x22 => some (.mts core ra imm)
  | 0x24 => match fn with
    | 0 => some (.issueMe core rd ra rb) | 1 => some (.issueEc core rd ra rb) | 2 => some (.issueGp core rd ra rb)
    | 3 => some (.issueAttention core rd ra rb) | 4 => some (.issueDma core rd ra rb)
    | 5 => some (.issueFill core rd ra rb) | 6 => some (.issueCopy core rd ra rb) | _ => none
  | 0x25 => if fn = 0 then some (.waitop core ra) else none
  | 0x26 => if fn = 0 then some (.take core rd) else none
  | 0x27 => if fn = 0 then some (.done core ra) else none
  | 0x28 => if fn = 0 then some (.rcfg core ra rb) else none
  | 0x29 => match fn with
    | 0 => some (.rwaitCommitted core rd ra) | 1 => some (.rwaitAllocate core rd ra) | _ => none
  | 0x2A => if fn = 0 then some (.rrel core ra rb) else none
  | 0x2B => if fn = 0 then some (.rcommit core rd ra rb) else none
  | 0x2C => if fn = 0 then some (.grant core rd ra rb) else none
  | 0x2D => if fn = 0 then some (.gwait core ra) else none
  | 0x2E => if fn = 0 then some (.gend core ra rb) else none
  | 0x2F => if w.toNat % 2 ^ 26 = 0 then some (.yield core) else none
  | _ => none

/-! Encoding. -/

def formR (op : BitVec 6) (rd ra rb : RegId) (fn : BitVec 11) : Word := op ++ rd ++ ra ++ rb ++ fn
def formI (op : BitVec 6) (rd ra : RegId) (imm : Half) : Word := op ++ rd ++ ra ++ imm
def formJ (op : BitVec 6) (rd : RegId) (off : BitVec 21) : Word := op ++ rd ++ off
def formS (op : BitVec 6) (sense : Bool) (mask : BitVec 6) (off : Half) : Word :=
  op ++ BitVec.ofBool sense ++ (0 : BitVec 3) ++ mask ++ off

/-- The word of a control-core instruction (Tables 7.8 and 7.9); none for a command that is not one. -/
def ccEncode : Instr → Option Word
  | .ccNop _ w => if w = 0 then some 0 else none
  | .add _ rd ra rb => some (formR 0x01 rd ra rb 0) | .sub _ rd ra rb => some (formR 0x01 rd ra rb 1)
  | .and _ rd ra rb => some (formR 0x01 rd ra rb 2) | .or _ rd ra rb => some (formR 0x01 rd ra rb 3)
  | .xor _ rd ra rb => some (formR 0x01 rd ra rb 4) | .shl _ rd ra rb => some (formR 0x01 rd ra rb 5)
  | .shr _ rd ra rb => some (formR 0x01 rd ra rb 6) | .sra _ rd ra rb => some (formR 0x01 rd ra rb 7)
  | .mul _ rd ra rb => some (formR 0x01 rd ra rb 8) | .slt _ rd ra rb => some (formR 0x01 rd ra rb 9)
  | .sltu _ rd ra rb => some (formR 0x01 rd ra rb 10)
  | .addi _ rd ra imm => some (formI 0x02 rd ra imm)
  | .lui _ rd imm => some (formI 0x03 rd 0 imm)
  | .andi _ rd ra imm => some (formI 0x04 rd ra imm)
  | .ori _ rd ra imm => some (formI 0x05 rd ra imm)
  | .fadd _ rd ra rb => some (formR 0x08 rd ra rb 0) | .fsub _ rd ra rb => some (formR 0x08 rd ra rb 1)
  | .fmul _ rd ra rb => some (formR 0x08 rd ra rb 2) | .fma _ rd ra rb => some (formR 0x08 rd ra rb 3)
  | .fmin _ rd ra rb => some (formR 0x08 rd ra rb 4) | .fmax _ rd ra rb => some (formR 0x08 rd ra rb 5)
  | .i2f _ rd ra => some (formR 0x08 rd ra 0 6) | .f2i _ rd ra => some (formR 0x08 rd ra 0 7)
  | .flt _ rd ra rb => some (formR 0x08 rd ra rb 8)
  | .ld _ rd ra imm => some (formI 0x10 rd ra imm)
  | .st _ rd ra imm => some (formI 0x11 rd ra imm)
  | .ldr _ rd ra rb => some (formR 0x12 rd ra rb 0)
  | .str _ rd ra rb => some (formR 0x13 rd ra rb 0)
  | .ldt _ rd ra imm => some (formI 0x14 rd ra imm)
  | .beq _ ra rb off => some (formI 0x18 ra rb off) | .bne _ ra rb off => some (formI 0x19 ra rb off)
  | .blt _ ra rb off => some (formI 0x1A ra rb off) | .bge _ ra rb off => some (formI 0x1B ra rb off)
  | .bltu _ ra rb off => some (formI 0x1C ra rb off) | .bgeu _ ra rb off => some (formI 0x1D ra rb off)
  | .jal _ rd off => some (formJ 0x1E rd off)
  | .jr _ ra => some (formR 0x1F 0 ra 0 0)
  | .bsum _ sense mask off => some (formS 0x20 sense mask off)
  | .mfs _ rd imm => some (formI 0x21 rd 0 imm)
  | .mts _ ra imm => some (formI 0x22 0 ra imm)
  | .issueMe _ rd ra rb => some (formR 0x24 rd ra rb 0) | .issueEc _ rd ra rb => some (formR 0x24 rd ra rb 1)
  | .issueGp _ rd ra rb => some (formR 0x24 rd ra rb 2) | .issueAttention _ rd ra rb => some (formR 0x24 rd ra rb 3)
  | .issueDma _ rd ra rb => some (formR 0x24 rd ra rb 4) | .issueFill _ rd ra rb => some (formR 0x24 rd ra rb 5)
  | .issueCopy _ rd ra rb => some (formR 0x24 rd ra rb 6)
  | .waitop _ ra => some (formR 0x25 0 ra 0 0)
  | .take _ rd => some (formR 0x26 rd 0 0 0)
  | .done _ ra => some (formR 0x27 0 ra 0 0)
  | .rcfg _ ra rb => some (formR 0x28 0 ra rb 0)
  | .rwaitCommitted _ rd ra => some (formR 0x29 rd ra 0 0)
  | .rwaitAllocate _ rd ra => some (formR 0x29 rd ra 0 1)
  | .rrel _ ra rb => some (formR 0x2A 0 ra rb 0)
  | .rcommit _ rd ra rb => some (formR 0x2B rd ra rb 0)
  | .grant _ rd ra rb => some (formR 0x2C rd ra rb 0)
  | .gwait _ ra => some (formR 0x2D 0 ra 0 0)
  | .gend _ ra rb => some (formR 0x2E 0 ra rb 0)
  | .yield _ => some (formR 0x2F 0 0 0 0)
  | _ => none

end Sys2Proof
end

