-- ==== Sys2Proof/Config.lean ====
section
/-! DEFINITION. What the spec leaves open, as constants without a body: no proof can see their values.
`freeBits` stands for every value the manual calls X or leaves unstated (log entry 7), taken with the state's
counter of free values. The function units, the digest and the signature check are
constants that every device of this kind shares but that this manual does not print. -/

namespace Sys2Proof.Config

/-- The k-th free value, a number whose low bits are used (log entry 7). -/
opaque freeBits : Nat → Nat

/-- R133: the result bits of function unit `code` (Table 4.8) for a finite input that the manual does not fix:
the function tables of the Yudex reference model, which the manual does not hold (log entry 8). -/
opaque fnTable (code : Nat) (x : Word) : Word

/-- R327, R460, R474: SHAKE256 of FIPS 202, `n` output bytes (log entry 10). -/
opaque shake256 (n : Nat) (msg : List Byte) : List Byte

/-- R327, R433, R478: ML-DSA-65 verification of FIPS 204, public key, message, signature (log entry 10). -/
opaque mldsaVerify (key msg sig : List Byte) : Bool

/-- R481: the ML-DSA-65 signature by the device identity key (log entry 10). -/
opaque identitySign (msg : List Byte) : List Byte

/-- The vendor's ML-DSA-65 public key that the hub firmware carries (R476, R478; log entry 10). -/
opaque vendorKey : List Byte

/-- R433: the vendor's module-root key (log entry 10). -/
opaque moduleRootKey : List Byte

/-- R474: DEVICE_CERT of the one-time-programmable array, and the identity public key (log entry 10). -/
opaque deviceCert : List Byte
opaque identityKey : List Byte

/-- R481: contents of the ROM and of the firmware copies, measured in entry 0 and 1 (log entry 10). -/
opaque romContents : List Byte
opaque firmwareContents (copyB : Bool) : List Byte

/-- R381: base addresses that the host has given the function's memory windows, and the bits of the configuration header
that Table 12.2 does not name (log entry 97). -/
opaque barBase (bar : Nat) : Nat
opaque configRest (off : Nat) : Word

/-- R489: the voltage in mV that the device chooses for die `n` at a clock setting of `mhz` (log entry 12). -/
opaque avsVoltage (n mhz : Nat) : BitVec 10

/-- R69: the exact sum that a layer running in a wider format takes for one output of the matrix engine, in units of
2^-48: of the format, where the output stands, the operands as they are stored, and the bytes of the layer's wide masters,
of which the manual gives no layout (log entry 16). -/
opaque wideSum (fmt : Nat) (place : List Word) (codes : List Int) (scales : List Nat) (masters : List Byte) : Int

/-- R69: what stands in a narrow tensor's place for element i of a group of values, and for its scale, where the layer runs
in a wider format (log entry 16). -/
opaque wideCode (fmt : Nat) (values : List Word) (i : Nat) : Int
opaque wideScale (fmt : Nat) (values : List Word) : Nat

/-- R180: where a stream template places the staging buffer of an attention layer and KV head in its owning core's
scratchpad, in 64 B units, and the position in its group from which the owning core is looked for; the image format prints
neither (log entry 20). -/
opaque stagingUnit (template layer head : Nat) : Nat
opaque ownerPos (template layer head : Nat) : Nat

/-- R193: which of the n contexts that hold a query's position a query attends, where a chunk holds several that do: the
descriptor names a position and no context (log entry 51). -/
opaque kvContext (desc : List Word) (n : Nat) : Nat

/-- R152: the first channel of a recurrent layer that the core at a position of the layer's group holds; the template
divides the channels, and the image format prints no field of it (log entry 20). -/
opaque channelBase (template layer pos : Nat) : Nat

/-- What a Quanak data flit's payload says. The manual names these messages and gives no layout of them (log entry 62):
an identity (R426), a heartbeat with the master's time (R427), a remote access and its answer, a slot of a cross route
and the return of its credit, the token of a released chunk with D', the chunk context and the home's result ranges, a
package's report of its part with its flags, its fault and what it wrote to those ranges, and the withdrawal of a faulted
chunk's tokens (R299, R428), the gathering and scattering of the sections of a stream's state (R170), and a forwarded stream
datagram with its receive timestamp. -/
inductive CasMsg where
  | ident (id : BitVec 4) (mstr : Bool) (topo : BitVec 2) (size : BitVec 4)
  | beat (time : DWord)
  | read (off : BitVec 20)
  | write (off : BitVec 20) (value : Word)
  | answer (value : Option Word)
  | slot (route : Nat) (index : Nat) (group : Half) (ring : BitVec 4) (tag : Half) (data : List Byte) (poison : Bool)
  | credit (route : Nat) (index : Nat)
  | datagram (stream : BitVec 12) (stamp : DWord) (payload : List Byte)
  | token (home : BitVec 4) (stream : BitVec 12) (model replica : Half) (chunk deadline : DWord) (frames : Half)
      (express initEntry final gapRun : Bool) (context : List Byte) (out : List (Nat × Nat))
  | report (stream : BitVec 12) (chunk : DWord) (flags : Byte) (fault : Option Byte) (more : List Nat) (result : List (Nat × List Byte))
  | withdraw (stream : BitVec 12) (chunk : DWord)
  | gather (stream : BitVec 12)
  | gathered (stream : BitVec 12) (more : List Nat) (formats : List (Nat × BitVec 2 × List DWord)) (sections : List (Nat × List Byte × Bool))
  | scatter (home : BitVec 4) (stream : BitVec 12) (formats : List (Nat × BitVec 2 × List DWord)) (sections : List (Nat × List Byte × Bool))
  deriving DecidableEq, Repr

opaque casEncode (m : CasMsg) : List Byte

/-- R426: of a flit's payload, the message of its source that it is a part of, and the stream number that chooses the port
of a bundle (log entry 62). -/
opaque casPart (payload : List Byte) : Nat × Nat

/-- A message from its payloads, once they are all there. -/
opaque casDecode (payload : List Byte) : Option CasMsg

/-- R429: which of the remaining ports a recomputed route takes, from this package to another (log entry 63). -/
opaque casDetour (me dst : Nat) (ports : List Nat) : Nat

end Sys2Proof.Config
end

