-- ==== Sys2Proof/Machine/State.lean ====
section
/-! DEFINITION. The state of the device as plain data: every register, queue, buffer, counter, mode and pin the
spec gives it, the memory it holds, and the queue of waiting commands. Each field's comment names it and the rule. -/

namespace Sys2Proof.Machine

/-- Device phases (R74, Table 2.12). -/
inductive Phase where | start | service | test | recovery
  deriving DecidableEq, Repr

/-- Stream states (Table 9.1). -/
inductive SteState where | free | idle | starting | running | paused | ending | ended | faulted
  deriving DecidableEq, Repr

/-- CFG_STATUS.PHASE (Table 10.10). -/
inductive CfgPhase where | none | loaded | stage | prepare | switch | rollback | load
  deriving DecidableEq, Repr

/-- The life of a ring slot: allocated to a writer, its last byte written, committed, read by its consumer,
released (R221, R223). A free slot has no record. -/
inductive SlotState where | allocated | full | committed | read | released
  deriving DecidableEq, Repr

/-- A DMA request that holds a tag: sent; its data returned and waiting in the tag buffer for a movement cycle (R249); or
its write landed and not yet acknowledged (R255). -/
inductive ReqState where | sent | returned | landed
  deriving DecidableEq, Repr

/-- A message from core to core that has left and not yet arrived (R214-R217, R225, R273). -/
inductive Msg where
  | write (src dst : BitVec 17) (addr : Nat) (data : List Byte) (poison : Bool) (req : Option Nat)
  | slot (src dst : BitVec 17) (srcRing ring : BitVec 4) (tag : Half) (data : List Byte) (poison bad : Bool) (dry : BitVec 24)
  | chain (src dst : BitVec 17) (ring : BitVec 4) (tag : Half) (data : List Byte) (poison bad : Bool) (op member : Nat)
      (rest : List (BitVec 17 × BitVec 4)) (dry : BitVec 24)
  | grantEnd (src dst : BitVec 17) (num : Nat)
  deriving DecidableEq, Repr

/-- One control-core context: its registers, its word index and its summary word (R236, R237, R248). SpRegs SUMW. -/
structure Ctx where
  regs : Vector Word 32  -- s0 to s31, all general-purpose (07 R236)
  pc : BitVec 12  -- word index in the executing bank (07 R236, R238)
  sumw : Word  -- SUMW, summary word (Table 4.7) (07 R237, 04 R132)
  waits : Bool  -- the context waits as input-not-ready (07 R248)
  bank : BitVec 1  -- its executing bank while the other context executes (07 R244, R248)
  deriving DecidableEq, Repr

/-- Ctx at reset. -/
def Ctx.init : Ctx :=
  { regs := Vector.replicate 32 0,
    pc := 0,
    sumw := 0,
    waits := false,
    bank := 0 }

/-- An arrival token (R22, R242, Table 7.10). -/
structure Token where
  stream : BitVec 12  -- stream number (01 R22)
  chunk : DWord  -- chunk number (01 R22)
  deadline : DWord  -- D, or D' in catch-up, in ns (09 R306)
  bank : BitVec 1  -- EPOCH, program bank of the chunk's epoch (07 Table 7.10)
  express : Bool  -- EXPRESS (07 Table 7.10)
  initEntry : Bool  -- INIT_ENTRY (07 Table 7.10)
  final : Bool  -- FINAL (07 Table 7.10)
  frames : Half  -- frames in the chunk (07 Table 7.10)
  layer : BitVec 8  -- layer group the token was given to (position in the placement) (01 R22)
  rerun : Bool  -- the group runs its layer again in the wider format (02 R69)
  deriving DecidableEq, Repr

/-- Token at reset. -/
def Token.init : Token :=
  { stream := 0,
    chunk := 0,
    deadline := 0,
    bank := 0,
    express := false,
    initEntry := false,
    final := false,
    frames := 0,
    layer := 0,
    rerun := false }

/-- A taken token with what the core keeps for it until DONE (R243, R235, R365). -/
structure Taken where
  tok : Token  -- the token (07 R243)
  ctx : BitVec 1  -- context that took it (07 R248)
  slot : Option Nat  -- matched IN_RING slot (07 R243)
  hazard : Bool  -- a RANGE_HAZARD has been counted during this token (07 R235)
  poison : Bool  -- a poisoned word was loaded (11 R365)
  faulted : Bool  -- its chunk faulted on this core (07 R247)
  tensors : Nat  -- quantised tensors counted so far under this token (02 R68)
  takenAt : DWord  -- device time of its TAKE (09 R313)
  share : Nat  -- its share of the core's cycles so far, in ns of one core at 320 MHz divided by 3,840 (09 R313)
  deriving DecidableEq, Repr

/-- Taken at reset. -/
def Taken.init : Taken :=
  { tok := Token.init,
    ctx := 0,
    slot := none,
    hazard := false,
    poison := false,
    faulted := false,
    tensors := 0,
    takenAt := 0,
    share := 0 }

/-- One ring slot that is not free (R220, R221, R223). -/
structure Slot where
  idx : Nat  -- slot index (07 R220)
  state : SlotState  -- allocated, full, committed, read or released (07 R221)
  poison : Bool  -- poison slot (08 R279)
  srcCore : Option (BitVec 17 × BitVec 4)  -- writer's core and ring, for the return of credit (07 R222)
  chain : Option (BitVec 17 × Nat × Nat)  -- issuing core, serial number of the operation and member of a chain slot (08 R274)
  tag : Half  -- tag that goes with the slot when it is committed (07 R222)
  route : Option (BitVec 4 × Nat × Nat)  -- package, cross-route entry and core whose credit it holds (13 R428)
  deriving DecidableEq, Repr

/-- Slot at reset. -/
def Slot.init : Slot :=
  { idx := 0,
    state := .allocated,
    poison := false,
    srcCore := none,
    chain := none,
    tag := 0,
    route := none }

/-- One ring: the fields of its record (Table 7.3) and what the device keeps for it. -/
structure Ring where
  base : BitVec 17  -- BASE (07 R218)
  slotLog2 : BitVec 3  -- SLOT_LOG2 (07 R218)
  en : Bool  -- EN (07 R218)
  fwd : Bool  -- FWD (07 R218)
  nslots : BitVec 12  -- NSLOTS (07 R218)
  credits : BitVec 12  -- CREDITS (07 R218, R225)
  head : BitVec 12  -- HEAD (07 R218)
  headWrap : Bool  -- HEAD_WRAP (07 R218)
  tail : BitVec 12  -- TAIL (07 R218)
  tailWrap : Bool  -- TAIL_WRAP (07 R218)
  fwdCore : BitVec 17  -- FWD_CORE (07 R218)
  fwdRing : BitVec 4  -- FWD_RING (07 R218)
  slots : List Slot  -- slots not free, in ring order from HEAD (07 R220-R223)
  writer : Option Nat  -- operation writing the ring; 16 while the control core holds an allocated slot (07 R224)
  reader : Option Nat  -- operation consuming the ring (07 R224)
  window : Nat  -- number of the 3,200 ns window of device time that its counts belong to (08 R268)
  windowBytes : Nat  -- bytes released in the current 3,200 ns window (08 R268)
  lastBytes : Nat  -- B, count of the last complete window (08 R268)
  farFilled : Nat  -- F last reported by the target of a forward ring (08 R268)
  farBytes : Nat  -- B last reported by the target (08 R268)
  dueSlots : List (Half × List Byte × Bool)  -- slots that a halted writer had formed and that wait for a free slot: tag, bytes, poisoned data (03 R83)
  fwdSent : Nat  -- bytes of its oldest slot that the forwarder has sent (08 R254)
  poisonDue : Option Half  -- tag of a poison slot that ends a terminated writer's slots and waits for a free slot (08 R279)
  deriving DecidableEq, Repr

/-- Ring at reset. -/
def Ring.init : Ring :=
  { base := 0,
    slotLog2 := 0,
    en := false,
    fwd := false,
    nslots := 0,
    credits := 0,
    head := 0,
    headWrap := false,
    tail := 0,
    tailWrap := false,
    fwdCore := 0,
    fwdRing := 0,
    slots := [],
    writer := none,
    reader := none,
    window := 0,
    windowBytes := 0,
    lastBytes := 0,
    farFilled := 0,
    farBytes := 0,
    dueSlots := [],
    fwdSent := 0,
    poisonDue := none }

/-- A scoreboard entry (R229, R231). -/
structure SbEntry where
  line : BitVec 12  -- first line (07 R229)
  count : BitVec 12  -- lines minus 1 (07 R229)
  write : Bool  -- kind (07 R229)
  op : Nat  -- owning operation (07 R229)
  mark : Nat  -- progress mark, a byte address (07 R231)
  asc : Bool  -- its operation writes it in ascending order (07 R231)
  early : Bool  -- its operation uses it in its prologues only (07 R232)
  deriving DecidableEq, Repr

/-- SbEntry at reset. -/
def SbEntry.init : SbEntry :=
  { line := 0,
    count := 0,
    write := false,
    op := 0,
    mark := 0,
    asc := false,
    early := false }

/-- Numeric conditions met by a piece of work (R65, R66). -/
structure Ev where
  sat : Nat  -- saturated elements (02 R39, R40)
  ovf : Nat  -- overflowed elements (02 R42)
  nonfinite : Nat  -- output elements affected by a non-finite input (02 R43)
  nan : Bool  -- an output was the NaN or a NaN was quantised (02 R43)
  empty : Nat  -- reductions over nothing (02 R61)
  growth : Bool  -- a coefficient above 1 in magnitude was applied (02 R64)
  deriving DecidableEq, Repr

/-- Ev at reset. -/
def Ev.init : Ev :=
  { sat := 0,
    ovf := 0,
    nonfinite := 0,
    nan := false,
    empty := 0,
    growth := false }

/-- An operation in flight on a core (R240), with its descriptor as read at issue. -/
structure Op where
  id : Nat  -- operation id 0-15 (07 R240)
  serial : Nat  -- number of the issue, by which its chain credits return to it (08 R274)
  unit : BitVec 3  -- 0 ME 1 EC 2 GP 3 attention 4 DMA 5 FILL 6 COPY (07 Table 7.9)
  desc : List Word  -- descriptor words read at issue (07 R230)
  pro : List Word  -- prologue chain descriptor (03 R94)
  epi : List Word  -- epilogue chain descriptor (03 R94)
  regs : List Word  -- registers as they stood at issue (04 R118)
  tok : Option (BitVec 12 × DWord × BitVec 8)  -- stream, chunk and layer the operation works for (09 R299)
  ctx : BitVec 1  -- issuing context (07 R248)
  pos : Nat  -- work done: tiles drained, lane groups written, positions or requests sent (03 R77)
  ended : Bool  -- the last output is written (07 R240)
  suspended : Option Nat  -- FAULT_ID it waits on (1,024: waits for a free entry) (08 R276)
  replay : List Nat  -- requests to send again after a resume, in transfer order (08 R277)
  undone : List (Nat × Nat × Nat × Bool)  -- requests that met a translation fault: position, kind, address, write (08 R276)
  halting : Option (Nat × Nat)  -- cause and position of a halt that waits for the requests in flight (08 R279)
  members : List (BitVec 17 × BitVec 4)  -- members of a weight chain, as read at issue (08 R272)
  owed : List Nat  -- chain members that are still to receive a poison slot (08 R279)
  slotFill : Table (Nat × Nat)  -- slots begun in the destination ring, by sequence number: slot index and bytes delivered (08 R261)
  chainFill : Table (Nat × Bool × List Byte)  -- chain slots begun, by sequence number: bytes delivered, poison mark, bytes (08 R273)
  nextTags : Table Half  -- tag that the next slot of each ring it writes would carry (07 R222)
  ev : Ev  -- conditions met so far (02 R65)
  tensors : List (Nat × Nat)  -- (saturated, elements) of each tensor it quantised (02 R68)
  results : List Word  -- reduction results of an EC operation (04 R129)
  counters : List Nat  -- chain credit counters, one a member (08 R274)
  farDry : List (Nat × Nat)  -- F and B last reported by each member with a credit (08 R268)
  idxRead : Nat  -- index slots taken whose indices have all been used (08 R265)
  partials : List (Nat × List Word)  -- partial records received, by leaf (06 R187)
  stat : List (Nat × Nat × List Int)  -- statistic registers: row tile, partials added, per-row sums (03 R98, R99)
  poison : Bool  -- it has read a byte under a set poison bit (11 R365)
  inBuf : List (Nat × List Byte)  -- bytes consumed from each ring it reads (07 R223)
  inTags : List (Nat × Nat × List (Option Half))  -- ring, slot size and tags of the slots consumed; none for a poison slot (03 R85, 08 R280)
  part : List (Nat × List Byte)  -- bytes of the slot being written, by ring (07 R221)
  seqs : List (Nat × Nat)  -- slots begun so far in each ring it writes (07 R222)
  outBuf : List (Nat × Half × List Byte)  -- slots formed that wait for a free slot: ring, tag, bytes (07 R221)
  opened : List (Nat × Nat)  -- slot of each ring it writes that it has begun and not yet filled: ring, slot index (07 R221)
  chainOut : Nat  -- number of the chained pair whose producer it is, 0 for none (03 R101)
  chainIn : Nat  -- number of the chained pair whose consumer it is, 0 for none (03 R101)
  held : List (List Word)  -- values of the open block of each row of the tile, held by CVT (03 R97)
  rowOut : List (List Byte)  -- output rows of the row tile that go to a ring, in row order (07 R222)
  sums : List (Option (Int × Int))  -- S1 and S2 of each row of the row tile (03 R98)
  proRows : List (List Byte × List Byte)  -- codes and scales of the row tile's rows after the prologue (03 R79)
  ords : List Nat  -- ordinals of the tensors it quantises (log entry 15) (02 R68)
  express : Bool  -- its token's EXPRESS bit (04 R143)
  wideFmt : BitVec 2  -- format its layer runs in, beyond as built (02 R69)
  deriving DecidableEq, Repr

/-- Op at reset. -/
def Op.init : Op :=
  { id := 0,
    serial := 0,
    unit := 0,
    desc := [],
    pro := [],
    epi := [],
    regs := [],
    tok := none,
    ctx := 0,
    pos := 0,
    ended := false,
    suspended := none,
    replay := [],
    undone := [],
    halting := none,
    members := [],
    owed := [],
    slotFill := [],
    chainFill := [],
    nextTags := [],
    ev := Ev.init,
    tensors := [],
    results := [],
    counters := [],
    farDry := [],
    idxRead := 0,
    partials := [],
    stat := [],
    poison := false,
    inBuf := [],
    inTags := [],
    part := [],
    seqs := [],
    outBuf := [],
    opened := [],
    chainOut := 0,
    chainIn := 0,
    held := [],
    rowOut := [],
    sums := [],
    proRows := [],
    ords := [],
    express := false,
    wideFmt := 0 }

/-- A request of the DMA engine that holds a tag (R255). -/
structure DmaReq where
  tag : Nat  -- tag and its 256 B buffer (08 R255)
  op : Nat  -- operation; 16 + ring for a forwarded slot (08 R253)
  idx : Nat  -- byte at which it begins, in transfer order (08 R254)
  len : Nat  -- its bytes (08 R254)
  data : List Byte  -- tag buffer (08 R255)
  state : ReqState  -- sent, its data returned and waiting in the tag buffer, or landed and not yet acknowledged (08 R255)
  isWrite : Bool  -- a write, freed when acknowledged (08 R255)
  poison : Bool  -- poison mark of the data (11 R365, 12 R383)
  dry : BitVec 24  -- DRY of the request (08 R269)
  deriving DecidableEq, Repr

/-- DmaReq at reset. -/
def DmaReq.init : DmaReq :=
  { tag := 0,
    op := 0,
    idx := 0,
    len := 0,
    data := [],
    state := .sent,
    isWrite := false,
    poison := false,
    dry := 0 }

/-- A space grant issued by this core and outstanding (R215, R217). -/
structure GrantOut where
  num : Nat  -- grant number (07 R215)
  src : BitVec 17  -- source core (07 R215)
  base : Nat  -- base (07 R215)
  len : Nat  -- length (07 R215)
  ended : Bool  -- the end notice has arrived (07 R217)
  deriving DecidableEq, Repr

/-- GrantOut at reset. -/
def GrantOut.init : GrantOut :=
  { num := 0,
    src := 0,
    base := 0,
    len := 0,
    ended := false }

/-- A space grant held from another core (R215, R216). -/
structure GrantIn where
  dst : BitVec 17  -- destination core (07 R215)
  num : Nat  -- grant number (07 R215)
  base : Nat  -- base (07 R215)
  len : Nat  -- length (07 R215)
  deriving DecidableEq, Repr

/-- GrantIn at reset. -/
def GrantIn.init : GrantIn :=
  { dst := 0,
    num := 0,
    base := 0,
    len := 0 }

/-- The matrix engine's own state beside its operations (R47, R87, R101). -/
structure Me where
  bank0 : List (BitVec 112)  -- accumulator bank 0 (03 R87)
  bank1 : List (BitVec 112)  -- accumulator bank 1 (03 R87)
  zero0 : Bool  -- bank 0 starts from zero after a halt (03 R83)
  zero1 : Bool  -- bank 1 starts from zero after a halt (03 R83)
  kept0 : Bool  -- bank 0 holds what ACC_INIT 1 may keep (03 R88)
  kept1 : Bool  -- bank 1 holds what ACC_INIT 1 may keep (03 R88)
  neg0 : BitVec 64  -- accumulators of bank 0 whose sum is zero over terms that are all -0 (02 R38)
  neg1 : BitVec 64  -- accumulators of bank 1 whose sum is zero over terms that are all -0 (02 R38)
  chainNum : Nat  -- number of the chained pair last begun (03 R101)
  chainRows : Table (List Word)  -- chain buffer, codes of each row, by 65,536 x pair + row (03 R101)
  chainScales : Table (List Byte)  -- chain buffer, block scales of each row, by 65,536 x pair + row (03 R101)
  producer : Option (List Word × List Word)  -- last ME operation issued, when it had CHAIN = 1: descriptor and epilogue (03 R101)
  deriving DecidableEq, Repr

/-- Me at reset. -/
def Me.init : Me :=
  { bank0 := List.replicate 64 0,
    bank1 := List.replicate 64 0,
    zero0 := false,
    zero1 := false,
    kept0 := false,
    kept1 := false,
    neg0 := 0,
    neg1 := 0,
    chainNum := 0,
    chainRows := [],
    chainScales := [],
    producer := none }

/-- One core: scratchpad, rings, scoreboard, control core and engines (chapters 3 to 8). -/
structure Core where
  ctx0 : Ctx  -- context C0 (07 R236, R248)
  ctx1 : Ctx  -- context C1 of COMPAT mode (07 R248)
  cur : BitVec 1  -- executing context, BANK [2] (07 R237)
  bank : BitVec 1  -- executing bank, BANK [0] (07 R237)
  otherLoaded : Bool  -- other bank loaded, BANK [1] (07 R237)
  leaving : Bool  -- the old image's rings and banks stay until its last token is done (07 R209, 10 R329)
  prog0 : Memory  -- program bank 0 (07 R245)
  prog1 : Memory  -- program bank 1 (07 R245)
  sp : Memory  -- scratchpad (07 R203)
  tags : Table Half  -- tag store (07 R222)
  spPoison : List Nat  -- 64 B units whose poison bit is set (11 R365)
  pwr : Byte  -- banks powered (07 R208)
  usable : Byte  -- banks usable (07 R209)
  zeroing : Byte  -- banks being zero-filled (07 R209)
  preloadFrom : Option (BitVec 1)  -- preload copies are due once its banks are zero-filled, from the image of this program bank (10 R331)
  starved : List (BitVec 3 × BitVec 4)  -- requests (bank, rank) to be served ahead of every rank, older first (07 R206)
  rings : Vector Ring 16  -- ring0 to ring15 (07 R218)
  sb : List SbEntry  -- scoreboard (07 R229)
  ops : List Op  -- operations in flight, in issue order (07 R240)
  reqs : List DmaReq  -- DMA requests holding tags (08 R255)
  grantsOut : List GrantOut  -- grants issued and outstanding (07 R215)
  grantsIn : List GrantIn  -- grants held (07 R215)
  tokens : List Token  -- held tokens (07 R242)
  taken : List Taken  -- tokens taken and not done (07 R243)
  stalls : Vector Word 8  -- STALL0 to STALL7 (07 R246)
  hazard : Word  -- HAZARD (07 R237)
  copyStalls : Vector DWord 8  -- device-kept copies of the stall counters, since the last telemetry write (09 R324)
  copyHazard : DWord  -- device-kept copy of HAZARD, since the last telemetry write (09 R324)
  doneCount : DWord  -- DONE executions since the last telemetry write (09 R324)
  timeHi : Word  -- TIME_HI as latched (07 R237)
  waiting : Option (BitVec 3)  -- stall cause of the control core's wait, in the order of Table 7.11 (07 R246)
  waitingFree : Bool  -- the control core waits without counting a stall (07 R239, R242)
  me : Me  -- matrix engine (03 R87)
  gated : Bool  -- island clock gated (17 R493)
  group0 : Option Half  -- core group, GROUP [15:0], under the image of program bank 0 (07 R237)
  groupPos0 : Half  -- position within it, GROUP [31:16] (07 R237)
  group1 : Option Half  -- core group under the image of program bank 1 (07 R237)
  groupPos1 : Half  -- position within it (07 R237)
  compat : Bool  -- COMPAT of its group (07 R248)
  expressCut : Nat  -- lane groups of express values inserted into the running GP operation (04 R146)
  issued : Nat  -- operations issued so far (07 R240)
  computed : Bool  -- a compute operation was in flight since the last telemetry write (09 R324)
  flushHalt : Option (Nat × Nat × Nat × Nat)  -- a halted flush: FAULT_ID, stream, layer and head (06 R182)
  deriving DecidableEq, Repr

/-- Core at reset. -/
def Core.init : Core :=
  { ctx0 := Ctx.init,
    ctx1 := Ctx.init,
    cur := 0,
    bank := 0,
    otherLoaded := false,
    leaving := false,
    prog0 := [],
    prog1 := [],
    sp := [],
    tags := [],
    spPoison := [],
    pwr := 0,
    usable := 0,
    zeroing := 0,
    preloadFrom := none,
    starved := [],
    rings := Vector.replicate 16 Ring.init,
    sb := [],
    ops := [],
    reqs := [],
    grantsOut := [],
    grantsIn := [],
    tokens := [],
    taken := [],
    stalls := Vector.replicate 8 0,
    hazard := 0,
    copyStalls := Vector.replicate 8 0,
    copyHazard := 0,
    doneCount := 0,
    timeHi := 0,
    waiting := none,
    waitingFree := false,
    me := Me.init,
    gated := false,
    group0 := none,
    groupPos0 := 0,
    group1 := none,
    groupPos1 := 0,
    compat := false,
    expressCut := 0,
    issued := 0,
    computed := false,
    flushHalt := none }

/-- What the device keeps of one layer of a chunk in flight (R68-R72, R304). -/
structure LayerWork where
  done : List Nat  -- positions of the group's cores that have executed DONE (09 R304)
  complete : Bool  -- complete at the group (09 R304)
  tensors : Table (Nat × Nat)  -- saturated and total elements of each quantised tensor (02 R68)
  rerun : Bool  -- re-run for this chunk (02 R69)
  isI4 : Bool  -- as built it holds I4 operands (02 R69)
  isI8 : Bool  -- as built it holds I8 operands (02 R70)
  format : BitVec 2  -- 0 as built, 1 I8, 2 F16: format the layer runs in for this chunk (02 R72)
  nonfinite : Nat  -- affected outputs so far (02 R43)
  raisedNonfinite : Bool  -- NONFINITE_INPUT raised (02 R43)
  stateWrites : List (Nat × List Byte × Bool)  -- state-block writes of the chunk's work, committed when the layer is judged: address, bytes, poison (02 R69)
  raisedGrowth : Bool  -- STATE_GROWTH raised (02 R64)
  tok : Token  -- token that its group was given (01 R22, 02 R69)
  shards : List Nat  -- shard cores that were given its token (06 R200)
  deriving DecidableEq, Repr

/-- LayerWork at reset. -/
def LayerWork.init : LayerWork :=
  { done := [],
    complete := false,
    tensors := [],
    rerun := false,
    isI4 := false,
    isI8 := false,
    format := 0,
    nonfinite := 0,
    raisedNonfinite := false,
    stateWrites := [],
    raisedGrowth := false,
    tok := Token.init,
    shards := [] }

/-- A context that begins and ends within a chunk (R193). -/
structure KvMid where
  start : Nat  -- its first position in the chunk (06 R193)
  len : Nat  -- its positions (06 R193)
  origin : Nat  -- context position of its first position (06 R193, R197)
  only : List Nat  -- attention layers that it concerns, all when empty (06 R197)
  flushed : Table Nat  -- pages flushed in it, by 256 x layer + head (06 R193)
  pages : List (Nat × Nat × Nat × Nat)  -- its pages: layer, head, page number, page (06 R193)
  deriving DecidableEq, Repr

/-- KvMid at reset. -/
def KvMid.init : KvMid :=
  { start := 0,
    len := 0,
    origin := 0,
    only := [],
    flushed := [],
    pages := [] }

/-- One chunk of a stream from its forming to its posting (R301-R304, Table 9.11). -/
structure Chunk where
  num : DWord  -- chunk number (09 R301)
  first : Nat  -- free-running index of its first frame (09 R301)
  frames : Nat  -- frames (09 R301)
  arrival : DWord  -- arrival time A_k (01 R21)
  deadline : DWord  -- D_k (09 R302)
  lastSeq : Word  -- SEQ of its last frame (09 R290)
  srcTs : DWord  -- TIMESTAMP of its last frame (09 R290)
  gap : Bool  -- holds a gap frame (09 R290)
  marks : List Nat  -- positions that carry a reset mark (05 R161)
  gapPos : List Nat  -- gap positions (05 R164)
  final : Bool  -- FINAL goes on its entry (09 R296)
  released : Bool  -- released (09 R302)
  ordinal : Nat  -- package-wide order of its release (10 R342)
  initEntry : Bool  -- entry 0 takes ENTRY 1 (05 R162)
  tookInit : Bool  -- some segment took ENTRY 1 (09 R290)
  newContext : Bool  -- starts a new attention context (06 R193)
  replica : Half  -- replica it runs on (01 R28)
  epoch : Half  -- epoch it runs under (10 R348)
  oldEpoch : Bool  -- runs under the old image of a switch (10 R348)
  ratio : Half  -- RATIO as it stood at the release (02 R67, 10 R342)
  initPtr : DWord  -- STE_INIT_PTR as read at the release (05 R153)
  service : Bool  -- it was released in SERVICE (02 R74, 12 R397)
  layers : List LayerWork  -- work per layer (09 R304)
  nflags : Byte  -- numeric flags (02 R65)
  faulted : Option Byte  -- cause when it faulted (09 R299)
  stopped : Bool  -- stopped under R166, waits to be discarded (09 R293)
  outIdx : Nat  -- output slot reserved (09 R292)
  raisedPoison : Bool  -- POISON_READ raised (11 R366)
  raisedEmpty : Bool  -- EMPTY_REDUCTION raised (02 R66)
  kvBase : Nat  -- context position of its first position (06 R177)
  kvNew : Option Nat  -- its position at which the last new context starts (06 R193)
  oldPages : List (Nat × Nat × Nat × Nat)  -- pages of the old context: layer, head, directory index, page number (06 R193)
  oldLayers : Table (Nat × Nat)  -- ORIGIN and LFIRST of each attention layer of the old context (06 R193)
  kvReady : Bool  -- its context position is fixed: every earlier chunk has its own (06 R193)
  skip : Nat  -- frames of discarded chunks that RD_IDX passes with its own (09 R300)
  oldFlushed : Table Nat  -- pages flushed in the old context, by 256 x layer + head (06 R193)
  kvMid : List KvMid  -- contexts that begin and end within it (06 R193)
  shift : Nat  -- shift of catch-up that its tokens carry (09 R306)
  farOut : List (Nat × Nat)  -- home package's result ranges of a chunk that this package runs a part of: address, bytes (13 R428)
  result : List (Nat × List Byte)  -- bytes that this package's part writes to those ranges (13 R428)
  remote : List Nat  -- packages of a deepened placement that have still to report the chunk's state writes complete (13 R428)
  reported : List Nat  -- packages that have reported it (13 R428)
  home : Option (BitVec 4)  -- the home package of a chunk that this package runs a part of (13 R428)
  deriving DecidableEq, Repr

/-- Chunk at reset. -/
def Chunk.init : Chunk :=
  { num := 0,
    first := 0,
    frames := 0,
    arrival := 0,
    deadline := 0,
    lastSeq := 0,
    srcTs := 0,
    gap := false,
    marks := [],
    gapPos := [],
    final := false,
    released := false,
    ordinal := 0,
    initEntry := false,
    tookInit := false,
    newContext := false,
    replica := 0,
    epoch := 0,
    oldEpoch := false,
    ratio := 0,
    initPtr := 0,
    service := false,
    layers := [],
    nflags := 0,
    faulted := none,
    stopped := false,
    outIdx := 0,
    raisedPoison := false,
    raisedEmpty := false,
    kvBase := 0,
    kvNew := none,
    oldPages := [],
    oldLayers := [],
    kvReady := false,
    skip := 0,
    oldFlushed := [],
    kvMid := [],
    shift := 0,
    farOut := [],
    result := [],
    remote := [],
    reported := [],
    home := none }

/-- A stream ring's descriptor as read at start (R285, Table 9.3). -/
structure InRing where
  base : DWord  -- BASE (09 R285)
  nslots : Nat  -- NSLOTS (09 R285)
  slotBytes : Nat  -- SLOT_BYTES (09 R285)
  payBase : DWord  -- PAY_BASE (09 R285)
  paySlot : Nat  -- PAY_SLOT (09 R285)
  deriving DecidableEq, Repr

/-- InRing at reset. -/
def InRing.init : InRing :=
  { base := 0,
    nslots := 0,
    slotBytes := 0,
    payBase := 0,
    paySlot := 0 }

/-- The registers of a stream-table entry (R281, Table 9.1). -/
structure SteRegs where
  reset : Bool  -- STE_CTRL.RESET (09 Table 9.1)
  express : Bool  -- STE_CTRL.EXPRESS (09 Table 9.1)
  keepState : Bool  -- STE_CTRL.KEEP_STATE (09 Table 9.1)
  adaptEn : Bool  -- STE_CTRL.ADAPT_EN (09 Table 9.1)
  cont : Bool  -- STE_CTRL.CONTINUE (09 Table 9.1)
  dclass : Byte  -- STE_CTRL.DEADLINE_CLASS (09 Table 9.1)
  ownerTag : Half  -- STE_CTRL.OWNER_TAG (09 Table 9.1)
  cause : Byte  -- STE_STATUS.CAUSE (09 Table 9.1)
  lagging : Bool  -- STE_STATUS.LAGGING (09 Table 9.1)
  overrun : Bool  -- STE_STATUS.OVERRUN (09 Table 9.1)
  gap : Bool  -- STE_STATUS.GAP (09 Table 9.1)
  paramPending : Bool  -- STE_STATUS.PARAM_PENDING (09 Table 9.1)
  carry : Bool  -- STE_STATUS.CARRY (09 Table 9.1)
  placement : Half  -- STE_GROUP.PLACEMENT (09 Table 9.1)
  model : Half  -- STE_GROUP.MODEL (09 Table 9.1)
  periodUs : Word  -- STE_PERIOD_US (09 Table 9.1)
  delayUs : Word  -- STE_DELAY_US (09 Table 9.1)
  statePtr : DWord  -- STE_STATE_PTR (09 Table 9.1)
  initPtr : DWord  -- STE_INIT_PTR (09 Table 9.1)
  kvTable : DWord  -- STE_KV_TABLE (09 Table 9.1)
  inRing : DWord  -- STE_IN_RING (09 Table 9.1)
  outRing : DWord  -- STE_OUT_RING (09 Table 9.1)
  position : BitVec 48  -- STE_POSITION (09 Table 9.1)
  lagUs : Word  -- STE_LAG_US (09 Table 9.1)
  lagMaxUs : Word  -- STE_LAG_MAX_US (09 Table 9.1)
  chunksDone : DWord  -- STE_CHUNKS_DONE (09 Table 9.1)
  lateCount : Word  -- STE_LATE_COUNT (09 Table 9.1)
  rerunCount : Word  -- STE_RERUN_COUNT (09 Table 9.1)
  satCount : Word  -- STE_SAT_COUNT (09 Table 9.1)
  param : Vector Word 32  -- STE_PARAM[0..31], values last written (09 Table 9.1)
  deriving DecidableEq, Repr

/-- SteRegs at reset. -/
def SteRegs.init : SteRegs :=
  { reset := false,
    express := false,
    keepState := false,
    adaptEn := false,
    cont := false,
    dclass := 0,
    ownerTag := 0,
    cause := 0,
    lagging := false,
    overrun := false,
    gap := false,
    paramPending := false,
    carry := false,
    placement := 0,
    model := 0,
    periodUs := 0,
    delayUs := 0,
    statePtr := 0,
    initPtr := 0,
    kvTable := 0,
    inRing := 0,
    outRing := 0,
    position := 0,
    lagUs := 0,
    lagMaxUs := 0,
    chunksDone := 0,
    lateCount := 0,
    rerunCount := 0,
    satCount := 0,
    param := Vector.replicate 32 0 }

/-- The counts of a stream's telemetry record that no register shows (Table 9.9). -/
structure SteCounts where
  ovf : Word  -- OVF_COUNT (09 Table 9.9)
  nonfinite : Word  -- NONFINITE_COUNT (09 Table 9.9)
  empty : Word  -- EMPTY_COUNT (09 Table 9.9)
  growth : Word  -- GROWTH_COUNT (09 Table 9.9)
  promote : Word  -- PROMOTE_COUNT (09 Table 9.9)
  gapFrames : Word  -- GAP_FRAMES (09 Table 9.9)
  badFrames : Word  -- BAD_FRAMES (09 Table 9.9)
  delays : List Nat  -- delays in ns posted since the last telemetry write (09 Table 9.9)
  outWaitNs : Nat  -- release time held by R292 in the window (09 Table 9.9)
  outWaitSince : Option DWord  -- time at which R292 began to hold the release (09 R292)
  hostKvBytes : Nat  -- evicted-page bytes read in the window (09 Table 9.9)
  freed : Bool  -- became FREE since the last telemetry write (09 R321)
  deriving DecidableEq, Repr

/-- SteCounts at reset. -/
def SteCounts.init : SteCounts :=
  { ovf := 0,
    nonfinite := 0,
    empty := 0,
    growth := 0,
    promote := 0,
    gapFrames := 0,
    badFrames := 0,
    delays := [],
    outWaitNs := 0,
    outWaitSince := none,
    hostKvBytes := 0,
    freed := false }

/-- What the device keeps for a stream beside its entry (chapters 5, 6 and 9). -/
structure SteInt where
  replica : Half  -- replica assigned (09 R294)
  devPlaced : Bool  -- the block was allocated by the device (05 R155)
  movingTo : Option DWord  -- new block of a migration under way (05 R167)
  moved : List Nat  -- layers whose section has been moved (05 R167)
  moveAgain : Bool  -- the stream changed its replica again while its block moved (05 R167)
  inR : InRing  -- input ring as read at start (09 R285)
  outR : InRing  -- output ring as read at start (09 R285)
  wrSeen : Nat  -- input WR_IDX last read (09 R289)
  wrTimes : List (Nat × DWord)  -- index and time of each advance seen (09 R289)
  rdIdx : Nat  -- input RD_IDX (09 R286)
  outWr : Nat  -- output WR_IDX (09 R286)
  outRd : Nat  -- last valid output RD_IDX (09 R286)
  outBad : Bool  -- OUTPUT_INDEX raised since the last valid value (09 R286)
  formIdx : Nat  -- index of the next frame to be formed into a chunk (09 R301)
  nextChunk : DWord  -- number of the next chunk formed (09 R301)
  chunks : List Chunk  -- chunks formed and not yet posted or discarded (09 R301)
  lastRelease : Option DWord  -- R_(k-1) (09 R302)
  lastLateNs : Int  -- C - D of the highest-numbered posted chunk (09 R305)
  lastPosted : DWord  -- number of the highest-numbered posted chunk (09 R305)
  pausePend : Bool  -- a pause is pending (09 R295)
  abortPend : Bool  -- an abort is pending (09 R297)
  ending : Option Nat  -- frame index of the bound (09 R296)
  endTime : DWord  -- acceptance of the end (09 R296)
  extraFinal : Bool  -- a further FINAL entry with FRAMES = 0 is due (09 R296)
  fromEnded : Bool  -- the start came from ENDED (09 R294)
  firstAfterStart : Bool  -- the next release is the first after a start (05 R162)
  continueStart : Bool  -- CARRY or CONTINUE was 1 at the start (05 R162)
  pendingReset : Bool  -- a RESET-mode gap run reached the end of the last chunk (05 R164)
  startExpress : Bool  -- EXPRESS as sampled at start (09 R281)
  startClass : BitVec 2  -- class as sampled at start (09 R310)
  lagLimit : Nat  -- LAG_LIMIT kept from the start (09 R310)
  lagRaised : Bool  -- LAG_LIMIT raised in this episode (09 R309)
  formats : Table (BitVec 2)  -- promoted formats (02 R72)
  reruns : Table (List DWord)  -- chunk numbers on which each layer was re-run (02 R72)
  promotions : List (Nat × DWord × BitVec 2)  -- promotions (layer, chunk, format) that Thyme has still to raise (02 R72)
  undoWide : List (Nat × DWord × BitVec 2 × List DWord)  -- promotions of chunks not yet posted: layer, chunk, and format and re-runs of the layer before (02 R72, 09 R300)
  paramOld : Vector Word 32  -- STE_PARAM before the writes made at paramAt (10 R342)
  paramAt : Option DWord  -- device time of the last STE_PARAM write (10 R342)
  paramMark : Option DWord  -- number of the first chunk whose release is after the last STE_PARAM write (10 R340)
  seqE : Option Word  -- expected sequence number E (13 R417)
  gapRun : Nat  -- gap frames in the open run (09 R288)
  gapFirst : Word  -- SEQ of the run's first frame (09 R288)
  gapChunk : DWord  -- chunk that holds the run's last gap frame (09 R288)
  hold : Bool  -- a checkpoint holds the releases (09 R303)
  epoch : Half  -- epoch that its most recent release used (10 R356)
  switched : Bool  -- switched in the current Switch phase (10 R347)
  newReplica : Half  -- replica of the other image of a switch (10 R346)
  newBlock : Option DWord  -- block in the other image of a switch: the new one, and after the switch the old one (10 R346)
  restart : List Nat  -- layers that start anew at the first chunk under the new epoch (05 R171, 06 R197)
  deltaNs : Option Nat  -- largest delay of the last complete window (09 R313)
  deltaCur : Option Nat  -- largest delay of the window now running (09 R313)
  predicted : Nat  -- prediction made at admission (09 R314)
  kvFlushed : Table Nat  -- pages flushed in this context, by 256 x layer + head (06 R181)
  kvOwners : Table Nat  -- owning core, by 256 x layer + head (06 R180)
  buckets : Table Nat  -- length bucket of each attention layer (06 R200)
  kvStaged : Table (Nat × List Byte)  -- positions and bytes that a fork holds for a staging buffer until the stream has its cores, by 256 x layer + head (06 R195)
  kvPages : Bool  -- the stream has pages or staged positions (06 R195)
  blockLen : Nat  -- bytes of the block that the device allocated (05 R155)
  faultAt : Option DWord  -- number of the faulted chunk, while FAULTED (09 R299)
  overwritten : Bool  -- the fault is INPUT_OVERWRITTEN (09 R286)
  casHeld : Bool  -- held in SAFE (13 R430)
  gathering : Bool  -- a checkpoint gathers the sections of the other packages (05 R170)
  gatherDue : List Nat  -- packages asked for their sections that have still to answer (05 R170)
  gatherGot : List Nat  -- packages that have answered (05 R170)
  sections : List (Nat × List Byte × Bool)  -- sections gathered, or scattered by a restore and not yet placed: layer, bytes, poison (05 R170)
  scatterDue : Bool  -- a restore has still to scatter its sections (05 R170)
  deriving DecidableEq, Repr

/-- SteInt at reset. -/
def SteInt.init : SteInt :=
  { replica := 0,
    devPlaced := false,
    movingTo := none,
    moved := [],
    moveAgain := false,
    inR := InRing.init,
    outR := InRing.init,
    wrSeen := 0,
    wrTimes := [],
    rdIdx := 0,
    outWr := 0,
    outRd := 0,
    outBad := false,
    formIdx := 0,
    nextChunk := 0,
    chunks := [],
    lastRelease := none,
    lastLateNs := 0,
    lastPosted := 0,
    pausePend := false,
    abortPend := false,
    ending := none,
    endTime := 0,
    extraFinal := false,
    fromEnded := false,
    firstAfterStart := false,
    continueStart := false,
    pendingReset := false,
    startExpress := false,
    startClass := 0,
    lagLimit := 8,
    lagRaised := false,
    formats := [],
    reruns := [],
    promotions := [],
    undoWide := [],
    paramOld := Vector.replicate 32 0,
    paramAt := none,
    paramMark := none,
    seqE := none,
    gapRun := 0,
    gapFirst := 0,
    gapChunk := 0,
    hold := false,
    epoch := 0,
    switched := false,
    newReplica := 0,
    newBlock := none,
    restart := [],
    deltaNs := none,
    deltaCur := none,
    predicted := 0,
    kvFlushed := [],
    kvOwners := [],
    buckets := [],
    kvStaged := [],
    kvPages := false,
    blockLen := 0,
    faultAt := none,
    overwritten := false,
    casHeld := false,
    gathering := false,
    gatherDue := [],
    gatherGot := [],
    sections := [],
    scatterDue := false }

/-- A stream: its state, its registers and what the device keeps for it. -/
structure Stream where
  state : SteState  -- STE_STATUS.STATE (09 Table 9.1)
  r : SteRegs  -- registers (09 R281)
  c : SteCounts  -- telemetry counts (09 R323)
  d : SteInt  -- device-kept data (09 R294)
  deriving DecidableEq, Repr

/-- Stream at reset. -/
def Stream.init : Stream :=
  { state := .free,
    r := SteRegs.init,
    c := SteCounts.init,
    d := SteInt.init }

/-- What manufacture and straps fix. -/
structure Fixed where
  variant : BitVec 2  -- HUB_VARIANT.PART: 0 MKF4096, 1 MKF3072 (12 R386, 00 R1)
  vendor : Half  -- Vendor ID, HUB_VARIANT.VENDOR (12 R381)
  stepping : Byte  -- HUB_VERSION.STEPPING (12 R386)
  rom : Byte  -- HUB_VERSION.ROM (12 R386)
  fw : Half  -- HUB_VERSION.FW (12 R386)
  serial : DWord  -- HUB_SERIAL (12 R386)
  jedec : BitVec 11  -- JEDEC manufacturer identity of IDCODE (16 R483)
  ndMounted : BitVec 2  -- HUB_DIES.ND (12 R386)
  deriving DecidableEq, Repr

/-- Fixed at reset. -/
def Fixed.init : Fixed :=
  { variant := 0,
    vendor := 0,
    stepping := 0,
    rom := 0,
    fw := 0,
    serial := 0,
    jedec := 0,
    ndMounted := 3 }

/-- HUB_ block and the pins of the hub (R386, R507, R505). -/
structure Hub where
  phase : Phase  -- HUB_STATUS.PHASE (12 R386, 02 R74)
  ready : Bool  -- HUB_STATUS.READY (12 R386)
  degraded : Bool  -- HUB_STATUS.DEGRADED (12 R386)
  halted : Bool  -- HUB_STATUS.HALTED (12 R386, 15 R451)
  step : BitVec 4  -- HUB_STATUS.STEP (12 R386)
  linkUp : Bool  -- PCIe link trained; HUB_ID answers (16 R467)
  training : Bool  -- PCIe link training entered (16 R467)
  fwRunning : Bool  -- hub firmware running (15 R456)
  enumerated : Bool  -- dies enumerated (12 R386)
  cascId : BitVec 4  -- CASC_ID strap as sampled (12 R386)
  cascMstr : Bool  -- CASC_MSTR strap as sampled (12 R386)
  coreCount : BitVec 17  -- HUB_CORE_COUNT (12 R386)
  cd : BitVec 12  -- HUB_DIES.CD (12 R386)
  od : BitVec 4  -- HUB_DIES.OD (12 R386)
  dieCores : Vector (BitVec 13) 12  -- HUB_DIE_CORESn (12 R386)
  groupEvent : Bool  -- a GROUP-class event was raised during the start (02 R74)
  resetLow : Bool  -- SYS_RST_N or PERST_N is low (16 R467)
  powerGood : Bool  -- stage 1 rails within their limits (17 R490)
  holdUp : Bool  -- the hold-up sequence has run (15 R464)
  thermTripN : Bool  -- level of THERM_TRIP_N (true: released) (17 R505)
  aerErrors : Nat  -- errors and poisoned TLPs reported through AER (12 R383, 11 R367)
  busData : List Byte  -- data the device last returned on a host read (00 R12, 11 R377)
  busPoison : Bool  -- that read completed with a poisoned TLP (11 R367)
  latches : Table Word  -- high words latched by a low-word read (00 R12)
  heldLow : Option (Nat × Word)  -- low word held until its high word is written (00 R12)
  scratch : Table Word  -- debug window words written under an unlock (12 R385)
  deriving DecidableEq, Repr

/-- Hub at reset. -/
def Hub.init : Hub :=
  { phase := .start,
    ready := false,
    degraded := false,
    halted := false,
    step := 0,
    linkUp := false,
    training := false,
    fwRunning := false,
    enumerated := false,
    cascId := 0,
    cascMstr := false,
    coreCount := 0,
    cd := 0,
    od := 0,
    dieCores := Vector.replicate 12 0,
    groupEvent := false,
    resetLow := false,
    powerGood := false,
    holdUp := false,
    thermTripN := true,
    aerErrors := 0,
    busData := [],
    busPoison := false,
    latches := [],
    heldLow := none,
    scratch := [] }

/-- Device time and its steering (R501, R502). -/
structure Clock where
  time : DWord  -- HUB_TIME, device time in ns (17 R501, 12 R386)
  frac : Nat  -- fraction of a ns, in parts per 10^9 (17 R502)
  sysref : Bool  -- PWR_STATUS.SYSREF (17 R511)
  slewLeft : Word  -- PWR_TIME_SLEW_LEFT, signed (17 R511)
  rate : Word  -- PWR_TIME_RATE, signed (17 R511)
  slewFrac : Nat  -- fraction of a ns of slew consumed, in parts per 10^9 (17 R502)
  tickAt : DWord  -- time of the last Thyme tick (09 R517)
  decisionAt : DWord  -- time of the last decision (09 R517)
  windowAt : DWord  -- time of the last window end (09 R517)
  startedAt : DWord  -- time at which the start began (16 R472)
  deriving DecidableEq, Repr

/-- Clock at reset. -/
def Clock.init : Clock :=
  { time := 0,
    frac := 0,
    sysref := false,
    slewLeft := 0,
    rate := 0,
    slewFrac := 0,
    tickAt := 0,
    decisionAt := 0,
    windowAt := 0,
    startedAt := 0 }

/-- PWR_TEMPd and the die's thermal episode (R503, R504). -/
structure Temp where
  t : Half  -- PWR_TEMPd.T (17 R511)
  warn : Bool  -- PWR_TEMPd.WARN (17 R511)
  limit : Bool  -- PWR_TEMPd.LIMIT (17 R511)
  wasAbove : Bool  -- at or above its warning limit at some time in this window (17 R504)
  coolWindow : Bool  -- below its warning limit for the last full window (17 R317)
  deriving DecidableEq, Repr

/-- Temp at reset. -/
def Temp.init : Temp :=
  { t := 0x8000,
    warn := false,
    limit := false,
    wasAbove := false,
    coolWindow := false }

/-- PWR_ block and the clock control of the dies (R492-R514). -/
structure Pwr where
  hot : Bool  -- D3hot (17 R492)
  resuming : Bool  -- PWR_STATUS.RESUMING (17 R511)
  unclean : Bool  -- PWR_STATUS.UNCLEAN (17 R511)
  badWrite : Bool  -- PWR_STATUS.BAD_WRITE (17 R511)
  limitW : BitVec 10  -- PWR_LIMIT_W (17 R511)
  pkgMw : Word  -- PWR_PKG_MW (17 R511)
  energyJ : DWord  -- PWR_ENERGY_J (17 R511)
  thermalMhz : Vector (BitVec 9) 12  -- setting that R317 and R504 give each die (17 R497)
  powerMhz : BitVec 9  -- setting that R497 gives every die (17 R497)
  clamped : BitVec 12  -- stacks clamped to 160 MHz in hardware (17 R504)
  limitSince : Table DWord  -- time since which each stack stands at or above its operating maximum at 160 MHz (17 R504)
  mv : Vector (BitVec 10) 12  -- PWR_CLKn.MV (17 R489, R511)
  avsFail : BitVec 12  -- PWR_CLKn.AVS_FAIL (17 R511)
  railMw : Vector Word 21  -- PWR_RAILr_MW (17 R511)
  temp : Vector Temp 32  -- PWR_TEMPd (17 R511)
  flrDue : Bool  -- the effects of a Function Level Reset are due before RESUMING clears (17 R495)
  lowPower : Bool  -- power at or below 95 % of the limit for a full window (17 R497)
  lowSoFar : Bool  -- and in the window now running (17 R497)
  deriving DecidableEq, Repr

/-- Pwr at reset. -/
def Pwr.init : Pwr :=
  { hot := false,
    resuming := false,
    unclean := false,
    badWrite := false,
    limitW := 750,
    pkgMw := 0,
    energyJ := 0,
    thermalMhz := Vector.replicate 12 320,
    powerMhz := 320,
    clamped := 0,
    limitSince := [],
    mv := Vector.replicate 12 750,
    avsFail := 0,
    railMw := Vector.replicate 21 0,
    temp := Vector.replicate 32 Temp.init,
    flrDue := false,
    lowPower := false,
    lowSoFar := true }

/-- A completion entry waiting to be written (R393). -/
structure Cpl where
  cmdId : Half  -- CMD_ID (12 Table 12.7)
  status : Byte  -- STATUS (12 Table 12.8)
  cause : Byte  -- CAUSE (12 Table 12.7)
  result : List Word  -- RESULT (12 Table 12.7)
  slot : Option Nat  -- PRG_ entry of the command (12 R406)
  deriving DecidableEq, Repr

/-- Cpl at reset. -/
def Cpl.init : Cpl :=
  { cmdId := 0,
    status := 0,
    cause := 0,
    result := [],
    slot := none }

/-- A command-queue pair (R387, Table 12.5). -/
structure Queue where
  cmdBase : DWord  -- QUE_CMDn_BASE (12 R387)
  cmdEn : Bool  -- QUE_CMDn_CTRL.EN (12 R387)
  cmdSize : BitVec 4  -- QUE_CMDn_CTRL.SIZE (12 R387)
  tail : BitVec 12  -- QUE_CMDn_TAIL (12 R387)
  head : BitVec 12  -- QUE_CMDn_HEAD (12 R387)
  cplBase : DWord  -- QUE_CPLn_BASE (12 R387)
  cplEn : Bool  -- QUE_CPLn_CTRL.EN (12 R387)
  cplSize : BitVec 4  -- QUE_CPLn_CTRL.SIZE (12 R387)
  count : Byte  -- QUE_CPLn_CTRL.COUNT (12 R387)
  waitUs : Half  -- QUE_CPLn_CTRL.WAIT_US (12 R387)
  cplHead : BitVec 12  -- QUE_CPLn_HEAD (12 R387)
  cplTail : BitVec 12  -- QUE_CPLn_TAIL (12 R387)
  cplPhase : Bool  -- PHASE of the pass (12 R393)
  held : List Cpl  -- completions waiting for room (12 R391)
  unsignalled : Nat  -- completions written since the vector last fired (12 R404)
  oldest : Option DWord  -- time of the oldest unsignalled completion (12 R404)
  deriving DecidableEq, Repr

/-- Queue at reset. -/
def Queue.init : Queue :=
  { cmdBase := 0,
    cmdEn := false,
    cmdSize := 0,
    tail := 0,
    head := 0,
    cplBase := 0,
    cplEn := false,
    cplSize := 0,
    count := 0,
    waitUs := 0,
    cplHead := 0,
    cplTail := 0,
    cplPhase := true,
    held := [],
    unsignalled := 0,
    oldest := none }

/-- QUE_ block, interrupts and MSI-X (R387-R404). -/
structure Que where
  q : Vector Queue 4  -- pairs 0 to 3 (12 R387)
  evBase : DWord  -- QUE_EVQ_BASE (12 R387)
  evEn : Bool  -- QUE_EVQ_CTRL.EN (12 R387)
  evSize : BitVec 4  -- QUE_EVQ_CTRL.SIZE (12 R387)
  evHead : BitVec 14  -- QUE_EVQ_HEAD (12 R387)
  evTail : BitVec 14  -- QUE_EVQ_TAIL (12 R387)
  evPhase : Bool  -- PHASE of the pass (12 R395)
  evBatched : Option DWord  -- time vector 0 last fired for a lower class (12 R404)
  evUnread : Bool  -- an entry of a class below STREAM is unread (12 R404)
  holdoffUs : Half  -- QUE_RES_HOLDOFF (12 R387)
  err : BitVec 4  -- QUE_STATUS.ERR (12 R387)
  cplLost : BitVec 4  -- QUE_STATUS.CPL_LOST (12 R387)
  evqErr : Bool  -- QUE_STATUS.EVQ_ERR (12 R387)
  resIrqEn : Table Word  -- QUE_RES_IRQ_EN (12 R387)
  dbIn : List Nat  -- streams with an input re-read pending (12 R403)
  dbOut : List Nat  -- streams with an output re-read pending (12 R403)
  resFired : Table DWord  -- when each result vector last fired (12 R404)
  resPending : List Nat  -- result vectors with a result within the hold-off (12 R404)
  fired : Vector Word 64  -- times each vector fired (12 R404)
  msix : Memory  -- MSI-X table; every vector masked (12 R385)
  pba : DWord  -- MSI-X pending-bit array (12 R385)
  turn : BitVec 2  -- next queue in turn (12 R389)
  deriving DecidableEq, Repr

/-- Que at reset. -/
def Que.init : Que :=
  { q := Vector.replicate 4 Queue.init,
    evBase := 0,
    evEn := false,
    evSize := 0,
    evHead := 0,
    evTail := 0,
    evPhase := true,
    evBatched := none,
    evUnread := false,
    holdoffUs := 100,
    err := 0,
    cplLost := 0,
    evqErr := false,
    resIrqEn := [],
    dbIn := [],
    dbOut := [],
    resFired := [],
    resPending := [],
    fired := Vector.replicate 64 0,
    msix := (List.range 64).map fun v => (16 * v + 12, 1),
    pba := 0,
    turn := 0 }

/-- A PRG_ entry (R406, Table 12.14). -/
structure Prg where
  cmdId : Half  -- CMD_ID (12 R406)
  queue : BitVec 2  -- QUEUE (12 R406)
  opcode : Byte  -- OPCODE (12 R406)
  active : Bool  -- ACTIVE (12 R406)
  doneUnits : Word  -- DONE (12 R406)
  total : Word  -- TOTAL (12 R406)
  tens : Nat  -- tens of PCT for which vector 6 last fired (12 R404)
  deriving DecidableEq, Repr

/-- Prg at reset. -/
def Prg.init : Prg :=
  { cmdId := 0,
    queue := 0,
    opcode := 0,
    active := false,
    doneUnits := 0,
    total := 0,
    tens := 0 }

/-- A long command in progress: its entry and its words (R389, R406). -/
structure LongCmd where
  slot : Nat  -- PRG_ entry (12 R406)
  cmd : HostCmd  -- the command (12 R392)
  cursor : Nat  -- units done (12 R402)
  count : Nat  -- a count kept for RESULT (12 R402)
  count2 : Nat  -- a second count kept for RESULT (12 R402)
  dieCursor : Table Nat  -- bytes read on each die by a demand scrub (11 R369)
  deriving DecidableEq, Repr

/-- LongCmd at reset. -/
def LongCmd.init : LongCmd :=
  { slot := 0,
    cmd := ⟨0, []⟩,
    cursor := 0,
    count := 0,
    count2 := 0,
    dieCursor := [] }

/-- A raised event record (R443, Tables 12.10 and 15.4). -/
structure Record where
  code : Half  -- CODE (15 R443)
  cls : BitVec 3  -- CLASS (15 R442)
  injected : Bool  -- INJECTED (12 R405)
  summary : Bool  -- summary record (15 R444)
  seq : Word  -- SEQ (15 R445)
  time : DWord  -- TIME (12 R395)
  stream : Half  -- STREAM (12 R395)
  core : BitVec 17  -- CORE (12 R395)
  detail : List Word  -- W6-W13 (15 R443)
  start : Word  -- START of its Bay entry (15 R452)
  holdup : Bool  -- HOLDUP of its Bay entry (15 R452)
  deriving DecidableEq, Repr

/-- Record at reset. -/
def Record.init : Record :=
  { code := 0,
    cls := 0,
    injected := false,
    summary := false,
    seq := 0,
    time := 0,
    stream := 0xFFFF,
    core := 0x1FFFF,
    detail := [],
    start := 0,
    holdup := false }

/-- EVT_ block, the error queue and its handling (R405, R445-R450, R455). -/
structure Evt where
  freedSlots : List Nat  -- host slots reported as freed, oldest first, in a form that the manual does not give (06 R196)
  lost : Word  -- EVT_LOST (12 R405)
  seq : Word  -- EVT_SEQ, SEQ of the latest entry written (12 R405)
  classCount : Vector Word 6  -- EVT_CLASS_COUNTc (12 R405)
  halted : Bool  -- EVT_STATUS.HALTED (12 R405)
  nextSeq : Word  -- SEQ of the next record raised (15 R445)
  waiting : List Record  -- records waiting, in SEQ order (15 R445)
  handling : Option Record  -- record in handling (15 R446)
  preempted : List Record  -- preempted handlings (15 R446)
  handled : List Record  -- handled records whose entries wait, in order of completion (15 R447)
  overflow : Option Record  -- ERROR_QUEUE_OVERFLOW in entry 255 (15 R450)
  episode : Nat  -- losses of the overflow episode (15 R450)
  graceUntil : Option DWord  -- end of the grace of a DEVICE record (15 R448)
  stopReleases : Bool  -- releases stopped by a DEVICE record (15 R448)
  window : Nat  -- number of the 1 s window that the counts below belong to (15 R455)
  infoCount : Nat  -- INFO records raised in the window (15 R455)
  corrCount : Nat  -- CORRECTED records raised in the window (15 R455)
  summarised : List (Half × BitVec 3 × Word × DWord × DWord)  -- code, class, count, first and last time of the records folded in (15 R444, R455)
  deriving DecidableEq, Repr

/-- Evt at reset. -/
def Evt.init : Evt :=
  { freedSlots := [],
    lost := 0,
    seq := 0,
    classCount := Vector.replicate 6 0,
    halted := false,
    nextSeq := 0,
    waiting := [],
    handling := none,
    preempted := [],
    handled := [],
    overflow := none,
    episode := 0,
    graceUntil := none,
    stopReleases := false,
    window := 0,
    infoCount := 0,
    corrCount := 0,
    summarised := [] }

/-- BBX_ registers, the Bay writer's buffer and both copies (R452-R457, R466). -/
structure Bay where
  opened : Bool  -- BBX_STATUS.OPEN (15 R466)
  bad0 : Bool  -- BBX_STATUS.BAD0 (15 R466)
  bad1 : Bool  -- BBX_STATUS.BAD1 (15 R466)
  wrapped : Bool  -- BBX_STATUS.WRAPPED (15 R466)
  head : BitVec 20  -- BBX_HEAD (15 R466)
  seq : Word  -- BBX_SEQ (15 R466)
  summarised : Word  -- BBX_SUMMARISED (15 R466)
  waits : Word  -- BBX_WAITS (15 R466)
  dropped : Word  -- BBX_DROPPED (15 R466)
  readIndex : BitVec 20  -- BBX_READ_INDEX (15 R466)
  readValid : Bool  -- BBX_READ_STATUS.VALID (15 R466)
  readCopy : Bool  -- BBX_READ_STATUS.COPY (15 R466)
  readData : List Word  -- BBX_READ_DATA (15 R466)
  buffer : List Record  -- records held by the writer, oldest first (15 R453)
  powerFail : Option Record  -- the entry kept for POWER_FAIL (15 R453)
  waitingIn : List Record  -- records waiting to enter the buffer (15 R453)
  nextSeq : Word  -- BAY_SEQ of the next entry (15 R452)
  copy0 : Table (List Word)  -- ND0 copy (15 R452)
  copy1 : Table (List Word)  -- ND1 copy (15 R452)
  mgmtIndex : BitVec 20  -- management-bus Bay index (15 Table 15.5)
  mgmtValid : Bool  -- management-bus VALID (15 Table 15.5)
  mgmtCopy : Bool  -- management-bus copy read (15 Table 15.5)
  mgmtData : List Word  -- management-bus entry (15 Table 15.5)
  mgmtHead : Option (BitVec 20 × Word)  -- head index and newest BAY_SEQ as HD1 found them (15 R456)
  deriving DecidableEq, Repr

/-- Bay at reset. -/
def Bay.init : Bay :=
  { opened := false,
    bad0 := false,
    bad1 := false,
    wrapped := false,
    head := 0,
    seq := 0,
    summarised := 0,
    waits := 0,
    dropped := 0,
    readIndex := 0,
    readValid := false,
    readCopy := false,
    readData := List.replicate 16 0,
    buffer := [],
    powerFail := none,
    waitingIn := [],
    nextSeq := 0,
    copy0 := [],
    copy1 := [],
    mgmtIndex := 0,
    mgmtValid := false,
    mgmtCopy := false,
    mgmtData := List.replicate 16 0,
    mgmtHead := none }

/-- A journal record (R459). -/
structure JRec where
  type : Half  -- TYPE (15 R459)
  delete : Bool  -- DELETE (15 R459)
  key : DWord  -- KEY (15 R459)
  payload : List Byte  -- payload (15 R459)
  deriving DecidableEq, Repr

/-- JRec at reset. -/
def JRec.init : JRec :=
  { type := 0,
    delete := false,
    key := 0,
    payload := [] }

/-- A journal transaction (R460). -/
structure Txn where
  seq : DWord  -- SEQ (15 R460)
  recs : List JRec  -- its records (15 R460)
  deriving DecidableEq, Repr

/-- Txn at reset. -/
def Txn.init : Txn :=
  { seq := 0,
    recs := [] }

/-- JNL_ registers and the configuration journal (R458-R463, R466). -/
structure Jnl where
  mounted : Bool  -- JNL_STATUS.MOUNTED (15 R466)
  compacting : Bool  -- JNL_STATUS.COMPACTING (15 R466)
  bad0 : Bool  -- JNL_STATUS.BAD0 (15 R466)
  bad1 : Bool  -- JNL_STATUS.BAD1 (15 R466)
  full : Bool  -- JNL_STATUS.FULL (15 R466)
  gen : Word  -- JNL_GEN (15 R466)
  fill : BitVec 28  -- JNL_FILL (15 R466)
  pct : Byte  -- JNL_COMPACT_PCT (15 R466)
  seq : DWord  -- JNL_SEQ (15 R466)
  torn : Word  -- JNL_TORN (15 R466)
  commits : Word  -- JNL_COMMITS (15 R466)
  copy0 : List Txn  -- committed transactions on ND0, in SEQ order (15 R458)
  copy1 : List Txn  -- committed transactions on ND1, in SEQ order (15 R458)
  torn0 : Nat  -- transactions begun and not committed on the copies (15 R461)
  queue : List Txn  -- transactions waiting to commit, in SEQ order (15 R460)
  suspended : Bool  -- journal writes suspended (16 Table 16.2)
  copied : Nat  -- bytes copied by the compaction (15 R462)
  image0 : Option (List Byte)  -- complete image in ND0's image store (10 R354)
  image1 : Option (List Byte)  -- complete image in ND1's image store (10 R354)
  deriving DecidableEq, Repr

/-- Jnl at reset. -/
def Jnl.init : Jnl :=
  { mounted := false,
    compacting := false,
    bad0 := false,
    bad1 := false,
    full := false,
    gen := 0,
    fill := 0,
    pct := 0,
    seq := 0,
    torn := 0,
    commits := 0,
    copy0 := [],
    copy1 := [],
    torn0 := 0,
    queue := [],
    suspended := false,
    copied := 0,
    image0 := none,
    image1 := none }

/-- A group record (R329, Table 10.4). -/
structure ImgGroup where
  group : Half  -- GROUP (10 R329)
  compat : Bool  -- COMPAT (10 R329)
  hazardEvent : Bool  -- HAZARD_EVENT (10 R329)
  bankPwr : Byte  -- BANK_PWR (10 R329)
  bankZero : Byte  -- BANK_ZERO (10 R329)
  inRing : BitVec 5  -- IN_RING (10 R329)
  outRings : List (BitVec 5)  -- OUT_RINGS (10 R329)
  program : Nat  -- PROGRAM (10 R329)
  coreFirst : Nat  -- CORE_FIRST (10 R329)
  coreCount : Nat  -- CORE_COUNT (10 R329)
  rings : List Ring  -- RINGS (10 R329)
  deriving DecidableEq, Repr

/-- ImgGroup at reset. -/
def ImgGroup.init : ImgGroup :=
  { group := 0,
    compat := false,
    hazardEvent := false,
    bankPwr := 0,
    bankZero := 0,
    inRing := 31,
    outRings := [],
    program := 0,
    coreFirst := 0,
    coreCount := 0,
    rings := [] }

/-- A replica record (R330). -/
structure ImgReplica where
  replica : Half  -- REPLICA (10 R330)
  template : Half  -- TEMPLATE (10 R330)
  die : BitVec 4  -- DIE (10 R330)
  groups : List Half  -- layer groups in layer order (10 R330)
  buckets : List Half  -- shard core sets of length buckets (10 R330, 06 R200)
  deriving DecidableEq, Repr

/-- ImgReplica at reset. -/
def ImgReplica.init : ImgReplica :=
  { replica := 0,
    template := 0,
    die := 0,
    groups := [],
    buckets := [] }

/-- A layer-table entry (R334). -/
structure ImgLayer where
  kind : BitVec 2  -- KIND: 0 recurrent, 1 attention, 2 other (10 R334)
  kvHeads : Byte  -- KV_HEADS (10 R334)
  kvFmt : Bool  -- KV_FMT (10 R334)
  wOff : Nat  -- offset of its narrow weights (10 R334)
  wLen : Nat  -- length of its narrow weights (10 R334)
  wDigest : List Byte  -- WDIGEST (10 R334)
  deriving DecidableEq, Repr

/-- ImgLayer at reset. -/
def ImgLayer.init : ImgLayer :=
  { kind := 0,
    kvHeads := 0,
    kvFmt := false,
    wOff := 0,
    wLen := 0,
    wDigest := [] }

/-- A state-map entry (R151, Table 5.4). -/
structure ImgState where
  layer : Half  -- LAYER (05 R151)
  op : BitVec 4  -- OP (05 R151)
  gapMode : BitVec 2  -- GAP_MODE (05 R151)
  d : Nat  -- D (05 R151)
  n : Nat  -- N (05 R151)
  offset : Nat  -- OFFSET (05 R151)
  deriving DecidableEq, Repr

/-- ImgState at reset. -/
def ImgState.init : ImgState :=
  { layer := 0,
    op := 0,
    gapMode := 0,
    d := 0,
    n := 0,
    offset := 0 }

/-- A template record with its tables (R334, Table 10.5). -/
structure ImgTemplate where
  template : Half  -- TEMPLATE (10 R334)
  expressCap : Bool  -- EXPRESS_CAP (10 R334)
  f : Nat  -- F (10 R334)
  framesPerPos : Nat  -- FRAMES_PER_POS (10 R334)
  framePayload : Nat  -- FRAME_PAYLOAD (10 R334)
  resultBytes : Nat  -- RESULT_BYTES (10 R334)
  layers : List ImgLayer  -- layer table (10 R334)
  stateMap : List ImgState  -- state map (10 R334)
  blockBytes : Nat  -- BLOCK_BYTES (10 R334)
  wDeclNs : Nat  -- W_DECL_NS (10 R334)
  lDeclUs : Nat  -- L_DECL_US (10 R334)
  statePool : Byte  -- STATE_POOL (10 R334)
  kvPool : Byte  -- KV_POOL (10 R334)
  weights : Nat  -- WEIGHTS (10 R334)
  masters : Option Nat  -- MASTERS (10 R334)
  modelDigest : List Byte  -- digest of section WEIGHTS (05 R168)
  deriving DecidableEq, Repr

/-- ImgTemplate at reset. -/
def ImgTemplate.init : ImgTemplate :=
  { template := 0,
    expressCap := false,
    f := 0,
    framesPerPos := 1,
    framePayload := 0,
    resultBytes := 0,
    layers := [],
    stateMap := [],
    blockBytes := 0,
    wDeclNs := 0,
    lDeclUs := 0,
    statePool := 0,
    kvPool := 0,
    weights := 0,
    masters := none,
    modelDigest := [] }

/-- A pool record (R333). -/
structure ImgPool where
  kv : Bool  -- KIND (10 R333)
  index : Byte  -- INDEX (10 R333)
  dataBase : Nat  -- DATA_BASE (10 R333)
  frames : Nat  -- FRAMES (10 R333)
  frameBytes : Nat  -- FRAME_BYTES (10 R333)
  scaleBase : Nat  -- SCALE_BASE (10 R333)
  descOffset : Nat  -- DESC_OFFSET (10 R333)
  deriving DecidableEq, Repr

/-- ImgPool at reset. -/
def ImgPool.init : ImgPool :=
  { kv := false,
    index := 0,
    dataBase := 0,
    frames := 0,
    frameBytes := 0,
    scaleBase := 0,
    descOffset := 0 }

/-- A section-table entry (R327, Table 10.2). -/
structure ImgSection where
  type : Half  -- TYPE (10 R327)
  optional : Bool  -- OPTIONAL (10 R327)
  offset : Nat  -- OFFSET (10 R327)
  length : Nat  -- LENGTH (10 R327)
  digest : List Byte  -- DIGEST (10 R327)
  deriving DecidableEq, Repr

/-- ImgSection at reset. -/
def ImgSection.init : ImgSection :=
  { type := 0,
    optional := false,
    offset := 0,
    length := 0,
    digest := [] }

/-- A preload record (R331). -/
structure Preload where
  group : Half  -- GROUP (10 R331)
  dst : Nat  -- DST (10 R331)
  sect : Nat  -- SECTION (10 R331)
  offset : Nat  -- OFFSET (10 R331)
  length : Nat  -- LENGTH (10 R331)
  stride : Nat  -- STRIDE (10 R331)
  deriving DecidableEq, Repr

/-- Preload at reset. -/
def Preload.init : Preload :=
  { group := 0,
    dst := 0,
    sect := 0,
    offset := 0,
    length := 0,
    stride := 0 }

/-- A migration record (R335). -/
structure Migration where
  template : Half  -- TEMPLATE (10 R335)
  layer : Half  -- LAYER (10 R335)
  oldLayer : Half  -- OLD_LAYER (10 R335)
  resize : Bool  -- KIND (10 R335)
  deriving DecidableEq, Repr

/-- Migration at reset. -/
def Migration.init : Migration :=
  { template := 0,
    layer := 0,
    oldLayer := 0,
    resize := false }

/-- A wave record (R336). -/
structure Wave where
  wave : Half  -- WAVE (10 R336)
  timeUs : Nat  -- WAVE_TIME_US (10 R336)
  groups : List Half  -- group numbers (10 R336)
  deriving DecidableEq, Repr

/-- Wave at reset. -/
def Wave.init : Wave :=
  { wave := 0,
    timeUs := 0,
    groups := [] }

/-- An image as verified (R326, Table 10.1), held in DRAM at its base. -/
structure Image where
  base : Nat  -- IMAGE_BASE (10 R326)
  bytes : Nat  -- IMAGE_BYTES (10 R326)
  range : Nat  -- RANGE_BYTES (10 R326)
  applyPolicy : Bool  -- APPLY_POLICY (10 R326)
  secVersion : Word  -- SECURITY_VERSION (10 R326)
  minCores : Nat  -- MIN_CORES (10 R326)
  spadKib : Byte  -- SPAD_KIB (10 R326)
  on4096 : Bool  -- ON_4096 (10 R326)
  on3072 : Bool  -- ON_3072 (10 R326)
  imageId : List Byte  -- IMAGE_ID (10 R326)
  sigOffset : Nat  -- SIG_OFFSET (10 R326)
  ctxOffset : Nat  -- CTX_OFFSET (10 R326)
  sections : List ImgSection  -- section table (10 R327)
  groups : List ImgGroup  -- groups (10 R329)
  replicas : List ImgReplica  -- replicas (10 R330)
  preloads : List Preload  -- preloads (10 R331)
  routes : List (BitVec 4 × BitVec 4 × BitVec 4)  -- routes: source, destination and via die (10 R332)
  pools : List ImgPool  -- pools (10 R333)
  templates : List ImgTemplate  -- templates (10 R334)
  policy : List Word  -- POLICY values for THM_ offsets 0x00-0x3F (10 R343)
  migrations : List Migration  -- migrations (10 R335)
  waves : List Wave  -- waves (10 R336)
  deriving DecidableEq, Repr

/-- Image at reset. -/
def Image.init : Image :=
  { base := 0,
    bytes := 0,
    range := 0,
    applyPolicy := false,
    secVersion := 0,
    minCores := 0,
    spadKib := 0,
    on4096 := false,
    on3072 := false,
    imageId := List.replicate 32 0,
    sigOffset := 0,
    ctxOffset := 0,
    sections := [],
    groups := [],
    replicas := [],
    preloads := [],
    routes := [],
    pools := [],
    templates := [],
    policy := [],
    migrations := [],
    waves := [] }

/-- A full load or switch under way (R337-R354). -/
structure Load where
  cmd : Option LongCmd  -- the command that asked for it (12 R398)
  src : DWord  -- ADDR (12 R398)
  bytes : Nat  -- BYTES (12 R398)
  isEpoch : Bool  -- EPOCH, not IMAGE_LOAD (12 R398)
  persist : Bool  -- PERSIST (10 R354)
  abortCause : BitVec 8  -- cause of the abort under way (10 R352)
  waveIdx : Nat  -- waves begun (10 R350)
  waveOn : Bool  -- the wave waits for its affected streams (10 R350)
  committed : Bool  -- the commit point has passed (10 R352)
  prepared : Bool  -- Prepare has ended (10 R347)
  work : Nat  -- bytes verified so far, or written to the image store (10 R344, R354)
  deriving DecidableEq, Repr

/-- Load at reset. -/
def Load.init : Load :=
  { cmd := none,
    src := 0,
    bytes := 0,
    isEpoch := false,
    persist := false,
    abortCause := 0,
    waveIdx := 0,
    waveOn := false,
    committed := false,
    prepared := false,
    work := 0 }

/-- CFG_ block and the images (R356, R337-R355). -/
structure Cfg where
  phase : CfgPhase  -- CFG_STATUS.PHASE (10 R356)
  wavesOn : Bool  -- CFG_STATUS.WAVES (10 R356)
  persist : Bool  -- CFG_STATUS.PERSIST (10 R356)
  reject : Byte  -- CFG_STATUS.REJECT (10 R356)
  abort : Byte  -- CFG_STATUS.ABORT (10 R356)
  epoch : Half  -- CFG_EPOCH.CURRENT (10 R356)
  pct : Byte  -- CFG_PROGRESS.PCT (10 R356)
  wave : Byte  -- CFG_PROGRESS.WAVE (10 R356)
  waves : Byte  -- CFG_PROGRESS.WAVES (10 R356)
  swDone : BitVec 13  -- CFG_SWITCHED.DONE (10 R356)
  swTotal : BitVec 13  -- CFG_SWITCHED.TOTAL (10 R356)
  satMark : Option Nat  -- release order at the last THM_SAT_THRESH write, for CFG_PENDING.SAT_THRESH (10 R342)
  cur : Option Image  -- current image, CFG_IMAGE_ID (10 R326)
  staged : Option Image  -- staged image, CFG_STAGED_ID (10 R326)
  old : Option Image  -- image replaced at the last commit point, for the chunks released before it (10 R348)
  load : Option Load  -- the load or switch in progress (10 R341)
  bankOf : BitVec 1  -- program bank of the current epoch (07 R245)
  deriving DecidableEq, Repr

/-- Cfg at reset. -/
def Cfg.init : Cfg :=
  { phase := .none,
    wavesOn := false,
    persist := false,
    reject := 0,
    abort := 0,
    epoch := 0,
    pct := 0,
    wave := 0,
    waves := 0,
    swDone := 0,
    swTotal := 0,
    satMark := none,
    cur := none,
    staged := none,
    old := none,
    load := none,
    bankOf := 0 }

/-- THM_ block and Thyme's measurements (R313-R319). -/
structure Thm where
  rebalEn : Bool  -- THM_CTRL.REBAL_EN (09 R319)
  coolPlace : Bool  -- THM_CTRL.COOL_PLACE (09 R319)
  utilMax : Byte  -- THM_UTIL_MAX (09 R319)
  guard : Byte  -- THM_GUARD (09 R319)
  ratio : Half  -- THM_SAT_THRESH.RATIO, value last written (09 R319, 02 R67)
  ratioOld : Half  -- RATIO before the writes made at ratioAt (10 R342)
  ratioAt : Option DWord  -- device time of the last THM_SAT_THRESH write (10 R342)
  maxMoves : Byte  -- THM_REBAL.MAX_MOVES (09 R319)
  hyst : Byte  -- THM_REBAL.HYST (09 R319)
  clkFloor : BitVec 9  -- THM_CLK_FLOOR (09 R319)
  linkMax : Byte  -- THM_LINK_MAX (09 R319)
  expressMax : BitVec 7  -- THM_EXPRESS_MAX (09 R319)
  cuRatio : Vector Byte 4  -- THM_CLASSn.CU_RATIO (09 R319)
  lagLimit : Vector Byte 4  -- THM_CLASSn.LAG_LIMIT (09 R319)
  telEn : Bool  -- THM_TELEM.EN (09 R319)
  telAddr : DWord  -- THM_TELEM.ADDR (09 R319)
  telSeq : Word  -- THM_TELEM_SEQ (09 R319)
  util : Byte  -- THM_STATUS.UTIL (09 R319)
  wMeas : List (Half × Nat × Nat)  -- W_T,g in ns of the last complete window, by template and group position (09 R313)
  wCur : List (Half × Nat × Nat)  -- and of the window now running (09 R313)
  lMeas : List (Half × Nat)  -- L_T in ns of the last complete window (09 R313)
  lCur : List (Half × Nat)  -- and of the window now running (09 R313)
  posted : Nat  -- chunks posted since the last telemetry write (09 R325)
  releases : Nat  -- releases made package-wide (10 R342)
  telFrom : DWord  -- time of the last telemetry write's decision, from which the window's cycles count (09 R324)
  dieRank : List Nat  -- compute dies from coolest to warmest (09 R318)
  calibrate : List (Half × Half × Nat × Nat × DWord)  -- promotions of the window: OWNER_TAG, model, layer, stream, chunk (09 R318)
  deriving DecidableEq, Repr

/-- Thm at reset. -/
def Thm.init : Thm :=
  { rebalEn := true,
    coolPlace := true,
    utilMax := 80,
    guard := 90,
    ratio := 0x40,
    ratioOld := 0x40,
    ratioAt := none,
    maxMoves := 8,
    hyst := 5,
    clkFloor := 240,
    linkMax := 80,
    expressMax := 64,
    cuRatio := Vector.replicate 4 25,
    lagLimit := Vector.replicate 4 8,
    telEn := false,
    telAddr := 0,
    telSeq := 0,
    util := 0,
    wMeas := [],
    wCur := [],
    lMeas := [],
    lCur := [],
    posted := 0,
    releases := 0,
    telFrom := 0,
    dieRank := [],
    calibrate := [] }

/-- A fault entry (R375, Table 11.6), with its waiters. -/
structure FaultEntry where
  va : BitVec 48  -- VA (11 R375)
  kind : BitVec 3  -- KIND (11 R375)
  write : Bool  -- WRITE (11 R375)
  pool : Byte  -- POOL (11 R375)
  waiters : List (BitVec 17 × Nat)  -- operations waiting: core and operation, first waiter first (11 R375)
  deriving DecidableEq, Repr

/-- FaultEntry at reset. -/
def FaultEntry.init : FaultEntry :=
  { va := 0,
    kind := 0,
    write := false,
    pool := 0,
    waiters := [] }

/-- MMU_ block, TLBs, fault table and scrub (R370-R379). -/
structure Mmu where
  badResume : Bool  -- MMU_STATUS.BAD_RESUME (11 R379)
  aperMiss : Bool  -- MMU_STATUS.APER_MISS (11 R379)
  root : DWord  -- MMU_ROOT (11 R379)
  invalVa : DWord  -- MMU_INVAL_VA (11 R379)
  invalPages : Half  -- MMU_INVAL_CTRL.PAGES (11 R379)
  invalGo : Bool  -- MMU_INVAL_CTRL.GO (11 R379)
  aperBase : DWord  -- MMU_APER_BASE (11 R379)
  ce : Word  -- MMU_CE_COUNT (11 R379)
  ue : Word  -- MMU_UE_COUNT (11 R379)
  poisonCount : Word  -- MMU_POISON_COUNT (11 R379)
  scrubEn : Bool  -- MMU_SCRUB_CTRL.EN (11 R379)
  passes : Word  -- MMU_SCRUB_PASSES (11 R379)
  lastUe : BitVec 48  -- MMU_LAST_UE (11 R379)
  patrol : Table Nat  -- next patrol offset of each die (11 R368)
  faults : Table FaultEntry  -- outstanding fault entries, by FAULT_ID (11 R375)
  tlb : List (BitVec 4 × Nat × DWord)  -- cached L3 entries: die, page, entry (11 R372)
  walkFault : Option (BitVec 4 × BitVec 48 × BitVec 3)  -- die, address and kind of the latest failed walk (11 R372)
  lifeCe : Table Nat  -- lifetime corrected codewords of each die (15 Table 15.8)
  lifeUe : Table Nat  -- lifetime uncorrectable granules of each die (15 Table 15.8)
  lifePasses : Table Nat  -- lifetime patrol passes of each die (15 Table 15.8)
  hotSeconds : Table Nat  -- seconds above 85 degC of each die (15 Table 15.8)
  deriving DecidableEq, Repr

/-- Mmu at reset. -/
def Mmu.init : Mmu :=
  { badResume := false,
    aperMiss := false,
    root := 0,
    invalVa := 0,
    invalPages := 0,
    invalGo := false,
    aperBase := 0,
    ce := 0,
    ue := 0,
    poisonCount := 0,
    scrubEn := true,
    passes := 0,
    lastUe := 0,
    patrol := [],
    faults := [],
    tlb := [],
    walkFault := none,
    lifeCe := [],
    lifeUe := [],
    lifePasses := [],
    hotSeconds := [] }

/-- The Quanak link of a port (R421-R423). -/
structure Link where
  credits : Vector Nat 4  -- credits held, per virtual channel (13 R422)
  txSeq : BitVec 12  -- SEQ of the next data flit sent (13 R421)
  rxSeq : BitVec 12  -- SEQ expected next (13 R423)
  acked : BitVec 12  -- last ACK received (13 R423)
  replay : List (List Byte)  -- unacknowledged data flits, oldest first (13 R423)
  outbox : List (List Byte)  -- flits to send, oldest first (13 R422)
  rxBuf : Vector Nat 4  -- flits of receive buffer freed whose credits are still to be returned (13 R422)
  discarding : Bool  -- discarding until the flit expected next arrives (13 R423)
  retries : Nat  -- retry requests for the SEQ now requested (13 R423)
  retraining : Option DWord  -- time since which the link is down (13 R423, R429)
  lost : Bool  -- the link is lost (13 R429)
  deriving DecidableEq, Repr

/-- Link at reset. -/
def Link.init : Link :=
  { credits := Vector.replicate 4 256,
    txSeq := 0,
    rxSeq := 0,
    acked := 0xFFF,
    replay := [],
    outbox := [],
    rxBuf := Vector.replicate 4 0,
    discarding := false,
    retries := 0,
    retraining := none,
    lost := false }

/-- PORT_ registers of one port and its link (R407, Table 13.1). -/
structure Port where
  mode : BitVec 2  -- PORT_CTRL.MODE (13 R407)
  active : BitVec 2  -- PORT_STATUS.ACTIVE (13 R407)
  linkUp : Bool  -- PORT_STATUS.LINK_UP (13 R407)
  lanes : BitVec 4  -- PORT_STATUS.LANES (13 R407)
  laserOff : Bool  -- PORT_STATUS.LASER_OFF (13 R407)
  badWrite : Bool  -- PORT_STATUS.BAD_WRITE (13 R407)
  mac : BitVec 48  -- PORT_MAC (13 R407)
  vlan : Half  -- PORT_VLAN: VID, PCP, EN (13 R407)
  ipv4 : Word  -- PORT_IPV4 (13 R407)
  udpDst : Half  -- PORT_UDP.DST (13 R407)
  ipv6 : BitVec 128  -- PORT_IPV6 (13 R407)
  flowBase : BitVec 48  -- PORT_FLOW_BASE (13 R407)
  flowCount : BitVec 13  -- PORT_FLOW_COUNT (13 R407)
  egrEn : Bool  -- PORT_EGR_CTRL.EN (13 R407)
  egrV6 : Bool  -- PORT_EGR_CTRL.V6 (13 R407)
  egrMac : BitVec 48  -- PORT_EGR_MAC (13 R407)
  egrIpv4 : Word  -- PORT_EGR_IPV4 (13 R407)
  egrDst : Half  -- PORT_EGR_UDP.DST (13 R407)
  egrSrc : Half  -- PORT_EGR_UDP.SRC (13 R407)
  egrIpv6 : BitVec 128  -- PORT_EGR_IPV6 (13 R407)
  long : Vector DWord 4  -- PORT_RX_FRAMES, PORT_RX_BYTES, PORT_TX_FRAMES, PORT_TX_BYTES (13 R407)
  ctr : Vector Word 20  -- PORT_FCS_ERR to PORT_FRAG_DROP, offsets 0xA0 to 0xEC (13 R407)
  quiescedMode : Option (BitVec 2)  -- mode that stood at the quiesce (13 R409, 14 R440)
  excluded : Bool  -- the optical die is excluded or skipped (16 R469)
  tx : List (List Byte)  -- frames handed to the transmitter, oldest first (13 R413, R420)
  link : Link  -- Quanak link (13 R421)
  deriving DecidableEq, Repr

/-- Port at reset. -/
def Port.init : Port :=
  { mode := 0,
    active := 0,
    linkUp := false,
    lanes := 0,
    laserOff := true,
    badWrite := false,
    mac := 0,
    vlan := 0,
    ipv4 := 0,
    udpDst := 0,
    ipv6 := 0,
    flowBase := 0,
    flowCount := 0,
    egrEn := false,
    egrV6 := false,
    egrMac := 0,
    egrIpv4 := 0,
    egrDst := 0,
    egrSrc := 0,
    egrIpv6 := 0,
    long := Vector.replicate 4 0,
    ctr := Vector.replicate 20 0,
    quiescedMode := none,
    excluded := false,
    tx := [],
    link := Link.init }

/-- CAS_ block and the cascade (R425-R430). -/
structure Cas where
  topo : BitVec 2  -- CAS_CTRL.TOPO (13 R425)
  size : BitVec 4  -- CAS_CTRL.SIZE (13 R425)
  localOn : Bool  -- CAS_CTRL.LOCAL (13 R425)
  state : BitVec 3  -- CAS_STATUS.STATE (13 R425)
  cause : BitVec 4  -- CAS_STATUS.CAUSE (13 R425)
  master : BitVec 4  -- CAS_STATUS.MASTER (13 R425)
  badWrite : Bool  -- CAS_STATUS.BAD_WRITE (13 R425)
  members : Half  -- CAS_STATUS.MEMBERS (13 R425)
  timeOffset : Word  -- CAS_TIME_OFFSET (13 R425)
  xrBase : BitVec 48  -- CAS_XROUTE_BASE (13 R425)
  xrCount : BitVec 12  -- CAS_XROUTE_COUNT (13 R425)
  xrBaseNext : BitVec 48  -- CAS_XROUTE_BASE as written, in effect at the next full load (10 R340)
  xrCountNext : BitVec 12  -- CAS_XROUTE_COUNT as written, in effect at the next full load (10 R340)
  remote : Word  -- CAS_REMOTE (13 R425)
  remoteData : Word  -- CAS_REMOTE_DATA (13 R425)
  remoteErr : Bool  -- CAS_REMOTE_ERR (13 R425)
  hbMiss : Word  -- CAS_HEARTBEAT_MISS (13 R425)
  peers : Vector (BitVec 6) 16  -- CAS_PEERp: ID, VALID, MSTR (13 R425)
  idents : List (BitVec 4 × Bool × BitVec 2 × BitVec 4)  -- identities received: CASC_ID, CASC_MSTR, TOPO, SIZE (13 R426)
  formSince : DWord  -- time TOPO was written or the last link trained (13 R426)
  lastBeat : DWord  -- time of the last heartbeat (13 R427, R429)
  oldMembers : Half  -- members before the master was lost (13 R430)
  xrCredits : Table Nat  -- credits held by each cross-route entry and core that differ from its CREDITS, by 65,536 x entry + core (13 R428)
  owed : List (BitVec 4 × Nat × Nat)  -- credits of cross routes to be sent back: package, entry, core (13 R428)
  assembly : Table (List Byte)  -- payload bytes of a message whose last flit has not arrived, by 4 x source package + virtual channel (13 R421)
  tokensDue : List (Nat × DWord)  -- released chunks whose tokens are still to be sent to the other packages: stream, chunk (13 R428)
  deriving DecidableEq, Repr

/-- Cas at reset. -/
def Cas.init : Cas :=
  { topo := 0,
    size := 0,
    localOn := false,
    state := 0,
    cause := 0,
    master := 0,
    badWrite := false,
    members := 0,
    timeOffset := 0,
    xrBase := 0,
    xrCount := 0,
    xrBaseNext := 0,
    xrCountNext := 0,
    remote := 0,
    remoteData := 0,
    remoteErr := false,
    hbMiss := 0,
    peers := Vector.replicate 16 0,
    idents := [],
    formSince := 0,
    lastBeat := 0,
    oldMembers := 0,
    xrCredits := [],
    owed := [],
    assembly := [],
    tokensDue := [] }

/-- LAS_ registers of one module and what the device keeps of it (R441, Table 14.5). -/
structure Laser where
  present : Bool  -- LASn_STATUS.PRESENT (14 R441)
  auth : Bool  -- LASn_STATUS.AUTH (14 R441)
  override : Bool  -- LASn_STATUS.OVERRIDE (14 R441)
  en : Bool  -- LASn_STATUS.EN and pin LMn_EN (14 R441, R431)
  quiesced : Bool  -- LASn_STATUS.QUIESCED (14 R441)
  fault : Bool  -- LASn_STATUS.FAULT (14 R441)
  eolWarn : Bool  -- LASn_STATUS.EOL_WARN (14 R441)
  eol : Bool  -- LASn_STATUS.EOL (14 R441)
  faultCause : BitVec 4  -- LASn_STATUS.FAULT_CAUSE (14 R441)
  authCause : BitVec 4  -- LASn_STATUS.AUTH_CAUSE (14 R441)
  serial : DWord  -- LASn_SERIAL (14 R441)
  ratedH : Word  -- LASn_RATED_H (14 R441)
  wearS : DWord  -- LASn_WEAR_S (14 R441)
  wearPart : Nat  -- twentieths of an equivalent second not yet in LASn_WEAR_S (14 R436)
  caseT : Half  -- LASn_CASE_T (14 R441)
  biasRatio : Half  -- LASn_BIAS_RATIO (14 R441)
  accel : Half  -- LASn_ACCEL (14 R441)
  accelPart : Nat  -- factor last measured, in twentieths (14 R439)
  insertions : Word  -- LASn_INSERTIONS (14 R441)
  initialBias : List Half  -- initial bias currents (14 R432)
  overBias : Nat  -- consecutive windows with r above 1.30 (14 R438)
  enabledS : Nat  -- seconds of enabled time since the last wear record (14 R437)
  moduleRecord : Table DWord  -- wear record last written in the module of each serial (14 R432, R437)
  busDead : Bool  -- the module does not answer (14 R439)
  challengeAt : Option DWord  -- time of a challenge that the module has not answered (14 R433)
  certificate : List Byte  -- module certificate when authenticated (16 Table 16.11)
  trains : List Bool  -- which of its ports' links can train (13 R408)
  deriving DecidableEq, Repr

/-- Laser at reset. -/
def Laser.init : Laser :=
  { present := false,
    auth := false,
    override := false,
    en := false,
    quiesced := false,
    fault := false,
    eolWarn := false,
    eol := false,
    faultCause := 0,
    authCause := 0,
    serial := 0,
    ratedH := 0,
    wearS := 0,
    wearPart := 0,
    caseT := 0,
    biasRatio := 0,
    accel := 0,
    accelPart := 0,
    insertions := 0,
    initialBias := [],
    overBias := 0,
    enabledS := 0,
    moduleRecord := [],
    busDead := false,
    challengeAt := none,
    certificate := [],
    trains := [] }

/-- An owner key slot (R474). -/
structure OwnerSlot where
  key : List Byte  -- public key (16 R474)
  programmed : Bool  -- PROGRAMMED (16 R474)
  revoked : Bool  -- REVOKED (16 R474)
  deriving DecidableEq, Repr

/-- OwnerSlot at reset. -/
def OwnerSlot.init : OwnerSlot :=
  { key := [],
    programmed := false,
    revoked := false }

/-- SEC_ registers, owner slots, counters and debug (R474-R484). -/
structure Sec where
  slots : Vector OwnerSlot 4  -- OWNER_SLOT0-3, SEC_STATUS.ENROLLED and REVOKED (16 R474, R484)
  fwFloor : Nat  -- set bits of FW_FLOOR (16 R474)
  imgFloor : Nat  -- set bits of IMG_FLOOR (16 R474)
  fwCopy : Bool  -- SEC_STATUS.FW_COPY (16 R484)
  scope : BitVec 4  -- SEC_STATUS.SCOPE (16 R484)
  challengeOut : Bool  -- SEC_STATUS.CHALLENGE (16 R484)
  fwVersion : Half  -- SEC_FW_VERSION (16 R484)
  fwCounter : Word  -- SEC_FW_COUNTER (16 R484)
  imgCounter : Word  -- journal value of the IMAGE counter (16 R477)
  ovrSeq : DWord  -- SEC_OVR_SEQ (16 R484)
  dbgScope : BitVec 4  -- SEC_DEBUG_CTRL.SCOPE (16 R484)
  challenge : List Byte  -- SEC_DEBUG_CHALLENGE (16 R484)
  challengeAt : DWord  -- time of the outstanding challenge (16 R482)
  unlockRecord : List Byte  -- the accepted DEBUG_UNLOCK record (16 Table 16.11)
  overrides : List (DWord × List Byte)  -- overrides in force: serial and record, in SEQ order (16 R478, 14 R435)
  deriving DecidableEq, Repr

/-- Sec at reset. -/
def Sec.init : Sec :=
  { slots := Vector.replicate 4 OwnerSlot.init,
    fwFloor := 0,
    imgFloor := 0,
    fwCopy := false,
    scope := 0,
    challengeOut := false,
    fwVersion := 0,
    fwCounter := 0,
    imgCounter := 0,
    ovrSeq := 0,
    dbgScope := 0,
    challenge := List.replicate 48 0,
    challengeAt := 0,
    unlockRecord := [],
    overrides := [] }

/-- A step entry of the start log (Table 16.5). -/
structure StepLog where
  outcome : BitVec 3  -- OUTCOME (16 R472)
  level : BitVec 2  -- LEVEL (16 R472)
  attempts : BitVec 4  -- ATTEMPTS (16 R472)
  reason : BitVec 4  -- REASON (16 R472)
  unitFail : Half  -- UNIT_FAIL (16 R472)
  unitLevel : Word  -- UNIT_LEVEL (16 R472)
  deriving DecidableEq, Repr

/-- StepLog at reset. -/
def StepLog.init : StepLog :=
  { outcome := 0,
    level := 0,
    attempts := 0,
    reason := 0,
    unitFail := 0,
    unitLevel := 0 }

/-- The START_LOG payload (Tables 16.4 and 16.5). -/
structure StartLog where
  start : Word  -- START (16 R472)
  cause : BitVec 4  -- CAUSE (16 R472)
  cleared : Bool  -- CLEARED (16 R472)
  degraded : Bool  -- DEGRADED (16 R472)
  durationMs : Word  -- DURATION_MS (16 R472)
  fwVersion : Half  -- FW_VERSION (16 R472)
  fwCopy : Bool  -- FW_COPY (16 R472)
  steps : Vector StepLog 14  -- steps 1 to 14 (16 R472)
  deriving DecidableEq, Repr

/-- StartLog at reset. -/
def StartLog.init : StartLog :=
  { start := 0,
    cause := 0,
    cleared := false,
    degraded := false,
    durationMs := 0,
    fwVersion := 0,
    fwCopy := false,
    steps := Vector.replicate 14 StepLog.init }

/-- BOOT_ registers and the start (R467-R473, R484). -/
structure Boot where
  step : BitVec 4  -- BOOT_STATUS.STEP (16 R484)
  level : BitVec 2  -- BOOT_STATUS.LEVEL (16 R484)
  attempts : BitVec 4  -- BOOT_STATUS.ATTEMPTS (16 R484)
  haltedInStart : Bool  -- BOOT_STATUS.HALTED_IN_START (16 R484)
  startCount : Word  -- BOOT_START_COUNT (16 R484)
  restarts : BitVec 4  -- BOOT_RESTARTS (16 R484)
  clearLevels : Bool  -- BOOT_CTRL.CLEAR_LEVELS (16 R484)
  log : StartLog  -- BOOT_LOG (16 R484)
  failedAt : Option DWord  -- a step failed and an automatic restart follows (16 R468)
  relaxed : BitVec 12  -- dies on relaxed DRAM timing (16 Table 16.3)
  columnsOff : Vector Byte 12  -- columns disabled beyond the spares (16 Table 16.2)
  opticsSkipped : Bool  -- optics skipped (16 R470)
  noImage : Bool  -- no image was applied at step 13 (16 R470)
  slowLink : Bool  -- PCIe below x4 16 GT/s (16 R470)
  deriving DecidableEq, Repr

/-- Boot at reset. -/
def Boot.init : Boot :=
  { step := 0,
    level := 0,
    attempts := 0,
    haltedInStart := false,
    startCount := 0,
    restarts := 0,
    clearLevels := false,
    log := StartLog.init,
    failedAt := none,
    relaxed := 0,
    columnsOff := Vector.replicate 12 0,
    opticsSkipped := false,
    noImage := true,
    slowLink := false }

/-- The test port (R483). -/
structure Tap where
  ir : BitVec 2  -- instruction in effect: 0 BYPASS, 1 IDCODE, 2 SAMPLE/PRELOAD, 3 EXTEST (16 R483)
  bypass : Bool  -- bypass register (16 R483)
  tdo : DWord  -- data last shifted out (16 R483)
  boundary : DWord  -- boundary register as preloaded (16 R483)
  pinsTaken : Bool  -- EXTEST holds the pins (16 R483)
  deriving DecidableEq, Repr

/-- Tap at reset. -/
def Tap.init : Tap :=
  { ir := 1,
    bypass := false,
    tdo := 0,
    boundary := 0,
    pinsTaken := false }

/-- Why the machine stops. No rule of the spec gives the block a stop of its own kind: safe halt is a state. -/
inductive Fault where
  /-- A command names a core at or above HUB_CORE_COUNT: the spec numbers no such core (R16). Raised by the
  control-core and engine commands; safe, since the model stops where the hardware has nothing to act. -/
  | noSuchCore
  deriving DecidableEq, Repr

/-- Why a command has no meaning. -/
inductive Refusal where
  /-- An arm without a meaning yet. Raised by exec's refused arms only; safe. -/
  | notModelled (mnemonic : String)
  deriving DecidableEq, Repr

/-- The whole machine. -/
structure State where
  pending : List Instr  -- commands waiting, first in first out (the model's own)
  fresh : Nat  -- free values drawn so far (log entry 7) (the model's own)
  fixed : Fixed  -- identity and variant (12 R381, R386)
  hub : Hub  -- HUB_ block (12 R386)
  clk : Clock  -- device time (17 R501)
  pwr : Pwr  -- PWR_ block (17 R511)
  que : Que  -- QUE_ block (12 R387)
  prg : Vector Prg 16  -- PRG_ block (12 R406)
  long : List LongCmd  -- long commands in progress (12 R406)
  waitCmds : List HostCmd  -- long commands that found no PRG_ entry (12 R406)
  waitState : List (BitVec 12 × Word)  -- STE_CTRL writes that wait for a command on the same stream (12 R390)
  evt : Evt  -- EVT_ block and error queue (12 R405)
  bay : Bay  -- BBX_ block and Bay record (15 R466)
  jnl : Jnl  -- JNL_ block and journal (15 R466)
  cfg : Cfg  -- CFG_ block and images (10 R356)
  thm : Thm  -- THM_ block and Thyme (09 R319)
  mmu : Mmu  -- MMU_ block (11 R379)
  dram : Memory  -- DRAM, physical byte addresses (11 R357)
  poison : List Nat  -- poisoned 64 B granules, by granule number, ascending (11 R364)
  hostMem : Memory  -- host memory, bus addresses (11 R371)
  streams : Table Stream  -- stream-table entries that differ from their reset value (09 R281)
  cores : Table Core  -- cores that differ from their reset value (07 R236)
  mesh : List Msg  -- messages between cores in flight, oldest first (07 R213-R217)
  passed : List (Nat × Nat × Nat)  -- grants that passed over the oldest message of a source: core reached, source, number (08 R270)
  starvedArb : List (Nat × Nat)  -- starved candidates, oldest first: core reached, source (08 R270)
  ports : Vector Port 16  -- PORT_ block (13 R407)
  cas : Cas  -- CAS_ block (13 R425)
  las : Vector Laser 4  -- LAS_ block (14 R441)
  sec : Sec  -- SEC_ block (16 R484)
  boot : Boot  -- BOOT_ block (16 R484)
  tap : Tap  -- test port (16 R483)
  deriving DecidableEq, Repr

/-- The machine right after reset (R281, R407 and the Reset columns of the register tables). -/
def State.reset : State :=
  { pending := [],
    fresh := 0,
    fixed := Fixed.init,
    hub := Hub.init,
    clk := Clock.init,
    pwr := Pwr.init,
    que := Que.init,
    prg := Vector.replicate 16 Prg.init,
    long := [],
    waitCmds := [],
    waitState := [],
    evt := Evt.init,
    bay := Bay.init,
    jnl := Jnl.init,
    cfg := Cfg.init,
    thm := Thm.init,
    mmu := Mmu.init,
    dram := [],
    poison := [],
    hostMem := [],
    streams := [],
    cores := [],
    mesh := [],
    passed := [],
    starvedArb := [],
    ports := Vector.replicate 16 Port.init,
    cas := Cas.init,
    las := Vector.replicate 4 Laser.init,
    sec := Sec.init,
    boot := Boot.init,
    tap := Tap.init }

end Sys2Proof.Machine
end

