-- ==== Sys2Proof/Machine/Ops.lean ====
section
/-! DEFINITION. Operations that every family of commands shares: bit fields and byte order (R6, R7), byte memory and
sparse tables in canonical form, cores and streams by number, free values, and translated memory accesses (R357-R374). -/

namespace Sys2Proof.Machine

abbrev Out := Host.Outcome State Fault Refusal

/-! Numbers and bit fields. -/

/-- Bits lo to lo + n - 1 of a word, as a number (R6). -/
def fld (w : Word) (lo n : Nat) : Nat := (w.toNat >>> lo) % 2 ^ n

/-- One bit of a word. -/
def bit (w : Word) (i : Nat) : Bool := w.getLsbD i

def b2n (b : Bool) : Nat := if b then 1 else 0

/-- A counter of 32 bits that saturates (R66). -/
def satAdd (w : Word) (n : Nat) : Word := BitVec.ofNat 32 (min (w.toNat + n) 0xFFFFFFFF)

def ceilDiv (a b : Nat) : Nat := (a + b - 1) / b

def alignUp (a b : Nat) : Nat := ceilDiv a b * b

/-- A signed immediate as an integer. -/
def sext (h : Half) : Int := h.toInt

/-- floor of an integer quotient by a positive number. -/
def floorDiv (a : Int) (b : Nat) : Int := Int.ediv a (b : Int)

/-! Bytes and words, little-endian (R7). -/

def leNat : List Byte → Nat
  | [] => 0
  | b :: r => b.toNat + 256 * leNat r

def leBytes : Nat → Nat → List Byte
  | 0, _ => []
  | n + 1, v => BitVec.ofNat 8 v :: leBytes n (v / 256)

def bytesOfWords : List Word → List Byte
  | [] => []
  | w :: r => leBytes 4 w.toNat ++ bytesOfWords r

/-- The word at word index i of a byte string; bytes beyond its end count as 0. -/
def wordAt (bs : List Byte) (i : Nat) : Word := BitVec.ofNat 32 (leNat ((bs.drop (4 * i)).take 4))

def dwordAt (bs : List Byte) (i : Nat) : DWord := BitVec.ofNat 64 (leNat ((bs.drop (4 * i)).take 8))

def wordsOf (n : Nat) (bs : List Byte) : List Word := (List.range n).map (wordAt bs)

/-- A number of n bytes at a byte offset. -/
def natAt (bs : List Byte) (off n : Nat) : Nat := leNat ((bs.drop off).take n)

/-- Word i of a list of words, 0 beyond its end. -/
def nth (ws : List Word) (i : Nat) : Word := ws.getD i 0

/-- The 64-bit number in words i and i + 1. -/
def nth64 (ws : List Word) (i : Nat) : Nat := (nth ws i).toNat + 2 ^ 32 * (nth ws (i + 1)).toNat

/-- A byte string cut or padded with zeros to n bytes. -/
def padTo (n : Nat) (bs : List Byte) : List Byte := bs.take n ++ List.replicate (n - bs.length) 0

/-! Byte memory in canonical form: addresses strictly rise and no byte listed is 0 (log entry 4). -/

def memGet : Memory → Nat → Byte
  | [], _ => 0
  | (k, b) :: r, a => if k = a then b else if a < k then 0 else memGet r a

def memSet : Memory → Nat → Byte → Memory
  | [], a, v => if v = 0 then [] else [(a, v)]
  | (k, b) :: r, a, v =>
    if a < k then (if v = 0 then (k, b) :: r else (a, v) :: (k, b) :: r)
    else if a = k then (if v = 0 then r else (a, v) :: r)
    else (k, b) :: memSet r a v

def memRead (m : Memory) (a n : Nat) : List Byte := (List.range n).map fun i => memGet m (a + i)

def memWrite (m : Memory) (a : Nat) : List Byte → Memory
  | [] => m
  | b :: r => memWrite (memSet m a b) (a + 1) r

/-- Zeros written to n bytes from a. -/
def memClear (m : Memory) (a n : Nat) : Memory := m.filter fun c => decide (c.1 < a) || decide (a + n ≤ c.1)

def memWord (m : Memory) (a : Nat) : Word := BitVec.ofNat 32 (leNat (memRead m a 4))

/-- The canonical form of a memory. -/
abbrev Memory.wf (m : Memory) : Prop := m.Pairwise (fun x y => x.1 < y.1) ∧ ∀ c ∈ m, c.2 ≠ 0

/-! Sparse tables. -/

def tabGet {α : Type} : Table α → Nat → Option α
  | [], _ => none
  | (k, v) :: r, i => if k = i then some v else tabGet r i

def tabPut {α : Type} : Table α → Nat → α → Table α
  | [], i, x => [(i, x)]
  | (k, v) :: r, i, x => if i < k then (i, x) :: (k, v) :: r else if i = k then (i, x) :: r else (k, v) :: tabPut r i x

def tabDel {α : Type} (t : Table α) (i : Nat) : Table α := t.filter fun e => decide (e.1 ≠ i)

/-- An entry of a table in which an unlisted index has the value d. -/
def tabGetD {α : Type} (d : α) (t : Table α) (i : Nat) : α := (tabGet t i).getD d

/-- Sets an entry and keeps the table without entries equal to d. -/
def tabSetD {α : Type} [DecidableEq α] (d : α) (t : Table α) (i : Nat) (x : α) : Table α :=
  if x = d then tabDel t i else tabPut t i x

/-- Every entry of a table changed by f, kept without entries equal to d. -/
def tabMapD {α : Type} [DecidableEq α] (d : α) (f : Nat → α → α) (t : Table α) : Table α :=
  (t.map fun e => (e.1, f e.1 e.2)).filter fun e => decide (e.2 ≠ d)

/-- Insertion into an ascending list without repeats, and removal. -/
def ins : Nat → List Nat → List Nat
  | i, [] => [i]
  | i, k :: r => if i < k then i :: k :: r else if i = k then k :: r else k :: ins i r

def del (i : Nat) (l : List Nat) : List Nat := l.filter (· ≠ i)

/-- A list with element i replaced. -/
def upd {α : Type} (l : List α) (i : Nat) (f : α → α) : List α := l.mapIdx fun j x => if j = i then f x else x

/-- Words with word i set; the list is padded with zeros when it is short. -/
def setWord (ws : List Word) (i : Nat) (w : Word) : List Word :=
  (ws ++ List.replicate (i + 1 - ws.length) 0).set i w

/-- Vector access by a number, and update. -/
def vget {α : Type} {n : Nat} (d : α) (v : Vector α n) (i : Nat) : α := v.toList.getD i d

def vset {α : Type} {n : Nat} (v : Vector α n) (i : Nat) (x : α) : Vector α n :=
  if h : i < n then v.set i x h else v

def vmod {α : Type} {n : Nat} (d : α) (v : Vector α n) (i : Nat) (f : α → α) : Vector α n := vset v i (f (vget d v i))

/-! Free values (log entry 7). -/

def draw (s : State) : Nat × State := (Config.freeBits s.fresh, { s with fresh := s.fresh + 1 })

/-- n bytes of unstated value. -/
def drawBytes (s : State) (n : Nat) : List Byte × State := (leBytes n (draw s).1, (draw s).2)

/-! Cores and streams. -/

/-- R1, R2: the most cores that the variant can have: 94 or 70 columns of 72 rows on 12 dies. -/
def fullCores (s : State) : Nat := if s.fixed.variant = 1 then 60480 else 81216

/-- R2, R16: logical core numbers run from 0 to HUB_CORE_COUNT - 1; before the dies are enumerated, the variant's
full number. -/
def coreExists (s : State) (c : CoreId) : Bool :=
  decide (c.toNat < if s.hub.enumerated then s.hub.coreCount.toNat else fullCores s)

def getCore (s : State) (c : Nat) : Core := tabGetD Core.init s.cores c

def setCore (s : State) (c : Nat) (k : Core) : State := { s with cores := tabSetD Core.init s.cores c k }

def modCore (s : State) (c : Nat) (f : Core → Core) : State := setCore s c (f (getCore s c))

def getStream (s : State) (n : Nat) : Stream := tabGetD Stream.init s.streams n

def setStream (s : State) (n : Nat) (x : Stream) : State := { s with streams := tabSetD Stream.init s.streams n x }

def modStream (s : State) (n : Nat) (f : Stream → Stream) : State := setStream s n (f (getStream s n))

/-- R451, R494, R464: islands run: no safe halt, no D3hot, no reset held, no hold-up. -/
def islandsOn (s : State) : Bool := !(s.hub.halted || s.pwr.hot || s.hub.resetLow || s.hub.holdUp)

/-- R451: in safe halt, and while a reset is held, the hub's own agents (Thyme, the queues, the ports) do nothing. -/
def agentsOn (s : State) : Bool := !(s.hub.halted || s.hub.resetLow || s.hub.holdUp)

/-- A command on one core: the core must exist (Fault.noSuchCore), and its island must run. -/
def withCore (core : CoreId) (f : Core → State → State) (s : State) : Out :=
  if coreExists s core then
    if islandsOn s then .next (f (getCore s core.toNat) s) else .next s
  else .fault .noSuchCore

/-- R237: the core's group, and its position in it, under the image of a program bank. -/
def groupOf (k : Core) (b : BitVec 1) : Option Half := if b = 0 then k.group0 else k.group1
def groupPosOf (k : Core) (b : BitVec 1) : Nat := (if b = 0 then k.groupPos0 else k.groupPos1).toNat

def getPort (s : State) (p : Nat) : Port := vget Port.init s.ports p
def modPort (s : State) (p : Nat) (f : Port → Port) : State := { s with ports := vmod Port.init s.ports p f }
def getLaser (s : State) (m : Nat) : Laser := vget Laser.init s.las m
def modLaser (s : State) (m : Nat) (f : Laser → Laser) : State := { s with las := vmod Laser.init s.las m f }

/-- Every listed core, or stream, changed by f. -/
def mapCores (f : Nat → Core → Core) (s : State) : State := { s with cores := tabMapD Core.init f s.cores }
def mapStreams (f : Nat → Stream → Stream) (s : State) : State := { s with streams := tabMapD Stream.init f s.streams }

/-! Device time (R501). -/

def now (s : State) : Nat := s.clk.time.toNat

/-- R427, R501: in a formed cascade a member's device time follows the master's, and R502 does not apply. -/
def timeFollows (s : State) : Bool := decide (s.cas.state = 2) && decide (s.cas.master ≠ s.hub.cascId)

/-- R502: dt ns of device time use up 500 ppm of dt of the slew that is left. -/
def consumeSlew (dt : Nat) (c : Clock) : Clock :=
  let left := c.slewLeft.toInt
  let f := c.slewFrac + dt * 500000
  let n : Int := min (f / 10 ^ 9 : Nat) left.natAbs
  let left' := if left < 0 then left + n else left - n
  { c with slewLeft := BitVec.ofInt 32 left', slewFrac := if left' = 0 then 0 else f % 10 ^ 9 }

/-- R501, R502: device time after dt ns of its own clock. -/
def runClock (follows : Bool) (dt : Nat) (c : Clock) : Clock :=
  if follows then { c with time := c.time + BitVec.ofNat 64 dt }
  else
    let sgn : Int := if c.slewLeft = 0 then 0 else if c.slewLeft.msb then -500000 else 500000
    let v := (dt * 10 ^ 9 + c.frac : Nat) + (dt : Int) * (c.rate.toInt + sgn)
    consumeSlew dt { c with time := c.time + BitVec.ofNat 64 (v.toNat / 10 ^ 9), frac := v.toNat % 10 ^ 9 }

/-! The clocks of the compute dies (R16, R489, R497, R504). -/

/-- A compute die is in use. -/
def dieInUse (s : State) (n : Nat) : Bool := s.hub.cd.getLsbD n

/-- R489, R497, R504: the clock setting of CDn in MHz, 0 when it is excluded. -/
def dieMhz (s : State) (n : Nat) : Nat :=
  if !dieInUse s n then 0
  else if s.pwr.clamped.getLsbD n || s.pwr.avsFail.getLsbD n then 160
  else min (vget 320 s.pwr.thermalMhz n).toNat s.pwr.powerMhz.toNat

/-- R16: the die of a logical core: cores are numbered die by die. -/
def dieFrom (c : Nat) : List (BitVec 13) → Nat → Nat
  | [], n => n
  | k :: r, n => if c < k.toNat then n else dieFrom (c - k.toNat) r (n + 1)

def coreDie (s : State) (c : Nat) : Nat := min 11 (dieFrom c s.hub.dieCores.toList 0)

/-- The core is idle: it has nothing in flight and its control core waits (log entry 13). -/
def coreIdle (k : Core) : Bool := k.ops.isEmpty && (k.waiting.isSome || k.waitingFree)

/-- R313: dt ns in which a core is not idle are shared among the tokens that it holds taken, at the nominal 320 MHz. -/
def shareTime (s : State) (dt : Nat) (c : Nat) (k : Core) : Core :=
  if k.taken.isEmpty || coreIdle k then k
  else
    let d := dt * dieMhz s (coreDie s c) * 12 / k.taken.length
    { k with taken := k.taken.map fun t => { t with share := t.share + d } }

def shareTimes (s : State) (dt : Nat) : State := mapCores (shareTime s dt) s

/-- The step on an empty queue: 5 SYSREF cycles, or one REFCLK cycle without SYSREF, pass (log entry 3). Time stands
still before start step 1 and while a reset is held or after the hold-up. -/
def idle (s : State) : State :=
  if s.hub.resetLow || s.hub.holdUp || decide (s.boot.step = 0) then s
  else
    let dt := if s.clk.sysref then 32 else 10
    { shareTimes s dt with clk := runClock (timeFollows s) dt s.clk }

/-- Device time moved on to t, if it lies ahead (log entry 3). -/
def advanceTo (s : State) (t : Nat) : State :=
  if now s < t then
    let c := if timeFollows s then s.clk else consumeSlew (t - now s) s.clk
    { shareTimes s (t - now s) with clk := { c with time := BitVec.ofNat 64 t } }
  else s

/-- Device time moved on to the next whole multiple of step after last (R517), unless it has passed it already. -/
def advanceBeyond (s : State) (last step : Nat) : State := advanceTo s ((last / step + 1) * step)

/-! Interrupts (R404). -/

/-- A vector fires; a masked one sets its pending bit. -/
def fireVector (v : Nat) (s : State) : State :=
  let masked := (memGet s.que.msix (16 * v + 12)).getLsbD 0
  let q := if masked then { s.que with pba := s.que.pba ||| (1 <<< v) }
    else { s.que with fired := vmod 0 s.que.fired v (· + 1) }
  { s with que := q }

/-! Poison (R364-R366). -/

def granulesOf (a n : Nat) : List Nat := if n = 0 then [] else (List.range ((a + n - 1) / 64 - a / 64 + 1)).map (a / 64 + ·)

def dramPoisoned (s : State) (a n : Nat) : Bool := (granulesOf a n).any fun g => s.poison.contains g

/-- R364, R365, R367: a write to DRAM: poisoned data poisons its granules, clean data that covers one clears it. -/
def dramWrite (s : State) (a : Nat) (bs : List Byte) (poison : Bool) : State :=
  let gs := granulesOf a bs.length
  let p := if poison then gs.foldl (fun p g => ins g p) s.poison
    else (gs.filter fun g => decide (a ≤ 64 * g) && decide (64 * g + 64 ≤ a + bs.length)).foldl (fun p g => del g p) s.poison
  { s with dram := memWrite s.dram a bs, poison := p }

/-! Translation (R357-R374). -/

def dieBytes : Nat := 0x300000000

/-- The present dies, ascending (R360). -/
def presentDies (s : State) : List Nat := (List.range 12).filter fun i => s.hub.cd.getLsbD i

/-- A physical DRAM address in a present die (R358, R371). -/
def dramPresent (s : State) (a : Nat) : Bool := (presentDies s).contains (a / dieBytes)

/-- A page-table entry read from DRAM (R370): poison gives TABLE_POISON, an absent die BAD_ENTRY. -/
def readEntry (s : State) (a : Nat) : Except Nat DWord :=
  if !dramPresent s a then .error 2
  else if dramPoisoned s a 8 then .error 4
  else .ok (BitVec.ofNat 64 (leNat (memRead s.dram a 8)))

/-- An L1 or L2 entry names the next table (R371, Table 11.3). -/
def nextTable (e : DWord) : Except Nat Nat :=
  if !e.getLsbD 0 then .error 0
  else if (e.toNat >>> 1) % 2 ^ 13 ≠ 0 then .error 2
  else .ok (e.toNat / 2 ^ 14 * 2 ^ 14)

/-- An L3 entry checked (R371). -/
def checkL3 (s : State) (e : DWord) : Except Nat DWord :=
  if !e.getLsbD 0 then .error 0
  else if (e.toNat >>> 4) % 2 ^ 12 ≠ 0 then .error 2
  else if !e.getLsbD 2 && (e.getLsbD 3 || !dramPresent s (e.toNat / 2 ^ 16 * 2 ^ 16)) then .error 2
  else .ok e

/-- R370, R371: the walk of an address of the translated window. -/
def walk (s : State) (va : Nat) : Except Nat DWord := do
  let e1 ← readEntry s (s.mmu.root.toNat / 8192 * 8192 + 8 * (va >>> 38 % 1024))
  let t2 ← nextTable e1
  let e2 ← readEntry s (t2 + 8 * (va >>> 27 % 2048))
  let t3 ← nextTable e2
  let e3 ← readEntry s (t3 + 8 * (va >>> 16 % 2048))
  checkL3 s e3

/-- Where an access goes: host memory or DRAM, with the address there. -/
abbrev Place := Bool × Nat

/-- The place an L3 entry gives, or WRITE_PROTECT (R374). -/
def placeOf (e : DWord) (va : Nat) (write : Bool) : Except Nat Place :=
  if write && !e.getLsbD 1 then .error 1
  else .ok (e.getLsbD 2, e.toNat / 2 ^ 16 * 2 ^ 16 + va % 2 ^ 16)

/-- R357, R358, R360: the windows of Table 11.1. -/
def translate (s : State) (va : Nat) (write : Bool) : Except Nat Place :=
  let dies := presentDies s
  if va < 0x2400000000 then
    if dies.contains (va / dieBytes) then .ok (false, va) else .error 3
  else if 0x4000000000 ≤ va && va < 0x6400000000 then
    let x := va - 0x4000000000
    let g := x / 4096
    if x < dies.length * dieBytes then
      .ok (false, dies.getD (g % dies.length) 0 * dieBytes + g / dies.length * 4096 + x % 4096)
    else .error 3
  else if 0x400000000000 ≤ va && va < 2 ^ 48 then walk s va >>= fun e => placeOf e va write
  else .error 3

/-- The pieces of a range that lie in one 4 KiB granule each: address and length. -/
def pieces : Nat → Nat → Nat → List (Nat × Nat)
  | 0, _, _ => []
  | f + 1, a, n =>
    if n = 0 then [] else
      let k := min n (4096 - a % 4096)
      (a, k) :: pieces f (a + k) (n - k)

def piecesOf (a n : Nat) : List (Nat × Nat) := pieces (n / 4096 + 2) a n

/-- The bytes at a place, with their poison mark. -/
def readPlace (s : State) (p : Place) (n : Nat) : List Byte × Bool :=
  if p.1 then (memRead s.hostMem p.2 n, false) else (memRead s.dram p.2 n, dramPoisoned s p.2 n)

def writePlace (s : State) (p : Place) (bs : List Byte) (poison : Bool) : State :=
  if p.1 then { s with hostMem := memWrite s.hostMem p.2 bs } else dramWrite s p.2 bs poison

/-- A read of device-virtual memory: the bytes and whether any was poisoned, or the fault kind and address. -/
def vread (s : State) (va n : Nat) : Except (Nat × Nat) (List Byte × Bool) :=
  (piecesOf va n).foldlM (fun (acc : List Byte × Bool) (p : Nat × Nat) =>
    match translate s p.1 false with
    | .ok pl => let r := readPlace s pl p.2; .ok (acc.1 ++ r.1, acc.2 || r.2)
    | .error k => .error (k, p.1)) ([], false)

/-- A write of device-virtual memory, piece by piece up to the first that does not translate (R394). -/
def vwrite (s : State) (va : Nat) (bs : List Byte) (poison : Bool) : State × Option (Nat × Nat) :=
  (piecesOf va bs.length).foldl (fun (acc : State × Option (Nat × Nat)) (p : Nat × Nat) =>
    match acc.2 with
    | some _ => acc
    | none =>
      match translate acc.1 p.1 true with
      | .ok pl => (writePlace acc.1 pl ((bs.drop (p.1 - va)).take p.2) poison, none)
      | .error k => (acc.1, some (k, p.1))) (s, none)

/-- A write whose fault nobody reports: what does not translate is lost. -/
def vput (s : State) (va : Nat) (bs : List Byte) : State := (vwrite s va bs false).1

/-- The bytes read, or none at a fault or poison. -/
def vclean (s : State) (va n : Nat) : Option (List Byte) :=
  match vread s va n with
  | .ok (bs, false) => some bs
  | _ => none

end Sys2Proof.Machine
end

