-- ==== Sys2Proof/Machine/Flags.lean ====
section
/-! DEFINITION. Numeric conditions (R64-R66): how one piece of work gathers them, as a state threaded through its
arithmetic, and the numeric-flags byte of a chunk (Table 2.9). -/

namespace Sys2Proof.Machine

/-- Arithmetic that gathers the conditions it meets. -/
abbrev N := StateM Ev

def countSat (n : Nat) : N Unit := modify fun e => { e with sat := e.sat + n }
def countOvf : N Unit := modify fun e => { e with ovf := e.ovf + 1 }
def countNonfinite : N Unit := modify fun e => { e with nonfinite := e.nonfinite + 1, nan := true }
def markNan : N Unit := modify fun e => { e with nan := true }
def countEmpty : N Unit := modify fun e => { e with empty := e.empty + 1 }
def markGrowth : N Unit := modify fun e => { e with growth := true }

def evAdd (a b : Ev) : Ev :=
  { sat := a.sat + b.sat, ovf := a.ovf + b.ovf, nonfinite := a.nonfinite + b.nonfinite, nan := a.nan || b.nan,
    empty := a.empty + b.empty, growth := a.growth || b.growth }

/-- R65, Table 2.9: the bits of the numeric-flags byte that conditions of arithmetic set. -/
def flagsOf (e : Ev) : Byte :=
  BitVec.ofNat 8 (b2n (decide (0 < e.sat)) + 2 * b2n (decide (0 < e.ovf)) + 4 * b2n e.nan +
    8 * b2n (decide (0 < e.empty)) + 128 * b2n e.growth)

def flagRerun : Byte := 16
def flagWide : Byte := 32
def flagPoison : Byte := 64

end Sys2Proof.Machine
end

