-- ==== Sys2Proof/Machine/Numeric.lean ====
section
/-! DEFINITION. Number formats, rounding and the precision contract (chapter 02): exact values are rationals, every
rounding is to nearest with ties away from zero (R36), every result is finite (R42), a NaN is 0x7FC0_0000 (R43). -/

namespace Sys2Proof.Machine

/-- The quiet NaN that the device writes (R43). -/
def qnan : Word := 0x7FC00000
def f32max : Word := 0x7F7FFFFF
def negF32max : Word := 0xFF7FFFFF
def f32one : Word := 0x3F800000
def negZero : Word := 0x80000000

/-- R43: a non-finite operand has an exponent field of all ones. -/
def isNan (w : Word) : Bool := decide (fld w 23 8 = 255)

def isNeg (w : Word) : Bool := w.getLsbD 31

def isZero (w : Word) : Bool := decide (w.toNat % 2 ^ 31 = 0)

/-- 2 to an integer power, exactly. -/
def pow2 (e : Int) : Rat := if 0 ≤ e then (2 ^ e.toNat : Nat) else mkRat 1 (2 ^ (-e).toNat)

/-- Table 2.1: the value of a finite F32. -/
def f32val (w : Word) : Rat :=
  let e := fld w 23 8
  let f := fld w 0 23
  let m : Nat := if e = 0 then f else 2 ^ 23 + f
  let v := (m : Rat) * pow2 ((max e 1 : Nat) - (150 : Int))
  if isNeg w then -v else v

/-- Table 2.1: the value of a finite F16. -/
def f16val (h : Half) : Rat :=
  let e := (h.toNat >>> 10) % 32
  let f := h.toNat % 1024
  let m : Nat := if e = 0 then f else 1024 + f
  let v := (m : Rat) * pow2 ((max e 1 : Nat) - (25 : Int))
  if h.getLsbD 15 then -v else v

def f16nan (h : Half) : Bool := decide ((h.toNat >>> 10) % 32 = 31)

/-- floor(log2 r) of a positive rational. -/
def log2Floor (r : Rat) : Int :=
  let e : Int := (Nat.log2 r.num.natAbs : Int) - Nat.log2 r.den
  if pow2 e ≤ r then e else e - 1

def ratAbs (r : Rat) : Rat := if r < 0 then -r else r

/-- R36: the nearest integer, ties away from zero. -/
def rnaInt (r : Rat) : Int :=
  let m : Int := ((2 * r.num.natAbs + r.den) / (2 * r.den) : Nat)
  if r.num < 0 then -m else m

/-- R36, R42: the F32 nearest to an exact value, and whether it overflowed. Exact zero gives +0. -/
def rnaF32 (v : Rat) : Word × Bool :=
  if v = 0 then (0, false)
  else
    let a := ratAbs v
    let q : Int := max (log2Floor a) (-126) - 23
    let m := (rnaInt (a * pow2 (-q))).toNat
    let bits := if m = 0 then 0 else (q + 149).toNat * 2 ^ 23 + m
    let ovf := decide (0x7F800000 ≤ bits)
    let b := if ovf then 0x7F7FFFFF else bits
    (BitVec.ofNat 32 (if v < 0 then b + 2 ^ 31 else b), ovf)

/-- The same, counting an overflow. -/
def rnd (v : Rat) : N Word := do
  let r := rnaF32 v
  if r.2 then countOvf
  return r.1

/-- R38: a rounded value whose exact zero carries the given sign. -/
def rndS (zeroNeg : Bool) (v : Rat) : N Word :=
  if v = 0 then pure (if zeroNeg then negZero else 0) else rnd v

/-- R40: the F16 nearest to a value; a magnitude beyond 65,504 saturates and is counted. -/
def rnaF16 (neg : Bool) (v : Rat) : N Half := do
  let a := ratAbs v
  let q : Int := if v = 0 then -24 else max (log2Floor a) (-14) - 10
  let m := (rnaInt (a * pow2 (-q))).toNat
  let bits := if m = 0 then 0 else (q + 24).toNat * 1024 + m
  if 0x7C00 ≤ bits then countSat 1
  let b := if 0x7C00 ≤ bits then 0x7BFF else bits
  return BitVec.ofNat 16 (if v < 0 || (decide (v = 0) && neg) then b + 2 ^ 15 else b)

/-- R43: a conversion of an F32 to F16, NaN kept as F16's quiet NaN. -/
def cvtF16 (w : Word) : N Half :=
  if isNan w then do countNonfinite; return 0x7E00 else rnaF16 (isNeg w) (f32val w)

/-- R43: an operand as it enters an engine: an infinity or NaN becomes 0x7FC0_0000. -/
def enter (w : Word) : Word := if isNan w then qnan else w

/-- R43: an F16 operand as it enters an engine, as F32. -/
def f16to32 (h : Half) : Word :=
  if f16nan h then qnan
  else
    let v := f16val h
    if v = 0 then (if h.getLsbD 15 then negZero else 0) else (rnaF32 v).1

/-! F32 operations with one rounding (R37, R38, R43). -/

def fadd (a b : Word) : N Word :=
  if isNan a || isNan b then do countNonfinite; return qnan
  else rndS (isZero a && isNeg a && isZero b && isNeg b) (f32val a + f32val b)

def fneg (a : Word) : Word := if isNan a then qnan else a ^^^ negZero

def fabs (a : Word) : Word := if isNan a then qnan else a &&& 0x7FFFFFFF

def fsub (a b : Word) : N Word := fadd a (fneg b)

def fmul (a b : Word) : N Word :=
  if isNan a || isNan b then do countNonfinite; return qnan
  else rndS (xor (isNeg a) (isNeg b)) (f32val a * f32val b)

/-- R38: the product's sign is found first; a x b + c is -0 only when both terms are -0. -/
def fma (a b c : Word) : N Word :=
  if isNan a || isNan b || isNan c then do countNonfinite; return qnan
  else
    let p := f32val a * f32val b
    rndS (decide (p = 0) && xor (isNeg a) (isNeg b) && isZero c && isNeg c) (p + f32val c)

/-- R38: a quotient; a zero divisor is a pole, which gives F32max with the sign of the quotient (R46). -/
def fdiv (a b : Word) : N Word :=
  if isNan a || isNan b then do countNonfinite; return qnan
  else if isZero b then do countOvf; return (if xor (isNeg a) (isNeg b) then negF32max else f32max)
  else rndS (xor (isNeg a) (isNeg b)) (f32val a / f32val b)

/-- R44: the order of F32 values in which +0 is greater than -0. -/
def fkey (a : Word) : Int := if isNeg a then -((a.toNat % 2 ^ 31 : Nat) : Int) - 1 else (a.toNat : Int)

def flt (a b : Word) : Bool := decide (fkey a < fkey b)

def fmaxw (a b : Word) : Word := if isNan a || isNan b then qnan else if flt a b then b else a

def fminw (a b : Word) : Word := if isNan a || isNan b then qnan else if flt b a then b else a

/-- A comparison of values, in which the zeros are equal. -/
def fltv (a b : Word) : Bool := decide (f32val a < f32val b)

/-! Quantisation (R39, R41). -/

/-- R39: quantise, with the exact value of the scale. -/
def quantise (x : Word) (s : Rat) (q : Nat) : N Int :=
  if isNan x then do markNan; return 0
  else do
    let t := rnaInt (f32val x / s)
    if t > q then do countSat 1; return q
    else if t < -(q : Int) then do countSat 1; return -(q : Int)
    else return t

/-- R41: the E8 scale of a block from its largest magnitude: 127 + ceil(log2(amax / q)), in 1 to 254. -/
def deriveE8 (amax : Rat) (q : Nat) : Nat :=
  if amax = 0 then 0
  else
    let r := amax / q
    let f := log2Floor r
    let c := if r = pow2 f then f else f + 1
    (max 1 (min 254 (127 + c))).toNat

/-- The largest magnitude of a block's elements that are not NaN (R41). -/
def amaxOf (xs : List Word) : Rat := xs.foldl (fun m x => if isNan x then m else max m (ratAbs (f32val x))) 0

/-- R34: the value of an E8 scale; 0 is a zero block. -/
def e8val (e : Nat) : Rat := if e = 0 then 0 else pow2 (e - 127 : Int)

/-- A two's complement code of n bits. -/
def code (n v : Nat) : Int := if v % 2 ^ n < 2 ^ (n - 1) then (v % 2 ^ n : Nat) else (v % 2 ^ n : Nat) - (2 ^ n : Int)

/-- R33: element i of an I4 tensor. -/
def nibble (bs : List Byte) (i : Nat) : Nat := ((bs.getD (i / 2) 0).toNat >>> (4 * (i % 2))) % 16

/-- R33: codes packed as I8 bytes or as I4 nibbles, an odd tail with its upper nibble 0. -/
def packI4 : List Int → List Byte
  | [] => []
  | [a] => [BitVec.ofNat 8 (Int.emod a 16).toNat]
  | a :: b :: r => BitVec.ofNat 8 ((Int.emod a 16).toNat + 16 * (Int.emod b 16).toNat) :: packI4 r

def packI8 (l : List Int) : List Byte := l.map fun a => BitVec.ofInt 8 a

/-! The long accumulator (R47-R54): numbers in units of 2^-48. -/

def accMax : Int := 2 ^ 111 - 1
def accMin : Int := -(2 ^ 111)

/-- R52: the nearer end of the range, counted. -/
def accClamp (x : Int) : N Int :=
  if x > accMax then do countOvf; return accMax
  else if x < accMin then do countOvf; return accMin
  else return x

def accVal (x : Int) : Rat := (x : Rat) * pow2 (-48)

/-- R54, Table 2.14: EX16 and EX24 bytes of an exact partial. -/
def exBytes (n : Nat) (x : Int) : List Byte := leBytes n (Int.emod x (2 ^ (8 * n))).toNat

/-- The number that the low w bits of an exchanged partial hold. -/
def exVal (w : Nat) (bs : List Byte) : Int := code w (leNat bs)

/-- R53: read-out. -/
def readOut (x : Int) : N Word := rnd (accVal x)

/-- R56: a term on the accumulator's grid, clamped. -/
def redTerm (v : Rat) : N Int := accClamp (rnaInt (v * pow2 48))

/-! Canonical order (R57). -/

/-- One level of the canonical tree. -/
def treeLevel {α : Type} (f : α → α → N α) : List α → N (List α)
  | [] => pure []
  | [a] => pure [a]
  | a :: b :: r => do
    let c ← f a b
    let t ← treeLevel f r
    return c :: t

/-- R57: the canonical tree of n leaves; k bounds its height. -/
def treeN {α : Type} (f : α → α → N α) : Nat → List α → N (Option α)
  | 0, l => pure l.head?
  | k + 1, l =>
    match l with
    | [] => pure none
    | [a] => pure (some a)
    | l => do
      let m ← treeLevel f l
      treeN f k m

def canonicalTree {α : Type} (f : α → α → N α) (l : List α) : N (Option α) := treeN f l.length l

/-! Paired values (R35). -/

/-- An exact value as a renormalised pair: hi = RNA(v), lo = the rest, rounded; a value beyond the range gives
(F32max, +0) (R35, R148, R149 rna2). -/
def rna2 (zeroNeg : Bool) (v : Rat) : N (Word × Word) :=
  if v = 0 then pure (if zeroNeg then negZero else 0, 0)
  else do
    let r := rnaF32 v
    if r.2 then countOvf
    return (r.1, if r.2 then 0 else (rnaF32 (v - f32val r.1)).1)

/-- The exact value of a pair. -/
def pairVal (p : Word × Word) : Rat := f32val p.1 + f32val p.2

def pairNan (p : Word × Word) : Bool := isNan p.1 || isNan p.2

/-- R35: a pair renormalised on read. -/
def renorm (p : Word × Word) : N (Word × Word) :=
  if pairNan p then pure (qnan, qnan) else rna2 (isZero p.1 && isNeg p.1) (pairVal p)

end Sys2Proof.Machine
end

