-- ==== Sys2Proof/Machine/Events.lean ====
section
/-! DEFINITION. Raising events, the error queue, the Bay writer's buffer and safe halt (R442-R457): the shared
operations behind every command that raises an event. -/

namespace Sys2Proof.Machine

/-- R443, Table 15.2: the class of each event code. -/
def eventClass (code : Nat) : Nat :=
  if code ∈ [0x0101, 0x0104, 0x0105, 0x0106, 0x0301, 0x0302, 0x0303, 0x0402, 0x0403, 0x0404, 0x0405] then 3
  else if code ∈ [0x0102, 0x0304] then 1
  else if code ∈ [0x0202, 0x0203, 0x0603] then 4
  else if code ∈ [0x0902, 0x0903, 0x0A02] then 5
  else if code ∈ [0x0305, 0x0601, 0x0602, 0x0701, 0x0703, 0x0704, 0x0801, 0x0802, 0x0901, 0x0A01, 0x0A03] then 2
  else 0

/-- The common prefix of an event about a chunk (R443): UNIT, layer, low word of the chunk number. -/
def evPrefix (unit layer chunk : Nat) : List Word :=
  [BitVec.ofNat 32 (unit % 16 + 256 * (layer % 256)), BitVec.ofNat 32 chunk]

/-- A 64-bit number as two words. -/
def words64 (v : Nat) : List Word := [BitVec.ofNat 32 v, BitVec.ofNat 32 (v / 2 ^ 32)]

def noStream : Half := 0xFFFF
def noCore : CoreId := 0x1FFFF

/-! Safe halt (R451). -/

/-- R409, R451: a port taken to OFF stops at once. -/
def portStopped (p : Port) : Port :=
  { p with
    active := 0, linkUp := false, lanes := 0, laserOff := true, tx := [], link := Link.init
    ctr := if p.linkUp then vmod 0 p.ctr 16 fun w => satAdd w 1 else p.ctr }

/-- A core whose operations and tokens are abandoned. -/
def coreAbandoned (k : Core) : Core :=
  { k with ops := [], reqs := [], sb := [], tokens := [], taken := [], waiting := none, waitingFree := false }

/-- R451: safe halt; nested when it follows NESTED_FATAL. -/
def safeHalt (nested : Bool) (s : State) : State :=
  let s := mapCores (fun _ k => coreAbandoned k) s
  let s := mapStreams (fun _ x => { x with d.chunks := x.d.chunks.filter (!·.released) }) s
  { s with
    hub.halted := true
    evt.halted := s.evt.halted || nested
    evt.graceUntil := none
    mesh := [], passed := [], starvedArb := []
    las := s.las.map fun l => { l with en := false }
    cas.peers := s.cas.peers.map (· &&& 0x2F)
    ports := s.ports.map portStopped }

/-! The Bay writer's buffer (R453). -/

/-- The stall counters (R246, log entry 13): a waiting retry counts one cycle for its cause; a gated island counts none
(R493). -/
def countStall (cause n : Nat) (k : Core) : Core :=
  if k.gated then k else { k with stalls := vmod 0 k.stalls cause (· + BitVec.ofNat 32 n), copyStalls := vmod 0 k.copyStalls cause (· + BitVec.ofNat 64 n) }

/-- A record reaches the writer; a core whose record must wait for an entry counts fault-wait. -/
def toBay (r : Record) (s : State) : State :=
  let b := s.bay
  if b.opened && b.bad0 && b.bad1 then
    { s with bay.buffer := (b.buffer ++ [r]).drop (b.buffer.length + 1 - 1024) }
  else if b.buffer.length < 1024 then { s with bay.buffer := b.buffer ++ [r] }
  else if 2 ≤ r.cls.toNat then
    let s := if r.core = noCore then s else modCore s r.core.toNat (countStall 5 1)
    { s with bay.waitingIn := b.waitingIn ++ [r], bay.waits := satAdd b.waits 1 }
  else { s with bay.dropped := satAdd b.dropped 1 }

/-- R453: waiting records enter the buffer as space frees. -/
def bayRefill (s : State) : State :=
  let n := 1024 - s.bay.buffer.length
  { s with bay.buffer := s.bay.buffer ++ s.bay.waitingIn.take n, bay.waitingIn := s.bay.waitingIn.drop n }

/-! The error queue (R445-R450). -/

/-- A record with the next SEQ, the device time, and the start count. -/
def newRecord (code cls : Nat) (injected summary : Bool) (stream : Half) (core : CoreId) (detail : List Word)
    (s : State) : Record × State :=
  ({ code := BitVec.ofNat 16 code, cls := BitVec.ofNat 3 cls, injected := injected, summary := summary,
     seq := s.evt.nextSeq, time := s.clk.time, stream := stream, core := core,
     detail := detail ++ List.replicate (8 - detail.length) 0, start := s.boot.startCount, holdup := false },
   { s with evt.nextSeq := s.evt.nextSeq + 1 })

def isOverflowRec (r : Record) : Bool := decide (r.code = 0x0A01) && !r.injected

/-- R450: entries that records other than ERROR_QUEUE_OVERFLOW hold; a DEVICE record needs none. -/
def heldCount (e : Evt) : Nat :=
  ((e.waiting ++ e.handling.toList ++ e.preempted ++ e.handled).filter fun r =>
    !isOverflowRec r && decide (r.cls.toNat < 5)).length

/-- R405: EVT_STATUS.DEPTH, the records in the error queue. -/
def errorDepth (e : Evt) : Nat :=
  min 256 (e.waiting.length + e.handling.toList.length + e.preempted.length + e.handled.length)

/-- R446: a record enters the queue; one of higher class than the record in handling preempts it. -/
def enqueue (r : Record) (s : State) : State :=
  match s.evt.handling with
  | none => { s with evt.handling := some r }
  | some h =>
    if h.cls.toNat < r.cls.toNat then { s with evt.handling := some r, evt.preempted := h :: s.evt.preempted }
    else { s with evt.waiting := s.evt.waiting ++ [r] }

/-- R450: a record is lost; the first of an episode places ERROR_QUEUE_OVERFLOW in entry 255. -/
def loseRecord (s : State) : State :=
  let s := { s with evt.lost := satAdd s.evt.lost 1, evt.episode := s.evt.episode + 1 }
  match s.evt.overflow with
  | some _ => s
  | none =>
    let p := newRecord 0x0A01 2 false false noStream noCore [0, 0, 1, s.evt.lost] s
    enqueue p.1 (toBay p.1 { p.2 with evt.overflow := some p.1 })

/-- R450: the newest held record of class below GROUP that is neither in handling nor preempted. -/
def displaceable (e : Evt) : Option Record :=
  ((e.waiting ++ e.handled).filter fun r => !isOverflowRec r && decide (r.cls.toNat < 4)).foldl
    (fun m r => match m with
      | none => some r
      | some q => if q.seq.toNat < r.seq.toNat then some r else some q) none

/-- R445, R450: a record of class INFO to GROUP arrives at the error queue. -/
def arrive (r : Record) (s : State) : State :=
  if heldCount s.evt < 255 then enqueue r s
  else if r.cls.toNat = 4 then
    match displaceable s.evt with
    | none => loseRecord s
    | some d =>
      enqueue r (loseRecord { s with evt.waiting := s.evt.waiting.filter (· ≠ d), evt.handled := s.evt.handled.filter (· ≠ d) })
  else loseRecord s

def countClass (c : Nat) (s : State) : State := { s with evt.classCount := vmod 0 s.evt.classCount c fun w => satAdd w 1 }

/-- R448, R449: a DEVICE record. Its response begins when it is raised; while any handling is in progress or
preempted, NESTED_FATAL is raised and the device enters safe halt at once. -/
def arriveDevice (atOnce : Bool) (r : Record) (s : State) : State :=
  let nested := s.evt.handling.isSome || !s.evt.preempted.isEmpty
  let s := countClass 5 { s with evt.handled := s.evt.handled ++ [r] }
  if nested then
    let h := (s.evt.handling.getD (s.evt.preempted.headD Record.init))
    let p := newRecord 0x0A02 5 false false noStream noCore
      [0, 0, BitVec.ofNat 32 r.code.toNat, BitVec.ofNat 32 h.code.toNat, h.seq] s
    safeHalt true (countClass 5 { toBay p.1 p.2 with evt.handled := (toBay p.1 p.2).evt.handled ++ [p.1] })
  else if atOnce then safeHalt false s
  else { s with evt.stopReleases := true, evt.graceUntil := s.evt.graceUntil.orElse fun _ => some (BitVec.ofNat 64 (now s + 1000000)) }

/-- R444, R455: the summary record of one code. -/
def raiseSummary (s : State) (e : Half × BitVec 3 × Word × DWord × DWord) : State :=
  let p := newRecord e.1.toNat e.2.1.toNat false true noStream noCore
    ([e.2.2.1, 0] ++ words64 e.2.2.2.1.toNat ++ words64 e.2.2.2.2.toNat) s
  arrive p.1 (toBay p.1 p.2)

/-- R455: the summaries of a window that has ended. -/
def raiseSummaries (s : State) : State := s.evt.summarised.foldl raiseSummary { s with evt.summarised := [] }

/-- R455: the window of 1 s that the present time lies in; a new one starts both counts from 0, behind the summaries of the
one before. -/
def windowCounts (s : State) : State :=
  let w := now s / 1000000000
  if s.evt.window = w then s
  else
    let s := raiseSummaries s
    { s with evt.window := w, evt.infoCount := 0, evt.corrCount := 0 }

/-- R455: a record folded into its code's summary. -/
def summarise (code cls : Nat) (s : State) : State :=
  let l := s.evt.summarised
  let c : Half := BitVec.ofNat 16 code
  let t := s.clk.time
  let l := if l.any (fun e => decide (e.1 = c ∧ e.2.1.toNat = cls)) then
      l.map fun e => if e.1 = c ∧ e.2.1.toNat = cls then (e.1, e.2.1, satAdd e.2.2.1 1, e.2.2.2.1, t) else e
    else l ++ [(c, BitVec.ofNat 3 cls, 1, t, t)]
  { s with evt.summarised := l, bay.summarised := satAdd s.bay.summarised 1 }

/-- R352: a switch is aborted with a cause; the rollback ends at ROLLBACK_COMPLETE. -/
def beginRollback (cause : Nat) (s : State) : State :=
  match s.cfg.load with
  | some l =>
    let done := if l.waveOn then l.waveIdx - 1 else l.waveIdx
    { s with cfg.phase := .rollback, cfg.wave := 0
             cfg.load := some { l with abortCause := BitVec.ofNat 8 cause, waveOn := false, waveIdx := done } }
  | none => s

/-- R74, R352: a GROUP-class event is noted during a start, and aborts a switch in Stage or Prepare. -/
def groupRaised (s : State) : State :=
  let s := if s.hub.phase = .start then { s with hub.groupEvent := true } else s
  if s.cfg.phase = .stage ∨ s.cfg.phase = .prepare then beginRollback 4 s else s

/-- R445, R455: an event of a class and code is raised in full, or folded into a summary. -/
def raiseAs (code cls : Nat) (injected atOnce : Bool) (stream : Half) (core : CoreId) (detail : List Word)
    (s : State) : State :=
  let s := windowCounts s
  let n := if cls = 0 then s.evt.infoCount else s.evt.corrCount
  if cls < 2 && decide (1000 ≤ n) then summarise code cls s
  else
    let s := if cls = 0 then { s with evt.infoCount := s.evt.infoCount + 1 }
      else if cls = 1 then { s with evt.corrCount := s.evt.corrCount + 1 } else s
    let s := if cls = 4 then groupRaised s else s
    let p := newRecord code cls injected false stream core detail s
    let s := toBay p.1 p.2
    if cls = 5 then arriveDevice atOnce p.1 s else arrive p.1 s

/-- R443: an event of Table 15.2 is raised with the class that the table gives it. -/
def raise (code : Nat) (stream : Half) (core : CoreId) (detail : List Word) (s : State) : State :=
  raiseAs code (eventClass code) false (decide (code = 0x0902)) stream core detail s

/-- An event of a stream. -/
def raiseStream (code n : Nat) (detail : List Word) (s : State) : State :=
  raise code (BitVec.ofNat 16 n) noCore detail s

/-- An event of neither stream nor core. -/
def raisePlain (code : Nat) (detail : List Word) (s : State) : State := raise code noStream noCore detail s

/-- CFG_REJECT with its cause and the BAR0 offset or opcode (Table 15.2). -/
def cfgReject (cause off : Nat) (stream : Half) (s : State) : State :=
  raise 0x0501 stream noCore [0, 0, BitVec.ofNat 32 cause, BitVec.ofNat 32 off] { s with cfg.reject := BitVec.ofNat 8 cause }

/-! Event entries (R395, R447). -/

/-- Table 12.10: the words of an event entry. -/
def eventEntry (r : Record) (phase : Bool) (s : State) : List Word :=
  let detail := if isOverflowRec r then (r.detail.set 2 (BitVec.ofNat 32 s.evt.episode)).set 3 s.evt.lost else r.detail
  [BitVec.ofNat 32 (r.code.toNat + 2 ^ 16 * r.cls.toNat + 2 ^ 30 * b2n r.injected + 2 ^ 31 * b2n phase), r.seq] ++
    words64 r.time.toNat ++ [BitVec.ofNat 32 r.stream.toNat, BitVec.ofNat 32 r.core.toNat] ++ detail.take 8 ++
    [if r.summary then 0x80000000 else 0, 0]

def evqRoom (q : Que) : Bool := q.evEn && decide ((q.evTail.toNat + 1) % 2 ^ q.evSize.toNat ≠ q.evHead.toNat)

/-- R395, R404, R447: an entry is written to the event queue; vector 0 fires at once for STREAM class or above. -/
def writeEventEntry (r : Record) (s : State) : State :=
  let q := s.que
  let s := vput s (q.evBase.toNat / 4096 * 4096 + 64 * q.evTail.toNat) (bytesOfWords (eventEntry r q.evPhase s))
  let t := (q.evTail.toNat + 1) % 2 ^ q.evSize.toNat
  let s := { s with que.evTail := BitVec.ofNat 14 t, que.evPhase := xor q.evPhase (decide (t = 0)), evt.seq := r.seq }
  if 3 ≤ r.cls.toNat then fireVector 0 s else { s with que.evUnread := true }

/-- R450: the overflow episode ends when its record leaves the error queue. -/
def leaveQueue (r : Record) (s : State) : State :=
  if isOverflowRec r then { s with evt.overflow := none, evt.episode := 0 } else s

/-- R447, R391: handled records' entries are written, oldest completion first, while the queue has room; with EN 0
they leave without one. -/
def flushHandled : Nat → State → State
  | 0, s => s
  | f + 1, s =>
    match s.evt.handled with
    | [] => s
    | r :: rest =>
      let s' := { s with evt.handled := rest }
      if !s.que.evEn then flushHandled f (leaveQueue r s')
      else if evqRoom s.que then flushHandled f (leaveQueue r (writeEventEntry r s'))
      else s

def flushEvents (s : State) : State := flushHandled s.evt.handled.length s

end Sys2Proof.Machine
end

