-- ==== Sys2Proof/Machine/Rings.lean ====
section
/-! DEFINITION. A core's scratchpad, rings, scoreboard and stall counters (R203-R235, R246): the shared operations
on one core, and those that reach the writer of a slot in another core. -/

namespace Sys2Proof.Machine

/-! Scratchpad (R203, R208-R210, R365). -/

def spBytes : Nat := 0x20000

/-- R210: the range lies in the scratchpad and in powered banks. -/
def powered (k : Core) (a n : Nat) : Bool :=
  decide (a + n ≤ spBytes) && ((List.range 8).all fun b =>
    k.pwr.getLsbD b || decide (a + n ≤ 0x4000 * b) || decide (0x4000 * (b + 1) ≤ a) || decide (n = 0))

def unitsOf (a n : Nat) : List Nat := granulesOf a n

/-- R365: some byte of the range lies under a set poison bit. -/
def spPoisoned (k : Core) (a n : Nat) : Bool := (unitsOf a n).any fun u => k.spPoison.contains u

def spRead (k : Core) (a n : Nat) : List Byte := memRead k.sp a n

/-- R365: a poisoned write sets the poison bits it touches, a clean one clears those it covers whole. -/
def spWrite (k : Core) (a : Nat) (bs : List Byte) (poison : Bool) : Core :=
  let us := unitsOf a bs.length
  let p := if poison then us.foldl (fun p u => ins u p) k.spPoison
    else (us.filter fun u => decide (a ≤ 64 * u) && decide (64 * u + 64 ≤ a + bs.length)).foldl (fun p u => del u p) k.spPoison
  { k with sp := memWrite k.sp a bs, spPoison := p }

/-- R222: the tag store. -/
def tagAt (k : Core) (a : Nat) : Half := tabGetD 0 k.tags (a / 64)
def setTag (k : Core) (a : Nat) (t : Half) : Core := { k with tags := tabSetD 0 k.tags (a / 64) t }

/-! Waiting (R246). -/

/-- The control core waits. -/
def stall (cause : Nat) (k : Core) : Core := { countStall cause 1 k with waiting := some (BitVec.ofNat 3 cause) }

/-- R276: an operation of the core that waits at a fault. -/
def opSuspended (k : Core) (id : Nat) : Bool := k.ops.any fun o => decide (o.id = id) && o.suspended.isSome

/-- The control core waits for operations of its core: as fault-wait when one of them waits at a fault (R276, Table 7.11). -/
def stallOn (ops : List Nat) (cause : Nat) (k : Core) : Core := stall (if ops.any (opSuspended k) then 5 else cause) k

/-- The operations that a ring waits for. -/
def ringOps (x : Ring) : List Nat := x.writer.toList ++ x.reader.toList

/-- The control core goes on. -/
def unstall (k : Core) : Core := { k with waiting := none, waitingFree := false }

/-- R493: an arrival restarts a gated island. -/
def restart (k : Core) : Core := { k with gated := false }

/-- Input has arrived: a context that waited for it may run again (R248). -/
def wake (k : Core) : Core := { restart k with ctx0.waits := false, ctx1.waits := false }

/-! Rings (R218-R226). -/

def getRing (k : Core) (r : Nat) : Ring := vget Ring.init k.rings r
def setRing (k : Core) (r : Nat) (x : Ring) : Core := { k with rings := vset k.rings r x }

/-- R218: the slot size, 64 x 2^SLOT_LOG2 bytes. -/
def slotBytes (x : Ring) : Nat := 64 * 2 ^ x.slotLog2.toNat
def ringBytes (x : Ring) : Nat := x.nslots.toNat * slotBytes x

/-- R220: slot i begins at BASE + i x slot size. -/
def slotAddr (x : Ring) (i : Nat) : Nat := x.base.toNat + i * slotBytes x

/-- The slot index that contains an address of the ring's range. -/
def slotOf (x : Ring) (a : Nat) : Option Nat :=
  if x.base.toNat ≤ a ∧ a < x.base.toNat + ringBytes x then some ((a - x.base.toNat) / slotBytes x) else none

def isCommitted (s : SlotState) : Bool :=
  match s with
  | .committed | .read | .released => true
  | .allocated | .full => false

/-- R220: the filled slots are the leading committed ones. -/
def filledCount (x : Ring) : Nat := (x.slots.takeWhile fun s => isCommitted s.state).length

def filledSlots (x : Ring) : List Slot := x.slots.takeWhile fun s => isCommitted s.state

/-- R220, R221: TAIL passes a slot only when it and every slot before it are committed. -/
def setTail (x : Ring) : Ring :=
  let n := x.nslots.toNat
  let t := (x.head.toNat + n * b2n x.headWrap + filledCount x) % (2 * n)
  { x with tail := BitVec.ofNat 12 (t % n), tailWrap := decide (n ≤ t) }

/-- R223: HEAD passes a slot only when it and every slot before it are released. -/
def popReleased (x : Ring) : Ring × List Slot :=
  let d := x.slots.takeWhile fun s => decide (s.state = .released)
  let n := x.nslots.toNat
  let h := (x.head.toNat + n * b2n x.headWrap + d.length) % (2 * n)
  (setTail { x with head := BitVec.ofNat 12 (h % n), headWrap := decide (n ≤ h), slots := x.slots.drop d.length }, d)

/-- R221: the next free unallocated slot in ring order. -/
def nextFree (x : Ring) : Option Nat :=
  if x.slots.length < x.nslots.toNat then some ((x.head.toNat + x.slots.length) % x.nslots.toNat) else none

def allocSlot (x : Ring) (s : Slot) : Option (Ring × Nat) :=
  (nextFree x).map fun i => ({ x with slots := x.slots ++ [{ s with idx := i }] }, i)

def modSlot (x : Ring) (i : Nat) (f : Slot → Slot) : Ring :=
  { x with slots := x.slots.map fun s => if s.idx = i then f s else s }

def findSlot (x : Ring) (i : Nat) : Option Slot := x.slots.find? fun s => decide (s.idx = i)

/-- R221: a slot is committed, and TAIL follows. -/
def commitSlot (k : Core) (r i : Nat) (tag : Half) : Core :=
  let x := getRing k r
  wake (setTag (setRing k r (setTail (modSlot x i fun s => { s with state := .committed, tag := tag }))) (slotAddr x i) tag)

/-- R268: the counts of the device-time window of 3,200 ns that a time lies in; B is that of the last complete one. -/
def rollWindow (t : Nat) (x : Ring) : Ring :=
  let w := t / 3200
  if w = x.window then x
  else { x with window := w, lastBytes := if w = x.window + 1 then x.windowBytes else 0, windowBytes := 0 }

/-- R223, R268: a slot is released and its bytes counted; HEAD is advanced by `popReleased`. -/
def markReleased (t : Nat) (x : Ring) (i : Nat) : Ring :=
  let y := rollWindow t (modSlot x i fun s => { s with state := .released })
  { y with windowBytes := y.windowBytes + slotBytes y }

/-! Scoreboard (R229-R233). -/

def sbCovers (e : SbEntry) (a : Nat) : Bool :=
  decide (e.line.toNat ≤ a / 32) && decide (a / 32 ≤ e.line.toNat + e.count.toNat)

/-- R231, R233: a read at or above the mark of a write entry that covers it waits. -/
def readBlocked (k : Core) (a : Nat) : Bool := k.sb.any fun e => e.write && sbCovers e a && decide (e.mark ≤ a)

/-- R233: a store waits while any entry covers its line. -/
def writeBlocked (k : Core) (a : Nat) : Bool := k.sb.any fun e => sbCovers e a

/-- The operations whose entries cover the line of an address, of those that p picks. -/
def coverOps (k : Core) (a : Nat) (p : SbEntry → Bool) : List Nat := (k.sb.filter fun e => sbCovers e a && p e).map (·.op)

/-- R231: n bytes from a are written: the progress mark of an entry that is written in ascending order moves past them;
every other mark is held. -/
def moveMarks (k : Core) (op a n : Nat) : Core :=
  { k with sb := k.sb.map fun e => if e.write ∧ e.asc ∧ e.op = op ∧ sbCovers e a then { e with mark := max e.mark (a + n) } else e }

/-- R232: the entries of an operation are freed. -/
def freeEntries (k : Core) (op : Nat) : Core := { k with sb := k.sb.filter fun e => decide (e.op ≠ op) }

/-- R232: the entries of an operation whose last access has been made are freed. -/
def freeDone (k : Core) (op : Nat) (done : SbEntry → Bool) : Core := { k with sb := k.sb.filter fun e => !(decide (e.op = op) && done e) }

/-! Raw addressing inside a ring (R227). -/

/-- The addresses at which a range of bytes enters a new 64 B unit. -/
def unitStarts (a n : Nat) : List Nat := (unitsOf a n).map fun u => max a (64 * u)

/-- R227: whether a raw access of one byte is an error, with the ring and the slot. A control core may write a
slot that it allocated. -/
def rawAt (k : Core) (cc write : Bool) (a : Nat) : Option (Nat × Nat) :=
  (List.range 16).findSome? fun r =>
    let x := getRing k r
    if !x.en then none else
    (slotOf x a).bind fun i =>
      let filled := (filledSlots x).any fun s => decide (s.idx = i)
      let alloc := x.slots.any fun s => decide (s.idx = i)
      let own := cc && decide (x.writer = some 16) && alloc && !filled
      if write then (if alloc && !own then some (r, i) else none)
      else if filled then none else some (r, i)

/-- R227: the first offending byte of an access: ring, slot, address. -/
def rawViolation (k : Core) (cc write : Bool) (a n : Nat) : Option (Nat × Nat × Nat) :=
  (unitStarts a n).findSome? fun b => (rawAt k cc write b).map fun p => (p.1, p.2, b)

/-- The detail of RING_OVERRUN and RING_UNDERREAD after the prefix (Table 15.2). -/
def ringDetail (ring slot rank addr sender : Nat) : List Word :=
  [BitVec.ofNat 32 (ring + 16 * slot + 2 ^ 15 * rank), BitVec.ofNat 32 addr, BitVec.ofNat 32 sender]

/-! Credits and forwarding (R225, R274). -/

/-- R220, R268: filled bytes F of a ring. -/
def ringFill (x : Ring) : Nat := filledCount x * slotBytes x

/-- A chain credit comes back to the operation that spent it, with the ring's F and B; a member that reported none yet
has both 0 (log entry 109). -/
def chainCredit (serial m : Nat) (rep : Nat × Nat) (k : Core) : Core :=
  { k with ops := k.ops.map fun o => if o.serial = serial
      then { o with counters := upd o.counters m (· + 1), farDry := upd o.farDry m fun _ => rep } else o }

/-- R225, R268, R274: one slot that HEAD has passed returns its credit, with the ring's F and B. -/
def returnCredit (f b : Nat) (s : State) (sl : Slot) : State :=
  match sl.chain with
  | some (c, op, m) => modCore s c.toNat (chainCredit op m (f, b))
  | none =>
    match sl.route with
    | some e => { s with cas.owed := s.cas.owed ++ [e] }
    | none =>
    match sl.srcCore with
    | some (c, r) =>
      modCore s c.toNat fun k =>
        let x := getRing k r.toNat
        setRing k r.toNat { x with credits := x.credits + 1, farFilled := f, farBytes := b }
    | none => s

/-- R221: a slot is committed with its tag. -/
def commitAt (c r i : Nat) (tag : Half) (s : State) : State := setCore s c (commitSlot (getCore s c) r i tag)

/-- R83, R279: slots that a halted writer had formed, and then its poison slot, take the slots that are free. -/
def fillDue : Nat → Nat → Nat → State → State
  | 0, _, _, s => s
  | f + 1, c, r, s =>
    let k := getCore s c
    let x := getRing k r
    match x.dueSlots with
    | (tag, bs, p) :: rest =>
      match allocSlot { x with dueSlots := rest } Slot.init with
      | some (y, i) => fillDue f c r (commitAt c r i tag (setCore s c (spWrite (setRing k r y) (slotAddr y i) bs p)))
      | none => s
    | [] =>
      match x.poisonDue with
      | none => s
      | some tag =>
        match allocSlot { x with poisonDue := none, writer := none } { Slot.init with poison := true } with
        | some (y, i) => commitAt c r i tag (setCore s c (setRing k r y))
        | none => s

def poisonIfDue (c r : Nat) (s : State) : State := fillDue ((getRing (getCore s c) r).dueSlots.length + 1) c r s

/-- R222: the tag of a slot that is free again is X. -/
def freeTagOf (c : Nat) (x : Ring) (s : State) (sl : Slot) : State :=
  setCore (draw s).2 c (setTag (getCore s c) (slotAddr x sl.idx) (BitVec.ofNat 16 (draw s).1))

/-- R223, R225: HEAD passes released slots, whose tags are X and whose credits return. -/
def releaseHead (c r : Nat) (s : State) : State :=
  let k := getCore s c
  let p := popReleased (rollWindow (now s) (getRing k r))
  let s := p.2.foldl (freeTagOf c p.1) (setCore s c (setRing k r p.1))
  poisonIfDue c r (p.2.foldl (returnCredit (ringFill p.1) p.1.lastBytes) s)

/-- R223: a slot is released by its reader, and HEAD follows. -/
def releaseAt (c r i : Nat) (s : State) : State :=
  let k := getCore s c
  releaseHead c r (setCore s c (setRing k r (markReleased (now s) (getRing k r) i)))

/-- R83, R279: a terminated destination ring: slots that the writer had formed keep their place; the first slot that TAIL
has not passed becomes a poison slot with the tag it would have carried, and every later slot of the operation is freed. -/
def terminateRing (c r op : Nat) (formed : List (Half × List Byte × Bool)) (tag : Half) (s : State) : State :=
  let k := getCore s c
  let x := getRing k r
  if x.writer ≠ some op then s else
  let done := filledCount x
  let k1 := setRing k r { x with writer := none, slots := x.slots.take (done + 1) }
  match x.slots[done]? with
  | none => poisonIfDue c r (setCore s c (setRing k r { x with writer := some 17, dueSlots := formed, poisonDue := some tag }))
  | some sl =>
    let y := modSlot (getRing k1 r) sl.idx fun q => { q with poison := true }
    let s := (x.slots.drop (done + 1)).foldl (freeTagOf c x) (setCore s c (setRing k1 r y))
    commitAt c r sl.idx sl.tag s

end Sys2Proof.Machine
end

