-- ==== Sys2Proof/Machine/StreamOps.lean ====
section
/-! DEFINITION. Chunks in flight: the image they run under, the conditions and poison their work meets (R65-R66,
R366), and the fault of a chunk (R166, R299, R300). -/

namespace Sys2Proof.Machine

/-! Images, templates, replicas and groups (R326-R334, R348). -/

/-- The image of an epoch: the current one, the staged one, or the one just replaced. -/
def imageAt (s : State) (epoch : Half) : Option Image :=
  if epoch = s.cfg.epoch then s.cfg.cur else if epoch = s.cfg.epoch + 1 then s.cfg.staged else s.cfg.old

/-- The image whose programs a program bank holds. -/
def imageOfBank (s : State) (b : BitVec 1) : Option Image :=
  if b = s.cfg.bankOf then s.cfg.cur else s.cfg.staged.orElse fun _ => s.cfg.old

def templateIn (g : Image) (m : Nat) : Option ImgTemplate := g.templates.find? fun t => decide (t.template.toNat = m)

def replicaIn (g : Image) (m r : Nat) : Option ImgReplica :=
  g.replicas.find? fun x => decide (x.template.toNat = m) && decide (x.replica.toNat = r)

def groupIn (g : Image) (n : Nat) : Option ImgGroup := g.groups.find? fun x => decide (x.group.toNat = n)

/-- The template of a stream in the current image. -/
def templateOf (s : State) (x : Stream) : Option ImgTemplate := s.cfg.cur.bind fun g => templateIn g x.r.model.toNat

/-- The template that a chunk runs with. -/
def chunkTemplate (s : State) (x : Stream) (c : Chunk) : Option ImgTemplate :=
  (imageAt s c.epoch).bind fun g => templateIn g x.r.model.toNat

/-- The replica that a chunk runs on. -/
def chunkReplica (s : State) (x : Stream) (c : Chunk) : Option ImgReplica :=
  (imageAt s c.epoch).bind fun g => replicaIn g x.r.model.toNat c.replica.toNat

/-- The group of a layer of a chunk. -/
def chunkGroup (s : State) (x : Stream) (c : Chunk) (layer : Nat) : Option ImgGroup :=
  (imageAt s c.epoch).bind fun g =>
    (replicaIn g x.r.model.toNat c.replica.toNat).bind fun r => r.groups[layer]?.bind fun n => groupIn g n.toNat

/-- The group record of a core under the image of a bank (R242). -/
def coreGroup (s : State) (k : Core) (b : BitVec 1) : Option ImgGroup :=
  (groupOf k b).bind fun g => (imageOfBank s b).bind fun i => groupIn i g.toNat

/-- The logical cores of a group (R329). -/
def groupCores (g : ImgGroup) : List Nat := (List.range g.coreCount).map (g.coreFirst + ·)

/-! Chunks. -/

def findChunk (x : Stream) (num : DWord) : Option Chunk := x.d.chunks.find? fun c => decide (c.num = num)

def modChunk (s : State) (n : Nat) (num : DWord) (f : Chunk → Chunk) : State :=
  modStream s n fun x => { x with d.chunks := x.d.chunks.map fun c => if c.num = num then f c else c }

def modLayer (s : State) (n : Nat) (num : DWord) (layer : Nat) (f : LayerWork → LayerWork) : State :=
  modChunk s n num fun c => { c with layers := upd c.layers layer f }

def layerOf (c : Chunk) (layer : Nat) : LayerWork := c.layers.getD layer LayerWork.init

/-- R293: in flight means released, not yet posted, and not stopped under R166. -/
def inFlight (x : Stream) : Bool := x.d.chunks.any fun c => c.released && !c.stopped

/-- R288: INPUT_GAP for the open run of gap frames. -/
def closeGap (n : Nat) (s : State) : State :=
  let d := (getStream s n).d
  if d.gapRun = 0 then s
  else
    raiseStream 0x0403 n [0, d.gapChunk.truncate 32, BitVec.ofNat 32 d.gapRun, d.gapFirst]
      (modStream s n fun x => { x with d.gapRun := 0 })

/-! Conditions met by a chunk's work (R65, R66). -/

/-- R66, Table 2.10: counts, flags and the events raised once per layer or chunk. -/
def chunkEv (n : Nat) (num : DWord) (layer : Nat) (e : Ev) (s : State) : State :=
  match findChunk (getStream s n) num with
  | none => s
  | some c =>
    let w := layerOf c layer
    let grow := e.growth && !w.raisedGrowth
    let s := modStream s n fun x => { x with
      r.satCount := satAdd x.r.satCount e.sat
      c.ovf := satAdd x.c.ovf e.ovf
      c.nonfinite := satAdd x.c.nonfinite e.nonfinite
      c.empty := satAdd x.c.empty e.empty
      c.growth := satAdd x.c.growth (b2n grow) }
    let s := modChunk s n num fun c => { c with nflags := c.nflags ||| flagsOf e, raisedEmpty := c.raisedEmpty || decide (0 < e.empty) }
    let s := modLayer s n num layer fun w => { w with
      nonfinite := w.nonfinite + e.nonfinite, raisedNonfinite := w.raisedNonfinite || decide (0 < e.nonfinite),
      raisedGrowth := w.raisedGrowth || e.growth }
    let p := evPrefix 8 layer num.toNat
    let s := if 0 < e.nonfinite ∧ !w.raisedNonfinite then
        raiseStream 0x0106 n (p ++ [BitVec.ofNat 32 (w.nonfinite + e.nonfinite)]) s else s
    let s := if grow then raiseStream 0x0107 n p s else s
    if 0 < e.empty ∧ !c.raisedEmpty then raiseStream 0x0108 n p s else s

/-- R366: a chunk's work read poison: POISON is set, and POISON_READ is raised once per stream and chunk. -/
def poisonChunk (n : Nat) (num : DWord) (unit layer : Nat) (core : CoreId) (granule : Nat) (s : State) : State :=
  match findChunk (getStream s n) num with
  | none => s
  | some c =>
    let s := modChunk s n num fun c => { c with nflags := c.nflags ||| flagPoison, raisedPoison := true }
    if c.raisedPoison then s
    else
      let s := { s with mmu.poisonCount := satAdd s.mmu.poisonCount 1 }
      raise 0x0303 (BitVec.ofNat 16 n) core (evPrefix unit layer num.toNat ++ words64 granule) s

/-- R68: the saturations of one quantised tensor of a layer, summed over the cores of its group (log entry 15). -/
def addTensor (n : Nat) (num : DWord) (layer ordinal sat count : Nat) (s : State) : State :=
  modLayer s n num layer fun w =>
    let o := tabGetD (0, 0) w.tensors ordinal
    { w with tensors := tabPut w.tensors ordinal (o.1 + sat, o.2 + count) }

/-! The fault of a chunk (R299, R300). -/

/-- Some core has taken a token of the chunk and not marked it done. -/
def chunkTaken (s : State) (n : Nat) (num : DWord) : Bool :=
  s.cores.any fun e => e.2.taken.any fun t => decide (t.tok.stream.toNat = n ∧ t.tok.chunk = num)

/-- R166, R293: in a FAULTED stream, a released chunk after the faulted one has stopped once no core works on it. -/
def settleStopped (n : Nat) (s : State) : State :=
  let x := getStream s n
  match (if x.state = .faulted then x.d.faultAt else none) with
  | none => s
  | some f =>
    setStream s n { x with d.chunks := x.d.chunks.map fun c =>
      if f.toNat < c.num.toNat ∧ c.released then { c with stopped := !chunkTaken s n c.num } else c }

/-- R299 step 4: on one core, the committed IN_RING slots of withdrawn tokens are released. -/
def releaseWithdrawn (n c : Nat) (s : State) : State :=
  let k := getCore s c
  match (coreGroup s k k.bank).map fun g => g.inRing.toNat with
  | none => s
  | some r =>
    if 16 ≤ r then s else
    let keep := (k.tokens.filter fun t => decide (t.stream.toNat = n) && !t.rerun).length
    let sl := ((getRing k r).slots.filter fun q =>
      decide (q.state = .committed) && decide ((tagAt k (slotAddr (getRing k r) q.idx)).toNat = n)).drop keep
    sl.foldl (fun s q => releaseAt c r q.idx s) s

/-- R299 step 4: a slot of a FAULTED stream that no token of the core waits for belongs to a withdrawn one, whenever it
arrives. -/
def dropLate (c : Nat) (tag : Half) (s : State) : State :=
  if tag.toNat < 4096 ∧ (getStream s tag.toNat).state = .faulted then releaseWithdrawn tag.toNat c s else s

/-- The same on every core. -/
def dropAllLate (s : State) : State :=
  (s.streams.filter fun e => decide (e.2.state = .faulted)).foldl (fun s e => (s.cores.map (·.1)).foldl (fun s c => releaseWithdrawn e.1 c s) s) s

/-- R299 steps 2 and 4: held tokens of a chunk and of later chunks are withdrawn from every core. -/
def withdrawTokens (n : Nat) (num : DWord) (s : State) : State :=
  let gone (t : Token) : Bool := decide (t.stream.toNat = n ∧ num.toNat ≤ t.chunk.toNat)
  (s.cores.filter fun e => e.2.tokens.any gone).foldl (fun s e =>
    releaseWithdrawn n e.1 (modCore s e.1 fun k => { k with tokens := k.tokens.filter fun t => !gone t })) s

/-- R299: a chunk faults with a cause of Table 9.2. The rings that the halted operation writes are terminated by the
halt itself. -/
def faultChunk (n : Nat) (num : DWord) (cause : Nat) (s : State) : State :=
  match findChunk (getStream s n) num with
  | none => s
  | some c =>
    if c.faulted.isSome then s else
    let s := modStream s n fun x => { x with
      state := (match x.state with | .running | .paused | .ending | .faulted => .faulted | st => st)
      r.cause := BitVec.ofNat 8 cause
      d.faultAt := some (match x.d.faultAt with
        | some f => if num.toNat < f.toNat then num else f
        | none => num) }
    let s := closeGap n s
    let s := modChunk s n num fun c => { c with faulted := some (BitVec.ofNat 8 cause) }
    let s := mapCores (fun _ k => { k with taken := k.taken.map fun t =>
      if t.tok.stream.toNat = n ∧ t.tok.chunk = num then { t with faulted := true } else t }) s
    settleStopped n (withdrawTokens n num s)

/-! Moving state (R167). -/

/-- R167: the sections that every chunk on the old replica is done with are copied to the new block; STE_STATE_PTR reads
the new address once every section has moved. -/
def settleMove (n : Nat) (s : State) : State :=
  let x := getStream s n
  match x.d.movingTo, templateOf s x with
  | some goal, some t =>
    let old := x.d.chunks.filter fun c => c.released && decide (c.replica ≠ x.d.replica) && c.faulted.isNone && !c.stopped
    let ready (e : ImgState) : Bool := !x.d.moved.contains e.layer.toNat && old.all fun c => (layerOf c e.layer.toNat).complete
    let s := (t.stateMap.filter ready).foldl (fun s e =>
      let s := match vread s (x.r.statePtr.toNat + e.offset) (8 * e.d * e.n) with
        | .ok (bs, p) => (vwrite s (goal.toNat + e.offset) bs p).1
        | .error _ => s
      modStream s n fun x => { x with d.moved := ins e.layer.toNat x.d.moved }) s
    if t.stateMap.all fun e => (getStream s n).d.moved.contains e.layer.toNat then
      modStream s n fun x => { x with r.statePtr := goal, d.movingTo := none, d.moved := [] }
    else s
  | _, _ => s

/-! The token that a core works for (log entry 14). -/

/-- The most recently taken token of the executing context. -/
def curToken (k : Core) : Option Taken := (k.taken.filter fun t => decide (t.ctx = k.cur)).getLast?

/-- Conditions met by the control core count for its current token. -/
def tokenEv (k : Core) (e : Ev) (s : State) : State :=
  match curToken k with
  | none => s
  | some t => chunkEv t.tok.stream.toNat t.tok.chunk t.tok.layer.toNat e s

/-- The stream, chunk and layer for the prefix of an event of a core's work. -/
def tokenPrefix (k : Core) (unit : Nat) : Half × List Word :=
  match curToken k with
  | none => (noStream, evPrefix unit 0xFF 0)
  | some t => (BitVec.ofNat 16 t.tok.stream.toNat, evPrefix unit t.tok.layer.toNat t.tok.chunk.toNat)

end Sys2Proof.Machine
end

