-- ==== Sys2Proof/Machine/ControlCore.lean ====
section
/-! DEFINITION. The control core's own instructions (R236-R248, Table 7.9): arithmetic, loads and stores, branches,
special registers, waits, and the faults of R247. ISSUE, tokens, rings and grants have files of their own. -/

namespace Sys2Proof.Machine

/-! Contexts and registers (R236, R248). -/

def getCtx (k : Core) : Ctx := if k.cur = 0 then k.ctx0 else k.ctx1
def setCtx (k : Core) (x : Ctx) : Core := if k.cur = 0 then { k with ctx0 := x } else { k with ctx1 := x }
def getReg (k : Core) (r : RegId) : Word := (getCtx k).regs.get r.toFin
def setReg (k : Core) (r : RegId) (v : Word) : Core := setCtx k { getCtx k with regs := (getCtx k).regs.set r.toNat v r.isLt }
def setPc (k : Core) (p : BitVec 12) : Core := setCtx k { getCtx k with pc := p }

/-- The next word; fetch never leaves the bank (R245). -/
def nextPc (k : Core) : Core := setPc k ((getCtx k).pc + 1)

/-- A register of a given context, for results that arrive later. -/
def setRegOf (k : Core) (ctx : BitVec 1) (r : RegId) (v : Word) : Core :=
  if ctx = 0 then { k with ctx0 := { k.ctx0 with regs := k.ctx0.regs.set r.toNat v r.isLt } }
  else { k with ctx1 := { k.ctx1 with regs := k.ctx1.regs.set r.toNat v r.isLt } }

/-- R116: SUM_EN and SUM_REG of an EC operation in flight. -/
def ecSumEn (o : Op) : Bool := decide (o.unit = 1) && bit (nth o.desc 0) 1
def ecSumReg (o : Op) : Nat := fld (nth o.desc 0) 2 5

/-- R241: the register is the SUM_REG of an EC operation of this context that has not completed. -/
def regPending (k : Core) (r : RegId) : Bool :=
  k.ops.any fun o => ecSumEn o && decide (o.ctx = k.cur) && decide (ecSumReg o = r.toNat)

/-- R241: some EC operation with SUM_EN of this context has not completed. -/
def sumPending (k : Core) : Bool := k.ops.any fun o => ecSumEn o && decide (o.ctx = k.cur)

/-! Leaving an epoch (R209, R245, R329). -/

def otherCtx (k : Core) : Ctx := if k.cur = 0 then k.ctx1 else k.ctx0
def setOtherCtx (k : Core) (x : Ctx) : Core := if k.cur = 0 then { k with ctx1 := x } else { k with ctx0 := x }

/-- R329: a ring that the old image enabled takes the new image's record once the old epoch has left the core, unless
both give it the same place. -/
def retiredRings (g : ImgGroup) (k : Core) : Vector Ring 16 :=
  Vector.ofFn fun (i : Fin 16) =>
    let x := getRing k i.val
    let y := g.rings.getD i.val Ring.init
    if !x.en || decide (x.base = y.base ∧ x.slotLog2 = y.slotLog2 ∧ x.nslots = y.nslots ∧ x.fwd = y.fwd ∧ x.fwdCore = y.fwdCore ∧ x.fwdRing = y.fwdRing)
    then x else y

/-- The core has done with every token of the other bank. -/
def oldGone (s : State) (k : Core) : Bool :=
  (k.tokens.all fun t => decide (t.bank = s.cfg.bankOf)) && k.taken.all fun t => decide (t.tok.bank = s.cfg.bankOf)

/-- Outside Prepare, Switch and the rollback, one image is in force. -/
def oneImage (s : State) : Bool :=
  match s.cfg.phase with
  | .prepare | .switch | .rollback => false
  | _ => true

/-- The core executes in the bank of the current image, in both contexts of COMPAT mode. -/
def inBank (s : State) (k : Core) : Bool :=
  decide (k.bank = s.cfg.bankOf) && (!k.compat || decide ((otherCtx k).bank = s.cfg.bankOf))

/-- R209, R245, R329: once the core is done with its last token of the old epoch, its rings and powered banks are those
of the new image, a core in no group powers down, and, once it executes in the new bank, the old bank is the spare one. -/
def leaveOld (s : State) (k : Core) : Core :=
  if oneImage s && oldGone s k then
    match coreGroup s k s.cfg.bankOf with
    | some g =>
      let k := if k.leaving then { k with leaving := false, rings := retiredRings g k, pwr := g.bankPwr, usable := k.usable &&& g.bankPwr, zeroing := k.zeroing &&& g.bankPwr } else k
      if inBank s k then { k with otherLoaded := false } else k
    | none => if (s.cfg.cur.isSome || k.leaving) && k.tokens.isEmpty && k.taken.isEmpty && k.ops.isEmpty then Core.init else k
  else k

/-! Faults (R247, Table 7.12). -/

/-- Table 7.12: the control core's saved position. -/
def ccPosition (k : Core) (op cause : Nat) : List Word :=
  words64 ((getCtx k).pc.toNat + 2 ^ 12 * k.bank.toNat + 2 ^ 13 * k.cur.toNat + 2 ^ 48 * op + 2 ^ 56 * cause)

/-- R247: after a fault the core's taken tokens are abandoned, their chunks fault, and it resumes at word 0 of the
executing bank. -/
def ccAbandon (c cause : Nat) (s : State) : State :=
  let k := getCore s c
  let s := setCore s c (leaveOld s (setPc { unstall k with taken := [] } 0))
  k.taken.foldl (fun s t => settleStopped t.tok.stream.toNat (faultChunk t.tok.stream.toNat t.tok.chunk cause s)) s

/-- R247: a control-core fault, SCALE_WINDOW with cause ENCODING. -/
def ccFault (c op : Nat) (s : State) : State :=
  let k := getCore s c
  let p := tokenPrefix k 7
  ccAbandon c 0x14 (raise 0x0104 p.1 (BitVec.ofNat 17 c) (p.2 ++ ccPosition k op 3) s)

/-- R227, R228, R247: a control-core access by OP op inside a ring's range raises RING_UNDERREAD or RING_OVERRUN, whose
detail ends with the saved position (log entry 95). -/
def ccRingFault (c op : Nat) (write : Bool) (v : Nat × Nat × Nat) (s : State) : State :=
  let k := getCore s c
  let p := tokenPrefix k 7
  ccAbandon c 0x13 (raise (if write then 0x0202 else 0x0203) p.1 (BitVec.ofNat 17 c)
    (p.2 ++ ringDetail v.1 v.2.1 6 v.2.2 0x1FFFF ++ ccPosition k op (if write then 0xE else 0xD)) s)

/-! Running an instruction. -/

/-- R239, R241: an instruction of a core; it waits, counting scoreboard, while a register that it reads is the
SUM_REG of an operation not yet complete. -/
def ccRun (core : CoreId) (reads : List RegId) (f : Core → State → State) (s : State) : Out :=
  withCore core (fun k s => if reads.any (regPending k) then setCore s core.toNat (stall 2 k) else f (unstall k) s) s

/-- An instruction whose whole effect is on its core's registers. -/
def ccReg (core : CoreId) (reads : List RegId) (f : Core → Core) (s : State) : Out :=
  ccRun core reads (fun k s => setCore s core.toNat (nextPc (f k))) s

/-- rd := f ra rb (R239). -/
def ccAlu (core : CoreId) (rd ra rb : RegId) (f : Word → Word → Word) (s : State) : Out :=
  ccReg core [ra, rb] (fun k => setReg k rd (f (getReg k ra) (getReg k rb))) s

/-- rd := f ra, with an immediate. -/
def ccImm (core : CoreId) (rd : RegId) (ra : RegId) (f : Word → Word) (s : State) : Out :=
  ccReg core [ra] (fun k => setReg k rd (f (getReg k ra))) s

/-- An FPU instruction (R239, R42, R43): its conditions count for the core's current token. -/
def ccFpu (core : CoreId) (rd : RegId) (reads : List RegId) (f : Core → N Word) (s : State) : Out :=
  ccRun core reads (fun k s =>
    let r := (f k).run Ev.init
    tokenEv k r.2 (setCore s core.toNat (nextPc (setReg k rd r.1)))) s

def execAdd (core : CoreId) (rd ra rb : RegId) (s : State) : Out := ccAlu core rd ra rb (· + ·) s
def execSub (core : CoreId) (rd ra rb : RegId) (s : State) : Out := ccAlu core rd ra rb (· - ·) s
def execAnd (core : CoreId) (rd ra rb : RegId) (s : State) : Out := ccAlu core rd ra rb (· &&& ·) s
def execOr (core : CoreId) (rd ra rb : RegId) (s : State) : Out := ccAlu core rd ra rb (· ||| ·) s
def execXor (core : CoreId) (rd ra rb : RegId) (s : State) : Out := ccAlu core rd ra rb (· ^^^ ·) s

/-- Shifts take RB[4:0] (R239). -/
def execShl (core : CoreId) (rd ra rb : RegId) (s : State) : Out := ccAlu core rd ra rb (fun a b => a <<< (b.toNat % 32)) s
def execShr (core : CoreId) (rd ra rb : RegId) (s : State) : Out := ccAlu core rd ra rb (fun a b => a >>> (b.toNat % 32)) s
def execSra (core : CoreId) (rd ra rb : RegId) (s : State) : Out := ccAlu core rd ra rb (fun a b => a.sshiftRight (b.toNat % 32)) s
def execMul (core : CoreId) (rd ra rb : RegId) (s : State) : Out := ccAlu core rd ra rb (· * ·) s
def execSlt (core : CoreId) (rd ra rb : RegId) (s : State) : Out := ccAlu core rd ra rb (fun a b => if a.slt b then 1 else 0) s
def execSltu (core : CoreId) (rd ra rb : RegId) (s : State) : Out := ccAlu core rd ra rb (fun a b => if a.ult b then 1 else 0) s
def execAddi (core : CoreId) (rd ra : RegId) (imm : Half) (s : State) : Out := ccImm core rd ra (· + imm.signExtend 32) s
def execLui (core : CoreId) (rd : RegId) (imm : Half) (s : State) : Out :=
  ccReg core [] (fun k => setReg k rd (imm.zeroExtend 32 <<< 16)) s
def execAndi (core : CoreId) (rd ra : RegId) (imm : Half) (s : State) : Out := ccImm core rd ra (· &&& imm.zeroExtend 32) s
def execOri (core : CoreId) (rd ra : RegId) (imm : Half) (s : State) : Out := ccImm core rd ra (· ||| imm.zeroExtend 32) s

def execFadd (core : CoreId) (rd ra rb : RegId) (s : State) : Out :=
  ccFpu core rd [ra, rb] (fun k => fadd (getReg k ra) (getReg k rb)) s
def execFsub (core : CoreId) (rd ra rb : RegId) (s : State) : Out :=
  ccFpu core rd [ra, rb] (fun k => fsub (getReg k ra) (getReg k rb)) s
def execFmul (core : CoreId) (rd ra rb : RegId) (s : State) : Out :=
  ccFpu core rd [ra, rb] (fun k => fmul (getReg k ra) (getReg k rb)) s
def execFma (core : CoreId) (rd ra rb : RegId) (s : State) : Out :=
  ccFpu core rd [ra, rb, rd] (fun k => fma (getReg k ra) (getReg k rb) (getReg k rd)) s

/-- R43, R44: a minimum or maximum, which counts a NaN operand. -/
def fpick (f : Word → Word → Word) (a b : Word) : N Word := do
  if isNan a || isNan b then countNonfinite
  return f a b

def execFmin (core : CoreId) (rd ra rb : RegId) (s : State) : Out :=
  ccFpu core rd [ra, rb] (fun k => fpick fminw (getReg k ra) (getReg k rb)) s
def execFmax (core : CoreId) (rd ra rb : RegId) (s : State) : Out :=
  ccFpu core rd [ra, rb] (fun k => fpick fmaxw (getReg k ra) (getReg k rb)) s

/-- R239: a signed integer to F32 by RNA. -/
def execI2f (core : CoreId) (rd ra : RegId) (s : State) : Out :=
  ccFpu core rd [ra] (fun k => rnd ((getReg k ra).toInt : Rat)) s

/-- R239: F32 to an integer by RNA, saturating at ±(2^31 - 1); NaN gives 0. -/
def f2iWord (w : Word) : Word :=
  if isNan w then 0 else BitVec.ofInt 32 (max (-(2 ^ 31 - 1)) (min (2 ^ 31 - 1) (rnaInt (f32val w))))

def execF2i (core : CoreId) (rd ra : RegId) (s : State) : Out := ccImm core rd ra f2iWord s

/-- R239: rd := 1 if ra < rb; a comparison with a NaN is false. -/
def fltWord (a b : Word) : Word := if !isNan a && !isNan b && fltv a b then 1 else 0

def execFlt (core : CoreId) (rd ra rb : RegId) (s : State) : Out := ccAlu core rd ra rb fltWord s

/-! Loads and stores (R210, R213-R216, R227, R233, R247). -/

/-- R365, R366: a load of a poisoned word marks every token that the core holds taken. -/
def poisonTokens (c : Nat) (s : State) : State :=
  let k := getCore s c
  let s := setCore s c { k with taken := k.taken.map fun t => { t with poison := true } }
  k.taken.foldl (fun s t => poisonChunk t.tok.stream.toNat t.tok.chunk 7 t.tok.layer.toNat (BitVec.ofNat 17 c) 0 s) s

/-- The address of a load or store: ra + sext(imm), modulo 2^32. -/
def effAddr (k : Core) (ra : RegId) (imm : Half) : Nat := (getReg k ra + imm.signExtend 32).toNat

/-- R247: a 4 B-aligned word in a powered bank. -/
def wordOk (k : Core) (a : Nat) : Bool := decide (a % 4 = 0) && powered k a 4

/-- R228, R233, R365: a word load. -/
def execLd (core : CoreId) (rd ra : RegId) (imm : Half) (s : State) : Out :=
  ccRun core [ra] (fun k s =>
    let c := core.toNat
    let a := effAddr k ra imm
    if !wordOk k a then ccFault c 0x10 (setCore s c k)
    else if readBlocked k a then setCore s c (stallOn (coverOps k a fun e => e.write && decide (e.mark ≤ a)) 2 k)
    else match rawViolation k true false a 4 with
      | some v => ccRingFault c 0x10 false v (setCore s c (setReg k rd 0))
      | none =>
        let s := setCore s c (nextPc (setReg k rd (memWord k.sp a)))
        if spPoisoned k a 4 then poisonTokens c s else s) s

/-- R233, R365: a word store. -/
def execSt (core : CoreId) (rd ra : RegId) (imm : Half) (s : State) : Out :=
  ccRun core [ra, rd] (fun k s =>
    let c := core.toNat
    let a := effAddr k ra imm
    if !wordOk k a then ccFault c 0x11 (setCore s c k)
    else if writeBlocked k a then setCore s c (stallOn (coverOps k a fun _ => true) 2 k)
    else match rawViolation k true true a 4 with
      | some v => ccRingFault c 0x11 true v (setCore s c k)
      | none => setCore s c (nextPc (spWrite k a (leBytes 4 (getReg k rd).toNat) false))) s

/-- R213: a remote load of any powered word of any core; its wait counts remote-latency. -/
def execLdr (core : CoreId) (rd ra rb : RegId) (s : State) : Out :=
  ccRun core [ra, rb] (fun k s =>
    let c := core.toNat
    let t := (getReg k ra).toNat
    let a := (getReg k rb).toNat
    let far := getCore s t
    if t < 2 ^ 17 ∧ coreExists s (BitVec.ofNat 17 t) ∧ wordOk far a then
      let s := modCore s t restart
      let s := setCore s c (unstall (stall 4 (nextPc (setReg k rd (memWord far.sp a)))))
      if spPoisoned far a 4 then poisonTokens c s else s
    else ccFault c 0x12 (setCore s c k)) s

/-- R216: a grant held from the destination covers all of the bytes. -/
def grantCovers (k : Core) (dst a n : Nat) : Bool :=
  k.grantsIn.any fun g => decide (g.dst.toNat = dst ∧ g.base ≤ a ∧ a + n ≤ g.base + g.len)

/-- R216: a remote store leaves under a covering grant, and waits, as credit-wait, while there is none. -/
def execStr (core : CoreId) (rd ra rb : RegId) (s : State) : Out :=
  ccRun core [ra, rb, rd] (fun k s =>
    let c := core.toNat
    let t := (getReg k ra).toNat
    let a := (getReg k rb).toNat
    if t < 2 ^ 17 ∧ coreExists s (BitVec.ofNat 17 t) ∧ wordOk (getCore s t) a then
      if grantCovers k t a 4 then
        { setCore s c (nextPc k) with
          mesh := s.mesh ++ [Msg.write core (BitVec.ofNat 17 t) a (leBytes 4 (getReg k rd).toNat) false none] }
      else setCore s c (stall 1 k)
    else ccFault c 0x13 (setCore s c k)) s

/-- R222, R239: the tag of the 64 B that contain an address. -/
def execLdt (core : CoreId) (rd ra : RegId) (imm : Half) (s : State) : Out :=
  ccRun core [ra] (fun k s =>
    let c := core.toNat
    let a := effAddr k ra imm
    if powered k a 1 then setCore s c (nextPc (setReg k rd ((tagAt k a).zeroExtend 32)))
    else ccFault c 0x14 (setCore s c k)) s

/-! Branches (R238, R239). -/

/-- R238: PC := target, or a control-core fault when it lies outside 0 to 4,095. -/
def ccJump (c op : Nat) (target : Int) (k : Core) (s : State) : State :=
  if 0 ≤ target ∧ target < 4096 then setCore s c (setPc k (BitVec.ofInt 12 target))
  else ccFault c op (setCore s c k)

def ccBranch (core : CoreId) (op : Nat) (ra rb : RegId) (off : Half) (f : Word → Word → Bool) (s : State) : Out :=
  ccRun core [ra, rb] (fun k s =>
    if f (getReg k ra) (getReg k rb) then ccJump core.toNat op ((getCtx k).pc.toNat + sext off) k s
    else setCore s core.toNat (nextPc k)) s

def execBeq (core : CoreId) (ra rb : RegId) (off : Half) (s : State) : Out := ccBranch core 0x18 ra rb off (· == ·) s
def execBne (core : CoreId) (ra rb : RegId) (off : Half) (s : State) : Out := ccBranch core 0x19 ra rb off (· != ·) s
def execBlt (core : CoreId) (ra rb : RegId) (off : Half) (s : State) : Out := ccBranch core 0x1A ra rb off (fun a b => a.slt b) s
def execBge (core : CoreId) (ra rb : RegId) (off : Half) (s : State) : Out := ccBranch core 0x1B ra rb off (fun a b => !a.slt b) s
def execBltu (core : CoreId) (ra rb : RegId) (off : Half) (s : State) : Out := ccBranch core 0x1C ra rb off (fun a b => a.ult b) s
def execBgeu (core : CoreId) (ra rb : RegId) (off : Half) (s : State) : Out := ccBranch core 0x1D ra rb off (fun a b => !a.ult b) s

def execJal (core : CoreId) (rd : RegId) (off : BitVec 21) (s : State) : Out :=
  ccRun core [] (fun k s =>
    let pc := (getCtx k).pc.toNat
    let t : Int := pc + off.toInt
    if 0 ≤ t ∧ t < 4096 then setCore s core.toNat (setPc (setReg k rd (BitVec.ofNat 32 (pc + 1))) (BitVec.ofInt 12 t))
    else ccFault core.toNat 0x1E (setCore s core.toNat k)) s

def execJr (core : CoreId) (ra : RegId) (s : State) : Out :=
  ccRun core [ra] (fun k s => setCore s core.toNat (setPc k ((getReg k ra).truncate 12))) s

/-- R239, R241: a branch on the summary word. -/
def execBsum (core : CoreId) (sense : Bool) (mask : BitVec 6) (off : Half) (s : State) : Out :=
  ccRun core [] (fun k s =>
    if sumPending k then setCore s core.toNat (stall 2 k)
    else if decide ((getCtx k).sumw.truncate 6 &&& mask ≠ 0) = sense then
      ccJump core.toNat 0x20 ((getCtx k).pc.toNat + sext off) k s
    else setCore s core.toNat (nextPc k)) s

/-! Special registers (R237, Table 7.7). -/

/-- The number of grants that a core has issued and that are outstanding, and the number it holds. -/
def grantsWord (k : Core) : Word := BitVec.ofNat 32 (k.grantsOut.length + 256 * k.grantsIn.length)

def opsWord (k : Core) : Word := BitVec.ofNat 32 (k.ops.foldl (fun m o => m ||| 2 ^ o.id) 0)

/-- Table 7.7: the value of a special register; none for an index without one. -/
def special (s : State) (c : Nat) (k : Core) (i : Nat) : Option Word :=
  match i with
  | 0 => some (getCtx k).sumw
  | 1 => some (BitVec.ofNat 32 c)
  | 2 => some (BitVec.ofNat 32 (((groupOf k k.bank).getD 0).toNat + 2 ^ 16 * groupPosOf k k.bank))
  | 3 => some (BitVec.ofNat 32 (k.bank.toNat + 2 * b2n k.otherLoaded + 4 * k.cur.toNat))
  | 4 => some (BitVec.ofNat 32 (now s))
  | 5 => some k.timeHi
  | 6 => some (opsWord k)
  | 7 => some (grantsWord k)
  | 16 => some k.hazard
  | i => if 8 ≤ i ∧ i ≤ 15 then some (vget 0 k.stalls (i - 8)) else none

/-- R237, R241. -/
def execMfs (core : CoreId) (rd : RegId) (imm : Half) (s : State) : Out :=
  ccRun core [] (fun k s =>
    let c := core.toNat
    if imm = 0 && sumPending k then setCore s c (stall 2 k)
    else match special s c k imm.toNat with
      | none => ccFault c 0x21 (setCore s c k)
      | some v =>
        let k := if imm = 4 then { k with timeHi := BitVec.ofNat 32 (now s / 2 ^ 32) } else k
        setCore s c (nextPc (setReg k rd v))) s

/-- R237: a write sets a stall counter or HAZARD; an RO register is a control-core fault. -/
def execMts (core : CoreId) (ra : RegId) (imm : Half) (s : State) : Out :=
  ccRun core [ra] (fun k s =>
    let c := core.toNat
    let i := imm.toNat
    if 8 ≤ i ∧ i ≤ 15 then setCore s c (nextPc { k with stalls := vset k.stalls (i - 8) (getReg k ra) })
    else if i = 16 then setCore s c (nextPc { k with hazard := getReg k ra })
    else ccFault c 0x22 (setCore s c k)) s

/-! Waiting and contexts (R241, R248). -/

/-- R241: WAITOP counts no stall of its own. -/
def execWaitop (core : CoreId) (ra : RegId) (s : State) : Out :=
  ccRun core [ra] (fun k s =>
    let v := getReg k ra
    let busy := if v = 0xFFFFFFFF then !k.ops.isEmpty else k.ops.any fun o => decide (o.id = v.toNat)
    setCore s core.toNat (if busy then { k with waitingFree := true } else nextPc k)) s

/-- R248: the other context executes from now on. -/
def switchCtx (k : Core) : Core :=
  let k := setCtx k { getCtx k with bank := k.bank }
  let k := { k with cur := k.cur ^^^ 1 }
  { k with bank := (getCtx k).bank }

def execYield (core : CoreId) (s : State) : Out :=
  ccRun core [] (fun k s => setCore s core.toNat (if k.compat then switchCtx (nextPc k) else nextPc k)) s

/-- R248: a wait for input. In COMPAT mode the executing context gives way while the other is not waiting, and only
then is nothing counted. -/
def waitInput (k : Core) : Core :=
  if k.compat then
    let k := setCtx k { getCtx k with waits := true }
    let other := if k.cur = 0 then k.ctx1 else k.ctx0
    if other.waits then stall 0 k else switchCtx k
  else stall 0 k

end Sys2Proof.Machine
end

