-- ==== Sys2Proof/Machine/CoreRings.lean ====
section
/-! DEFINITION. Control-core instructions on rings and grants (R215-R225), the words that are no instruction, writes
and notices that arrive from other cores, and the powering of scratchpad banks (R206-R209, R234, R331). -/

namespace Sys2Proof.Machine

/-- R239: word 0 is NOP; a word that is no instruction is a control-core fault. A word that another command stands
for has no effect of its own here (log entry 1). -/
def execCcNop (core : CoreId) (word : Word) (s : State) : Out :=
  ccRun core [] (fun k s =>
    if word = 0 then setCore s core.toNat (nextPc k)
    else if (ccDecode core word).isNone then ccFault core.toNat (ccOp word) (setCore s core.toNat k)
    else s) s

/-! Ring records (R218, R219). -/

/-- Table 7.3: the ring that a record gives; HEAD, TAIL and the wrap bits start at 0. -/
def ringRecord (w : List Word) : Ring :=
  { Ring.init with
    base := BitVec.ofNat 17 (fld (nth w 0) 0 17), slotLog2 := BitVec.ofNat 3 (fld (nth w 0) 17 3)
    en := bit (nth w 0) 20, fwd := bit (nth w 0) 21
    nslots := BitVec.ofNat 12 (fld (nth w 1) 0 12), credits := BitVec.ofNat 12 (fld (nth w 1) 16 12)
    fwdCore := BitVec.ofNat 17 (fld (nth w 3) 0 17), fwdRing := BitVec.ofNat 4 (fld (nth w 3) 17 4) }

/-- Two byte ranges overlap. -/
def overlaps (a n b m : Nat) : Bool := decide (a < b + m) && decide (b < a + n)

def grantOverlap (k : Core) (a n : Nat) : Bool := k.grantsOut.any fun g => overlaps g.base g.len a n

def ringOverlap (k : Core) (except : Nat) (a n : Nat) : Bool :=
  (List.range 16).any fun r =>
    decide (r ≠ except) && (getRing k r).en && overlaps (getRing k r).base.toNat (ringBytes (getRing k r)) a n

/-- R219: the checks of a record. -/
def ringRecordOk (s : State) (k : Core) (r : Nat) (w : List Word) : Bool :=
  let x := ringRecord w
  let a := x.base.toNat
  decide (fld (nth w 0) 22 10 = 0) && decide (fld (nth w 1) 12 4 = 0) && decide (fld (nth w 1) 28 4 = 0) &&
  decide (fld (nth w 2) 13 3 = 0) && decide (fld (nth w 2) 29 3 = 0) && decide (fld (nth w 3) 21 11 = 0) &&
  decide (x.slotLog2.toNat ≠ 7) && decide (1 ≤ x.nslots.toNat) && decide (x.nslots.toNat ≤ 2048) &&
  decide (x.fwd → x.credits.toNat ≤ 2048) && decide (a % slotBytes x = 0) && powered k a (ringBytes x) &&
  !(x.en && (ringOverlap k r a (ringBytes x) || grantOverlap k a (ringBytes x))) && coreExists s x.fwdCore

/-- R224: the rings that an operation of unit u reads and writes are kept in the rings' reader and writer. -/
def ringInUse (x : Ring) : Bool := x.writer.isSome || x.reader.isSome || !x.slots.isEmpty

/-- R219: RCFG waits, as scoreboard, until an enabled ring is empty and no operation names it. -/
def execRcfg (core : CoreId) (ra rb : RegId) (s : State) : Out :=
  ccRun core [ra, rb] (fun k s =>
    let c := core.toNat
    let r := (getReg k ra).toNat % 16
    let a := (getReg k rb).toNat
    let w := wordsOf 4 (spRead k a 16)
    if !(powered k a 16 && ringRecordOk s k r w) then ccFault c 0x28 (setCore s c k)
    else if (getRing k r).en && ringInUse (getRing k r) then setCore s c (stallOn (ringOps (getRing k r)) 2 k)
    else setCore s c (nextPc (setRing k r (ringRecord w)))) s

/-- R239, R280: the oldest committed slot not yet released; a poison slot sets bit 31. A reader that waits for
a slot of a suspended operation counts fault-wait (R276). -/
def execRwaitCommitted (core : CoreId) (rd ra : RegId) (s : State) : Out :=
  ccRun core [ra] (fun k s =>
    let c := core.toNat
    let x := getRing k ((getReg k ra).toNat % 16)
    match (filledSlots x).find? fun q => decide (q.state ≠ .released) with
    | some q =>
      if x.en then setCore s c (nextPc (setReg k rd (BitVec.ofNat 32 (slotAddr x q.idx + 2 ^ 31 * b2n q.poison))))
      else setCore s c (waitInput k)
    | none => setCore s c (if x.writer.toList.any (opSuspended k) then stall 5 k else waitInput k)) s

/-- R221, R224: the next free slot is allocated to the control core. -/
def execRwaitAllocate (core : CoreId) (rd ra : RegId) (s : State) : Out :=
  ccRun core [ra] (fun k s =>
    let c := core.toNat
    let r := (getReg k ra).toNat % 16
    let x := getRing k r
    if x.writer.isSome && decide (x.writer ≠ some 16) then setCore s c (stallOn x.writer.toList 2 k)
    else if !x.en then setCore s c (stall 1 k)
    else match allocSlot x Slot.init with
      | none => setCore s c (stall 1 k)
      | some (y, i) =>
        setCore s c (nextPc (setReg (setRing k r { y with writer := some 16 }) rd (BitVec.ofNat 32 (slotAddr x i))))) s

/-- R223: any filled slot may be released. -/
def execRrel (core : CoreId) (ra rb : RegId) (s : State) : Out :=
  ccRun core [ra, rb] (fun k s =>
    let c := core.toNat
    let r := (getReg k ra).toNat % 16
    let x := getRing k r
    match (slotOf x (getReg k rb).toNat).bind fun i => (filledSlots x).find? fun q => decide (q.idx = i ∧ q.state ≠ .released) with
    | some q => if x.en then releaseAt c r q.idx (setCore s c (nextPc k)) else ccFault c 0x2A (setCore s c k)
    | none => ccFault c 0x2A (setCore s c k)) s

/-- R221, R222, R224: the slot that the control core holds is committed with the tag in rd. -/
def execRcommit (core : CoreId) (rd ra rb : RegId) (s : State) : Out :=
  ccRun core [rd, ra, rb] (fun k s =>
    let c := core.toNat
    let r := (getReg k ra).toNat % 16
    let x := getRing k r
    match (slotOf x (getReg k rb).toNat).bind (findSlot x) with
    | some q =>
      if x.en && decide (x.writer = some 16) && decide (q.state = .allocated) then
        let more := x.slots.any fun p => decide (p.idx ≠ q.idx ∧ p.state = .allocated ∧ p.srcCore = none)
        commitAt c r q.idx ((getReg k rd).truncate 16)
          (setCore s c (nextPc (setRing k r { x with writer := if more then some 16 else none })))
      else ccFault c 0x2B (setCore s c k)
    | none => ccFault c 0x2B (setCore s c k)) s

/-! Grants (R215-R217). -/

/-- The lowest free grant number. -/
def freeGrant (k : Core) : Option Nat := (List.range 4).find? fun n => !(k.grantsOut.any fun g => decide (g.num = n))

def execGrant (core : CoreId) (rd ra rb : RegId) (s : State) : Out :=
  ccRun core [ra, rb] (fun k s =>
    let c := core.toNat
    let t := (getReg k ra).toNat
    let a := (getReg k rb).toNat
    let base := (memWord k.sp a).toNat
    let len := (memWord k.sp (a + 4)).toNat
    if t < 2 ^ 17 ∧ coreExists s (BitVec.ofNat 17 t) ∧ powered k a 8 ∧ base % 32 = 0 ∧ len % 32 = 0 ∧ 32 ≤ len ∧
        len ≤ 65536 ∧ powered k base len ∧ !ringOverlap k 16 base len then
      match freeGrant k with
      | none => setCore s c (stall 1 k)
      | some n =>
        if 8 ≤ (getCore s t).grantsIn.length then setCore s c (stall 1 k)
        else
          let s := setCore s c (nextPc (setReg { k with grantsOut := k.grantsOut ++
            [{ num := n, src := BitVec.ofNat 17 t, base := base, len := len, ended := false }] } rd (BitVec.ofNat 32 n)))
          modCore s t fun q => { q with grantsIn := q.grantsIn ++ [{ dst := core, num := n, base := base, len := len }] }
    else ccFault c 0x2C (setCore s c k)) s

/-- R217: GWAIT waits for the end notice, counting input-not-ready, and frees the number. -/
def execGwait (core : CoreId) (ra : RegId) (s : State) : Out :=
  ccRun core [ra] (fun k s =>
    let c := core.toNat
    let n := (getReg k ra).toNat
    match k.grantsOut.find? fun g => decide (g.num = n) with
    | none => setCore s c (nextPc k)
    | some g =>
      if g.ended then setCore s c (nextPc { k with grantsOut := k.grantsOut.filter fun g => decide (g.num ≠ n) })
      else setCore s c (waitInput k)) s

/-- R217: the source gives up a grant, and the end notice follows its writes. -/
def endGrant (c dst num : Nat) (s : State) : State :=
  let k := getCore s c
  if k.grantsIn.any fun g => decide (g.dst.toNat = dst ∧ g.num = num) then
    { setCore s c { k with grantsIn := k.grantsIn.filter fun g => decide (¬ (g.dst.toNat = dst ∧ g.num = num)) } with
      mesh := s.mesh ++ [Msg.grantEnd (BitVec.ofNat 17 c) (BitVec.ofNat 17 dst) num] }
  else s

def execGend (core : CoreId) (ra rb : RegId) (s : State) : Out :=
  ccRun core [ra, rb] (fun k s =>
    let c := core.toNat
    endGrant c (getReg k ra).toNat (getReg k rb).toNat (setCore s c (nextPc k))) s

/-! Arrivals from other cores (R214, R217, R234, R235). -/

def msgDst (m : Msg) : CoreId :=
  match m with
  | .write _ d .. => d
  | .slot _ d .. => d
  | .chain _ d .. => d
  | .grantEnd _ d _ => d

def msgSrc (m : Msg) : CoreId :=
  match m with
  | .write s .. => s
  | .slot s .. => s
  | .chain s .. => s
  | .grantEnd s .. => s

def isWrite (m : Msg) : Bool := match m with | .write .. => true | _ => false

/-- The first message that satisfies p, and the rest. -/
def takeMsg (p : Msg → Bool) : List Msg → Option (Msg × List Msg)
  | [] => none
  | m :: r => if p m then some (m, r) else (takeMsg p r).map fun q => (q.1, m :: q.2)

/-- R234, R235: the lines of a remote write that in-flight entries cover are counted, and the first during a taken
token raises RANGE_HAZARD where the group asks for it. -/
def countHazards (c a n : Nat) (s : State) : State :=
  let k := getCore s c
  let lines := if n = 0 then [] else (List.range ((a + n - 1) / 32 - a / 32 + 1)).map (a / 32 + ·)
  let hit := lines.filter fun l => k.sb.any fun e => sbCovers e (32 * l)
  match hit with
  | [] => s
  | l :: _ =>
    let h := hit.length
    let first := k.taken.any fun t => !t.hazard
    let wanted := ((coreGroup s k k.bank).map (·.hazardEvent)).getD false
    let op := ((k.sb.find? fun e => sbCovers e (32 * l)).map (·.op)).getD 0
    let k' := { k with hazard := k.hazard + BitVec.ofNat 32 h, copyHazard := k.copyHazard + BitVec.ofNat 64 h,
                       taken := k.taken.map fun t => { t with hazard := true } }
    let s := setCore s c k'
    if first && wanted then
      raise 0x0201 (tokenPrefix k 7).1 (BitVec.ofNat 17 c) [0, 0, BitVec.ofNat 32 (l + 2 ^ 12 * op)] s
    else s

def setReqState (c tag : Nat) (st : ReqState) (s : State) : State :=
  modCore s c fun k => { k with reqs := k.reqs.map fun q => if q.tag = tag then { q with state := st } else q }

/-- R214, R234: the oldest remote write to a core lands. -/
def execRemoteWriteLand (core : CoreId) (s : State) : Out :=
  withCore core (fun _ s =>
    match takeMsg (fun m => isWrite m && decide (msgDst m = core)) s.mesh with
    | some (.write src _ a bs p req, rest) =>
      let c := core.toNat
      let s := countHazards c a bs.length { s with mesh := rest }
      let s := modCore s c fun k => restart (spWrite k a bs p)
      match req with
      | some tag => setReqState src.toNat tag .landed s
      | none => s
    | _ => s) s

/-- R217: an end notice reaches the destination after every write made under the grant. -/
def execGrantEndNotice (core : CoreId) (s : State) : Out :=
  withCore core (fun _ s =>
    match takeMsg (fun m => match m with | .grantEnd _ d _ => decide (d = core) | _ => false) s.mesh with
    | some (.grantEnd src _ n, rest) =>
      if s.mesh.any fun m => isWrite m && decide (msgDst m = core ∧ msgSrc m = src) then s
      else
        modCore { s with mesh := rest } core.toNat fun k => wake { k with grantsOut := k.grantsOut.map fun g =>
          if g.num = n ∧ g.src = src then { g with ended := true } else g }
    | _ => s) s

/-! Powering banks (R206-R209). -/

/-- Bytes of an image's section, as DRAM holds them. -/
def sectionBytes (s : State) (g : Image) (sect off n : Nat) : List Byte :=
  memRead s.dram (g.base + (g.sections.getD sect ImgSection.init).offset + off) n

/-- R331: the preload copies of one core, in record order. -/
def preloadCore (g : Image) (b : BitVec 1) (c : Nat) (s : State) : State :=
  let k := getCore s c
  let mine := g.preloads.filter fun p => decide (some p.group = groupOf k b)
  setCore s c (mine.foldl (fun k p =>
    spWrite k p.dst (sectionBytes s g p.sect (p.offset + groupPosOf k b * p.stride) p.length) false) k)

/-- R331: the copies are made once every powered bank is usable and filled. -/
def preloadIfReady (c : Nat) (s : State) : State :=
  let k := getCore s c
  match k.preloadFrom with
  | none => s
  | some b =>
    if k.usable = k.pwr ∧ k.zeroing = 0 then
      match imageOfBank s b with
      | some g => preloadCore g b c (setCore s c { k with preloadFrom := none })
      | none => s
    else s

def setBit8 (m : Byte) (i : Nat) : Byte := m ||| BitVec.ofNat 8 (2 ^ i)

/-- R209: 128 cycles after its power-up a bank is usable, and is zero-filled when its BANK_ZERO bit is set; the contents
of a bank that is not are X. -/
def execBankPowerUp (core : CoreId) (bank : BitVec 3) (s : State) : Out :=
  withCore core (fun k s =>
    let c := core.toNat
    let b := bank.toNat
    if k.pwr.getLsbD b && !k.usable.getLsbD b then
      let zero := ((coreGroup s k (k.preloadFrom.getD k.bank)).map fun g => g.bankZero.getLsbD b).getD false
      let p := if zero then ([], s) else drawBytes s 0x4000
      preloadIfReady c (setCore p.2 c { k with
        sp := memWrite k.sp (0x4000 * b) p.1
        usable := setBit8 k.usable b, zeroing := if zero then setBit8 k.zeroing b else k.zeroing })
    else s) s

/-- R209: the zero-fill of a core's banks ends; every byte of them reads 0 and no poison is left. -/
def execBankZeroFillEnd (core : CoreId) (s : State) : Out :=
  withCore core (fun k s =>
    let c := core.toNat
    let banks := (List.range 8).filter fun b => k.zeroing.getLsbD b
    let k := banks.foldl (fun k b => { k with
      sp := memClear k.sp (0x4000 * b) 0x4000
      spPoison := k.spPoison.filter fun u => decide (¬ (256 * b ≤ u ∧ u < 256 * (b + 1))) }) k
    preloadIfReady c (setCore s c { k with zeroing := 0 })) s

/-- R206, R207: a request refused in 16 consecutive cycles is served ahead of every rank; a requester of the core
counts its bank-conflict cycles, and the core that a refused write came from counts them as remote-latency. -/
def execBankRequestStarved (core : CoreId) (bank : BitVec 3) (rank : BitVec 4) (s : State) : Out :=
  withCore core (fun k s =>
    let s := setCore s core.toNat { k with starved := k.starved.filter (fun e => decide (e ≠ (bank, rank))) ++ [(bank, rank)] }
    if rank.toNat ≠ 8 then modCore s core.toNat (countStall 3 16)
    else match s.mesh.find? fun m => decide (msgDst m = core) with
      | some m => modCore s (msgSrc m).toNat (countStall 4 16)
      | none => s) s

end Sys2Proof.Machine
end

