-- ==== Sys2Proof/Machine/Functions.lean ====
section
/-! DEFINITION. The FN stage (R133, R134, Table 4.8, Table 2.5) and the express curves (R144). -/

namespace Sys2Proof.Machine

/-! Real values of the functions, to some 200 bits: far finer than the bounds of Table 4.8 (log entry 8). -/

/-- ln 2 in units of 2^-256. -/
def ln2Units : Nat := 0xb17217f7d1cf79abc9e3b39803f2f6af40f343267298b62d8a0d175b8baafa2b

/-- Terms r^i / i! from the n-th on, in units of 2^-256. -/
def expTerms : Nat → Nat → Nat → Nat → Nat
  | 0, _, _, _ => 0
  | k + 1, n, t, r => t + expTerms k (n + 1) (t * r / 2 ^ 256 / n) r

/-- e^x. -/
def expReal (x : Rat) : Rat :=
  let ln2 : Rat := mkRat ln2Units (2 ^ 256)
  let k := (x / ln2).floor
  pow2 k * mkRat (expTerms 64 1 (2 ^ 256) ((x - k * ln2) * (2 ^ 256 : Nat)).floor.toNat) (2 ^ 256)

/-- Terms y^i / (2i + 1), in units of 2^-256. -/
def logTerms : Nat → Nat → Nat → Nat → Nat
  | 0, _, _, _ => 0
  | k + 1, n, p, y => p / n + logTerms k (n + 2) (p * y / 2 ^ 256) y

/-- ln v of a positive v: v = m x 2^e with m in 2/3 to 4/3, ln m = 2 artanh z. -/
def logReal (v : Rat) : Rat :=
  let e := log2Floor v
  let m := v * pow2 (-e)
  let e := if mkRat 4 3 < m then e + 1 else e
  let m := if mkRat 4 3 < m then m / 2 else m
  let z := (m - 1) / (m + 1)
  e * mkRat ln2Units (2 ^ 256) + 2 * z * mkRat (logTerms 64 1 (2 ^ 256) (z * z * (2 ^ 256 : Nat)).floor.toNat) (2 ^ 256)

/-- 1 / (1 + e^-x); beyond 300 it is nearer to 0 or 1 than any bound asks. -/
def sigmoidReal (x : Rat) : Rat := 1 / (1 + expReal (-(max (-300) (min 300 x))))

/-- ln(1 + e^x). -/
def softplusReal (x : Rat) : Rat := if 300 < x then x else logReal (1 + expReal (max (-300) x))

/-- tanh x, by its series where x is tiny. -/
def tanhReal (x : Rat) : Rat :=
  if ratAbs x < pow2 (-60) then x - x * x * x / 3
  else
    let y := expReal (2 * max (-300) (min 300 x))
    (y - 1) / (y + 1)

/-- 0.5x(1 + tanh u) = x x sigmoid(2u). -/
def geluReal (x : Rat) : Rat := x * sigmoidReal (2 * mkRat 7978845608 10000000000 * (x + mkRat 44715 1000000 * x * x * x))

/-- The ulp of an exact value that is not zero. -/
def ulpOf (v : Rat) : Rat := pow2 (max (log2Floor (ratAbs v)) (-126) - 23)

/-- R133, R134: the result of a function unit at x, whose exact value v is not zero: the word of the tables that the manual
does not hold, which lies within n ulp of v (log entry 8); a zero has v's sign. -/
def unitWord (code n : Nat) (x : Word) (v : Rat) : Word :=
  let w := Config.fnTable code x
  let ok := !isNan w && decide (ratAbs (f32val w - v) ≤ (n + pow2 (-60)) * ulpOf v) && (!isZero w || decide (isNeg w = decide (v < 0)))
  if ok then w else (rnaF32 v).1

/-- R133: the RNA rounding of 1 / sqrt(v) for a positive v. -/
def rsqrtExact (v : Rat) : Word :=
  let y := 1 / v
  let e : Int := Int.ediv (log2Floor y) 2
  let q : Int := e - 23
  let z := 4 * y * pow2 (-2 * q)
  let t := Nat.sqrt (z.num.natAbs / z.den)
  (rnaF32 (((t + 1) / 2 : Nat) * pow2 q)).1

/-- Above 88.722839 EXP gives +F32max; below -103.97208 it gives +0 (Table 4.8). -/
def expHigh : Rat := mkRat 88722839 1000000
def expLow : Rat := -(mkRat 10397208 100000)

def fnExp (x : Word) : N Word :=
  if isZero x then pure f32one
  else if f32val x > expHigh then do countOvf; return f32max
  else if f32val x < expLow then pure 0
  else
    let w := unitWord 1 1 x (expReal (f32val x)) &&& 0x7FFFFFFF
    pure (if isNeg x && flt f32one w then f32one else w)

def fnLog (x : Word) : N Word :=
  if isZero x || isNeg x then do countOvf; return negF32max
  else pure (if x = f32one then 0 else unitWord 2 1 x (logReal (f32val x)))

def fnRecip (x : Word) : N Word := fdiv f32one x

def fnRsqrt (x : Word) : N Word :=
  if isZero x || isNeg x then do countOvf; return f32max else pure (rsqrtExact (f32val x))

def fnTanh (x : Word) : N Word :=
  pure (if isZero x then x
    else if mkRat 91 10 ≤ ratAbs (f32val x) then (if isNeg x then 0xBF800000 else f32one)
    else unitWord 5 2 x (tanhReal (f32val x)))

/-- R142: a sigmoid never exceeds 1. -/
def fnSigmoid (x : Word) : N Word :=
  pure (if isZero x then 0x3F000000 else if mkRat 174 10 ≤ f32val x then f32one
    else fminw f32one (unitWord 6 2 x (sigmoidReal (f32val x)) &&& 0x7FFFFFFF))

def fnSoftplus (x : Word) : N Word := pure (if isZero x then 0x3F317218 else unitWord 7 2 x (softplusReal (f32val x)) &&& 0x7FFFFFFF)
def fnSilu (x : Word) : N Word := pure (if isZero x then x else unitWord 8 2 x (f32val x * sigmoidReal (f32val x)))
def fnGelu (x : Word) : N Word := pure (if isZero x then x else unitWord 9 4 x (geluReal (f32val x)))

/-- R43, R133: a function of Table 4.8 by its code. -/
def fn (code : Nat) (x : Word) : N Word :=
  if isNan x then do countNonfinite; return qnan
  else match code with
    | 1 => fnExp x
    | 2 => fnLog x
    | 3 => fnRecip x
    | 4 => fnRsqrt x
    | 5 => fnTanh x
    | 6 => fnSigmoid x
    | 7 => fnSoftplus x
    | 8 => fnSilu x
    | _ => fnGelu x

/-- Codes that Table 4.8 lists. -/
def fnCodeOk (code : Nat) : Bool := decide (1 ≤ code) && decide (code ≤ 9)

/-! The express curves (R144). The segment tables hold what the rule of R144 gives: the chord slope of each segment and its
centred intercept, each rounded once from its exact value; no entry lies within 2^-40 ulp of a tie. -/

/-- (c1, c0) of each segment of the sigmoid. -/
def expressSigmoid : List (Word × Word) :=
  [(0x39C7A9D8, 0x3B5D8B2B), (0x3A002899, 0x3B8A331D), (0x3A248350, 0x3BAC43A1), (0x3A5329BF, 0x3BD684A6),
   (0x3A8781CA, 0x3C056DE7), (0x3AADE443, 0x3C25CC38), (0x3ADF1CAD, 0x3C4DC3F2), (0x3B0F19F5, 0x3C7F0648)] ++
  [(0x3B378436, 0x3C9DCDD5), (0x3B6B432D, 0x3CC2F8B6), (0x3B96BB32, 0x3CF073C9), (0x3BC10875, 0x3D13F76D),
   (0x3BF705D7, 0x3D35AF3B), (0x3C1DE7FC, 0x3D5E7EF4), (0x3C49A233, 0x3D87D301), (0x3C808903, 0x3DA53FE2)] ++
  [(0x3CA38CE2, 0x3DC83BA6), (0x3CCF94AA, 0x3DF178FA), (0x3D034FE8, 0x3E10CB51), (0x3D257637, 0x3E2C833A),
   (0x3D4F6F26, 0x3E4BF57F), (0x3D81334C, 0x3E6EF613), (0x3D9FAC30, 0x3E8A816A), (0x3DC36853, 0x3E9E95F2)] ++
  [(0x3DEC4AD5, 0x3EB30245), (0x3E0CD04A, 0x3EC6D3EA), (0x3E24F6FF, 0x3ED8EEFF), (0x3E3D6780, 0x3EE83638),
   (0x3E547FFF, 0x3EF3C702), (0x3E685291, 0x3EFB3E83), (0x3E76EB21, 0x3EFEF0E2), (0x3E7EACC9, 0x3EFFF7DB)]

/-- (c1, c0) of each segment of SiLU. -/
def expressSilu : List (Word × Word) :=
  [(0xBB2B724B, 0xBCC15A40), (0xBB541493, 0xBCE8B348), (0xBB82F9F5, 0xBD0BB7CB), (0xBBA18361, 0xBD276142),
   (0xBBC6D091, 0xBD480117), (0xBBF4405C, 0xBD6E52F8), (0xBC15B5FD, 0xBD8D908D), (0xBC3715A0, 0xBDA7A01F)] ++
  [(0xBC5F4B1E, 0xBDC5C48B), (0xBC87C096, 0xBDE86715), (0xBCA47DFE, 0xBE07F347), (0xBCC6872D, 0xBE1E467D),
   (0xBCEE8302, 0xBE3740C1), (0xBD0E82D6, 0xBE52DAF3), (0xBD293BB1, 0xBE70E763), (0xBD47773D, 0xBE888199)] ++
  [(0xBD68FC40, 0xBE994293), (0xBD869352, 0xBEAA355E), (0xBD9959CC, 0xBEBAA2C8), (0xBDABBF49, 0xBEC99653),
   (0xBDBC1803, 0xBED5DBF9), (0xBDC7F187, 0xBEDE077A), (0xBDCBE7E3, 0xBEE08BCB), (0xBDC38A12, 0xBEDBE5A6)] ++
  [(0xBDA9624B, 0xBECEE688), (0xBD6E7AFC, 0xBEB911A0), (0xBC9B37E5, 0xBE9B0911), (0x3D1A9006, 0xBE6DCFD9),
   (0x3DE80AC4, 0xBE20BCB0), (0x3E545C18, 0xBDB18791), (0x3EA26F9F, 0xBD02E879), (0x3EE02A67, 0xBAFDAF36)]

/-- (c1, c0) of each segment of softplus. -/
def expressSoftplus : List (Word × Word) :=
  [(0x39C7BD6D, 0x3B5D9FAC), (0x3A0038BD, 0x3B8A4383), (0x3A249DEA, 0x3BAC5DD3), (0x3A535596, 0x3BD6AE74),
   (0x3A87A5EA, 0x3C058F38), (0x3AAE1FC9, 0x3C260141), (0x3ADF7EBE, 0x3C4E1842), (0x3B0F6AB8, 0x3C7F8C1C)] ++
  [(0x3B380932, 0x3C9E37DE), (0x3B6C1E15, 0x3CC3A06A), (0x3B976F47, 0x3CF17C78), (0x3BC23094, 0x3D14C7CF),
   (0x3BF8EC68, 0x3D36F674), (0x3C1F7759, 0x3D607F38), (0x3C4C30F9, 0x3D896290), (0x3C82A0F1, 0x3DA7AC9F)] ++
  [(0x3CA6F875, 0x3DCBFB64), (0x3CD52782, 0x3DF73C80), (0x3D07D6C7, 0x3E153205), (0x3D2CC90C, 0x3E332E54),
   (0x3D5B38C9, 0x3E55F7A4), (0x3D8AA050, 0x3E7DD04A), (0x3DAEA09F, 0x3E9560B9), (0x3DDAE6F2, 0x3EAE3F58)] ++
  [(0x3E086188, 0x3EC9232D), (0x3E28B5EE, 0x3EE561AF), (0x3E4EE9A9, 0x3F00FE32), (0x3E7B37E6, 0x3F0ED088),
   (0x3E96C07C, 0x3F1B5D03), (0x3EB2990C, 0x3F25C943), (0x3ED09D41, 0x3F2D46A8), (0x3EF00A9F, 0x3F313262)]

/-- (c1, c0) of each segment of two to the f. -/
def expressExp2 : List (Word × Word) :=
  [(0x3F3361A6, 0x3F7FFE0F), (0x3F374F34, 0x3F7FDE97), (0x3F3B52C6, 0x3F7F9E53), (0x3F3F6CD9, 0x3F7F3BD6),
   (0x3F439DEA, 0x3F7EB5A8), (0x3F47E67A, 0x3F7E0A46), (0x3F4C470D, 0x3F7D381E), (0x3F50C02A, 0x3F7C3D93)] ++
  [(0x3F55525A, 0x3F7B18FB), (0x3F59FE2A, 0x3F79C89B), (0x3F5EC429, 0x3F784AAE), (0x3F63A4EA, 0x3F769D5F),
   (0x3F68A103, 0x3F74BEC7), (0x3F6DB90D, 0x3F72ACF5), (0x3F72EDA6, 0x3F7065E4), (0x3F783F6D, 0x3F6DE780)] ++
  [(0x3F7DAF05, 0x3F6B2FA5), (0x3F819E8B, 0x3F683C1C), (0x3F847525, 0x3F650A9F), (0x3F875BA9, 0x3F6198D2),
   (0x3F8A526F, 0x3F5DE44B), (0x3F8D59D2, 0x3F59EA88), (0x3F907230, 0x3F55A8F6), (0x3F939BE7, 0x3F511CEC)] ++
  [(0x3F96D75A, 0x3F4C43AF), (0x3F9A24EB, 0x3F471A6A), (0x3F9D84FF, 0x3F419E35), (0x3FA0F800, 0x3F3BCC11),
   (0x3FA47E56, 0x3F35A0E6), (0x3FA8186F, 0x3F2F1986), (0x3FABC6B9, 0x3F2832A7), (0x3FAF89A5, 0x3F20E8E9)]

/-- The tables by number: sigmoid, SiLU, softplus, two to the f. -/
def expressTable (tab j : Nat) : Word × Word :=
  (match tab with
  | 0 => expressSigmoid
  | 1 => expressSilu
  | 2 => expressSoftplus
  | _ => expressExp2).getD j (0, 0)

/-- One line of a segment table: c1 x t + c0, one rounding. -/
def pwlLine (tab j : Nat) (t : Rat) : N Word :=
  let c := expressTable tab j
  rnd (f32val c.1 * t + f32val c.2)

def pwlBase (tab : Nat) (x : Word) : N Word :=
  let t := -ratAbs (f32val x)
  if t < -8 then pure 0 else pwlLine tab (min ((t + 8) * 4).floor.toNat 31) t

def pwlSigmoid (x : Word) : N Word :=
  if isNan x then do countNonfinite; return qnan
  else do
    let b ← pwlBase 0 x
    if f32val x ≤ 0 then return b else fsub f32one b

/-- R144: pwl_silu and pwl_softplus. -/
def pwlSum (tab : Nat) (x : Word) : N Word :=
  if isNan x then do countNonfinite; return qnan
  else do
    let b ← pwlBase tab x
    if f32val x ≤ 0 then return b else fadd x b

def pwlExp (x : Word) : N Word :=
  if isNan x then do countNonfinite; return qnan
  else if f32val x > expHigh then do countOvf; return f32max
  else if f32val x < -104 then pure 0
  else do
    let y ← fmul x 0x3FB8AA3B
    let k := (f32val y).floor
    let f := f32val y - k
    let v ← pwlLine 3 (f * 32).floor.toNat f
    rnd (f32val v * pow2 k)

end Sys2Proof.Machine
end

