-- ==== Sys2Proof/Machine/Operands.lean ====
section
/-! DEFINITION. Operations in flight (R230-R232, R240): their operands in scratchpad and rings (R84, R85, R221-R224,
R227, R280), their outputs, their end (R232) and their halt (R83, R136, R228, R299). -/

namespace Sys2Proof.Machine

/-! Operations of a core. -/

def findOp (k : Core) (id : Nat) : Option Op := k.ops.find? fun o => decide (o.id = id)

def putOp (k : Core) (o : Op) : Core := { k with ops := k.ops.map fun p => if p.id = o.id then o else p }

/-- R240: the operations of a unit, in issue order. -/
def unitOps (k : Core) (u : Nat) : List Op := k.ops.filter fun o => decide (o.unit.toNat = u)

/-- The operation that a unit executes. -/
def headOp (k : Core) (u : Nat) : Option Op := (unitOps k u).head?

def assoc {α : Type} (d : α) (l : List (Nat × α)) (i : Nat) : α := tabGetD d l i

/-! Ranges and footprints (R229, R230). -/

structure Range where
  lo : Nat
  len : Nat
  write : Bool
  deriving DecidableEq, Repr

/-- The range of rows of `len` bytes at a stride, `n` of them. -/
def rowsRange (base stride n len : Nat) (w : Bool) : Range := { lo := base, len := (n - 1) * stride + len, write := w }

/-- A footprint range word (Table 7.5): its entry for an operation. -/
def fpEntry (w : Word) (op : Nat) : SbEntry :=
  { SbEntry.init with line := BitVec.ofNat 12 (fld w 0 12), count := BitVec.ofNat 12 (fld w 12 12), write := bit w 24, op := op, mark := 32 * fld w 0 12 }

def fpEntries (fp : List Word) (op : Nat) : List SbEntry := (fp.filter fun w => bit w 25).map fun w => fpEntry w op

/-- R230: a range lies within one footprint range of its own kind; a write range also covers reads. -/
def rangeCovered (es : List SbEntry) (r : Range) : Bool :=
  decide (r.len = 0) || es.any fun e => (e.write || !r.write) && decide (32 * e.line.toNat ≤ r.lo) &&
    decide (r.lo + r.len ≤ 32 * (e.line.toNat + e.count.toNat + 1))

def rangeOk (k : Core) (es : List SbEntry) (r : Range) : Bool := (decide (r.len = 0) || powered k r.lo r.len) && rangeCovered es r

def linesOverlap (a b : SbEntry) : Bool :=
  decide (a.line.toNat ≤ b.line.toNat + b.count.toNat) && decide (b.line.toNat ≤ a.line.toNat + a.count.toNat)

/-- R230 check 3: a new write range overlaps an in-flight range. -/
def writeConflict (k : Core) (es : List SbEntry) : Bool := es.any fun e => e.write && k.sb.any fun f => linesOverlap e f

/-- The operations that a new footprint waits for. -/
def conflictOps (k : Core) (es : List SbEntry) : List Nat :=
  (k.sb.filter fun f => es.any fun e => e.write && linesOverlap e f).map (·.op)

/-- R231: the write entry of another operation that a read of the operation waits for: it covers a line of the read, at
or above its mark. -/
def blocker (k : Core) (id a n : Nat) : Option SbEntry :=
  if n = 0 then none
  else k.sb.find? fun e => e.write && decide (e.op ≠ id) &&
    decide (max (32 * e.line.toNat) e.mark < a + n) && decide (a < 32 * (e.line.toNat + e.count.toNat + 1))

def opBlocked (k : Core) (id a n : Nat) : Bool := (blocker k id a n).isSome

/-! Ring inputs (R223, R280). -/

def inBytes (o : Op) (r : Nat) : List Byte := assoc [] o.inBuf r

def inTagsOf (o : Op) (r : Nat) : List (Option Half) := ((o.inTags.find? fun e => decide (e.1 = r)).map (·.2.2)).getD []

def inSlot (o : Op) (r : Nat) : Nat := ((o.inTags.find? fun e => decide (e.1 = r)).map (·.2.1)).getD 64

/-- The byte at which a poison slot that the operation has reached begins. -/
def poisonAt (o : Op) (r : Nat) : Option Nat := (inTagsOf o r).findIdx? (·.isNone) |>.map (· * inSlot o r)

/-- The operation takes the committed slots of a ring in ring order, until it holds `need` bytes of it or reaches a
poison slot; a slot taken is read, and its release follows. -/
def pull : Nat → Core → Nat → Nat → Nat → Core
  | 0, k, _, _, _ => k
  | f + 1, k, id, r, need =>
    match findOp k id with
    | none => k
    | some o =>
      let x := getRing k r
      match (filledSlots x).find? fun q => decide (q.state = .committed) with
      | none => k
      | some q =>
        if (inBytes o r).length < need ∧ (poisonAt o r).isNone ∧ x.reader = some id then
          let n := slotBytes x
          let a := slotAddr x q.idx
          let tag := if q.poison then none else some (tagAt k a)
          let o' := { o with
            inBuf := tabPut o.inBuf r (inBytes o r ++ spRead k a n)
            inTags := (o.inTags.filter fun e => decide (e.1 ≠ r)) ++ [(r, n, inTagsOf o r ++ [tag])]
            poison := o.poison || (!q.poison && spPoisoned k a n) }
          pull f (putOp (setRing k r (modSlot x q.idx fun s => { s with state := .read })) o') id r need
        else k

def pullRing (k : Core) (id r need : Nat) : Core := pull (getRing k r).slots.length k id r need

/-! Operands: addressed in scratchpad, or a ring. -/

structure Src where
  ring : Option Nat
  base : Nat
  deriving DecidableEq, Repr

/-- An operand word of Tables 3.2 and 4.11: address, source bit at [17], ring. -/
def srcOf (w : Word) : Src := { ring := if bit w 17 then some (fld w 18 4) else none, base := fld w 0 17 }

/-- What stands in the way of a read: nothing, data yet to come, a line yet to be written, either of them from a transfer
that waits at a fault, a poison slot, or a raw access inside a ring. -/
inductive Ready where
  | ok | wait | blocked | suspended | poisoned | raw (write : Bool) (ring slot addr : Nat)
  deriving DecidableEq, Repr

def Ready.and (a b : Ready) : Ready := match a with | .ok => b | a => a

/-- The first obstacle in a list. -/
def allReady : List Ready → Ready
  | [] => .ok
  | a :: r => a.and (allReady r)

/-- The obstacle halts the operation. -/
def Ready.halts (r : Ready) : Bool := match r with | .poisoned | .raw .. => true | _ => false

/-- R246: of the obstacles in a list, one that halts, else the wait that comes first in the order of the stall causes. -/
def worstReady (scale : Bool) (l : List Ready) : Ready × Nat :=
  match l.find? (·.halts) with
  | some r => (r, 0)
  | none =>
    if l.contains .suspended then (.suspended, 5)
    else if l.contains .wait then (.wait, if scale then 6 else 0)
    else if l.contains .blocked then (.blocked, 2)
    else (.ok, 0)

/-- R246: the stall cause of a wait. -/
def waitCause (r : Ready) : Nat := match r with | .suspended => 5 | .blocked => 2 | _ => 0

/-- R223, R227, R231, R276, R280: the readiness of n bytes at an offset of an operand. -/
def srcReady (k : Core) (o : Op) (s : Src) (off n : Nat) : Ready :=
  match s.ring with
  | some r =>
    match poisonAt o r with
    | some p => if p < off + n then .poisoned else .ok
    | none =>
      if off + n ≤ (inBytes o r).length then .ok
      else match (getRing k r).writer with
        | some w => if opSuspended k w then .suspended else .wait
        | none => .wait
  | none =>
    match blocker k o.id (s.base + off) n with
    | some e => if opSuspended k e.op then .suspended else .blocked
    | none => match rawViolation k false false (s.base + off) n with
      | some v => .raw false v.1 v.2.1 v.2.2
      | none => .ok

/-- R227: an addressed write of n bytes at an offset of an output. -/
def outReady (k : Core) (s : Src) (off n : Nat) : Ready :=
  if s.ring.isSome then .ok
  else match rawViolation k false true (s.base + off) n with
    | some v => .raw true v.1 v.2.1 v.2.2
    | none => .ok

/-- A read of n bytes of scratchpad by address. -/
def spReady (k : Core) (o : Op) (a n : Nat) : Ready := srcReady k o { ring := none, base := a } 0 n

/-- A write of n bytes of scratchpad by address. -/
def spOutReady (k : Core) (a n : Nat) : Ready := outReady k { ring := none, base := a } 0 n

def srcRead (k : Core) (o : Op) (s : Src) (off n : Nat) : List Byte :=
  match s.ring with
  | some r => ((inBytes o r).drop off).take n
  | none => spRead k (s.base + off) n

def srcPoisoned (k : Core) (s : Src) (off n : Nat) : Bool := s.ring.isNone && spPoisoned k (s.base + off) n

/-- The blocks of `bb` bytes, in rows of `rb` bytes, that begin before a byte of an operand. -/
def blocksUpTo (rb bb off : Nat) : Nat := off / rb * ceilDiv rb bb + ceilDiv (off % rb) bb

/-- R85: block `blk` of its row, which begins at byte `off` of a ring-fed operand of rows of `rb` bytes in blocks of `bb`
bytes: the tag of the slot that holds it, plus the number of blocks that begin before it in that slot, must equal its
index. A block that spans two slots is held to the tag of the first (log entry 105). -/
def skewed (o : Op) (s : Src) (rb bb off blk : Nat) : Bool :=
  match s.ring with
  | none => false
  | some r =>
    match (inTagsOf o r).getD (off / inSlot o r) none with
    | some t => decide ((t.toNat + (blocksUpTo rb bb off - blocksUpTo rb bb (off / inSlot o r * inSlot o r))) % 65536 ≠ blk % 65536)
    | none => false

/-! Outputs (R221, R222, R365). -/

/-- A write of the operation to scratchpad, poisoned when it has read poison. -/
def opWrite (k : Core) (o : Op) (a : Nat) (bs : List Byte) : Core := moveMarks (spWrite k a bs o.poison) o.id a bs.length

/-- Bytes appended to the slot being written, cut into slots of the ring's size; `tagf` gives each slot's tag by its
sequence number. -/
def putRing : Nat → Op → Nat → Nat → (Nat → Half) → List Byte → Op
  | 0, o, _, _, _, _ => o
  | f + 1, o, r, sb, tagf, bs =>
    let p := assoc [] o.part r ++ bs
    let q := assoc 0 o.seqs r
    let o := { o with nextTags := tabPut o.nextTags r (tagf q) }
    if sb ≤ p.length then
      putRing f { o with outBuf := o.outBuf ++ [(r, tagf q, p.take sb)], part := tabPut o.part r [], seqs := tabPut o.seqs r (q + 1) }
        r sb tagf (p.drop sb)
    else { o with part := tabPut o.part r p }

def toRing (k : Core) (o : Op) (r : Nat) (tagf : Nat → Half) (bs : List Byte) : Op :=
  putRing (bs.length / 64 + 2) o r (slotBytes (getRing k r)) tagf bs

/-- R222: the tag of any other writer: the slot's sequence number. -/
def seqTag (q : Nat) : Half := BitVec.ofNat 16 q

/-- R84: the tag of slot q of narrow rows of `rb` bytes in blocks of `bb` bytes: its first block's index in the row. -/
def blockTag (sb rb bb q : Nat) : Half :=
  let off := q * sb % rb
  let b := ceilDiv off bb
  BitVec.ofNat 16 (if ceilDiv rb bb ≤ b then 0 else b)

/-- A whole slot of its own: a statistic or a partial. -/
def wholeSlot (o : Op) (r : Nat) (tag : Half) (bs : List Byte) : Op := { o with outBuf := o.outBuf ++ [(r, tag, bs)] }

/-- R221: the slot of a ring that the operation has begun, else the next free one, allocated in a given state. -/
def slotFor (k : Core) (o : Op) (r : Nat) (st : SlotState) (tag : Half) : Option (Core × Op × Nat) :=
  match o.opened.find? fun e => decide (e.1 = r) with
  | some (_, i) =>
    let o := if st = .full then { o with opened := o.opened.filter fun e => decide (e.1 ≠ r) } else o
    some (setRing k r (modSlot (getRing k r) i fun q => { q with state := st, tag := tag }), o, i)
  | none =>
    (allocSlot (getRing k r) { Slot.init with state := st, tag := tag }).map fun (y, i) =>
      (setRing k r y, if st = .allocated then { o with opened := o.opened ++ [(r, i)] } else o, i)

/-- R221: formed slots take their slots in ring order; each is full, and its commit follows. -/
def pushOut : Nat → Core → Nat → Core
  | 0, k, _ => k
  | f + 1, k, id =>
    match findOp k id with
    | none => k
    | some o =>
      match o.outBuf with
      | [] => k
      | (r, tag, bs) :: rest =>
        match slotFor k o r .full tag with
        | none => countStall 1 1 k
        | some (k, o, i) => pushOut f (putOp (spWrite k (slotAddr (getRing k r) i) bs o.poison) { o with outBuf := rest }) id

/-- R221: a slot that has been begun is allocated. -/
def openParts (k : Core) (id : Nat) : Core :=
  match findOp k id with
  | none => k
  | some o =>
    (o.part.filter fun p => decide (p.2 ≠ [])).foldl (fun k p =>
      match findOp k id with
      | none => k
      | some o =>
        if o.opened.any fun e => decide (e.1 = p.1) then k
        else if o.outBuf.any fun e => decide (e.1 = p.1) then k
        else match slotFor k o p.1 .allocated (assoc 0 o.nextTags p.1) with
          | none => countStall 1 1 k
          | some (k, o, _) => putOp k o) k

def pushAll (k : Core) (id : Nat) : Core := openParts (pushOut (((findOp k id).map (·.outBuf.length)).getD 0) k id) id

/-- R221, R222: the slot being written when the operation ends is committed with it, with the tag it was begun with; the
bytes not written are X. -/
def flushParts (c id : Nat) (s : State) : State :=
  match findOp (getCore s c) id with
  | none => s
  | some o => o.part.foldl (fun s p =>
      if p.2 = [] then s
      else
        let k := getCore s c
        let n := slotBytes (getRing k p.1) - p.2.length
        let x := drawBytes s n
        match findOp k id with
        | none => s
        | some o => setCore x.2 c (putOp k { o with
            outBuf := o.outBuf ++ [(p.1, assoc 0 o.nextTags p.1, p.2 ++ x.1)], part := tabPut o.part p.1 [] })) s

/-! The end and the halt of an operation. -/

/-- R224, R232: the operation's entries, rings and id are free. -/
def endOp (k : Core) (id : Nat) : Core :=
  { freeEntries k id with
    ops := k.ops.filter fun o => decide (o.id ≠ id)
    rings := k.rings.map fun x => { x with
      writer := if x.writer = some id then none else x.writer
      reader := if x.reader = some id then none else x.reader } }

/-- R366: an operation that has read poison marks its chunk. -/
def opPoisoned (c : Nat) (o : Op) (s : State) : State :=
  match o.tok with
  | some (n, num, l) => if o.poison then poisonChunk n.toNat num o.unit.toNat l.toNat (BitVec.ofNat 17 c) 0 s else s
  | none => s

/-- R65, R66: conditions that a part of an operation's work met count for its chunk. -/
def opEv (o : Op) (e : Ev) (s : State) : State :=
  match o.tok with
  | some (n, num, l) => chunkEv n.toNat num l.toNat e s
  | none => s

/-- R68: saturations of the operation's i-th quantised tensor. -/
def opTensor (o : Op) (i sat count : Nat) (s : State) : State :=
  match o.tok, o.ords[i]? with
  | some (n, num, l), some ord => addTensor n.toNat num l.toNat ord sat count s
  | _, _ => s

/-- R221: full slots of a ring that wait to be committed are committed, in ring order. -/
def commitFull (c r : Nat) (s : State) : State :=
  let x := getRing (getCore s c) r
  (x.slots.filter fun q => decide (q.state = .full)).foldl (fun s q => commitAt c r q.idx q.tag s) s

/-- The rings that an operation writes. -/
def ringsWritten (k : Core) (id : Nat) : List Nat := (List.range 16).filter fun r => decide ((getRing k r).writer = some id)

/-- The tag that the next slot of a ring would carry, after those formed for it. -/
def haltTag (o : Op) (r : Nat) : Half := assoc 0 o.nextTags r

/-- The slots of a ring that an operation has formed and that no slot was free for. -/
def formedSlots (o : Op) (r : Nat) : List (Half × List Byte × Bool) :=
  (o.outBuf.filter fun e => decide (e.1 = r)).map fun e => (e.2.1, e.2.2, o.poison)

/-- R83, R136, R299: an operation halts: the rings it was writing keep the slots that it had formed and end in a poison
slot, its entries are free, the event is raised and its chunk faults. -/
def haltOp (c : Nat) (o : Op) (ev : State → State) (cause : Nat) (s : State) : State :=
  let s := opPoisoned c o s
  let s := (ringsWritten (getCore s c) o.id).foldl (fun s r => terminateRing c r o.id (formedSlots o r) (haltTag o r) (commitFull c r s)) s
  let s := ev (modCore s c fun k => endOp k o.id)
  match o.tok with
  | some (n, num, _) => faultChunk n.toNat num cause s
  | none => s

/-- The stream and prefix of an event of an operation. -/
def opPrefix (o : Op) : Half × List Word :=
  match o.tok with
  | some (n, num, l) => (BitVec.ofNat 16 n.toNat, evPrefix o.unit.toNat l.toNat num.toNat)
  | none => (noStream, evPrefix o.unit.toNat 0xFF 0)

def raiseOp (c : Nat) (o : Op) (code : Nat) (detail : List Word) (s : State) : State :=
  raise code (opPrefix o).1 (BitVec.ofNat 17 c) ((opPrefix o).2 ++ detail) s

/-- R228: a raw access inside a ring halts the operation. -/
def rawHalt (c : Nat) (o : Op) (write : Bool) (rank ring slot addr : Nat) (s : State) : State :=
  haltOp c o (raiseOp c o (if write then 0x0202 else 0x0203) (ringDetail ring slot rank addr 0x1FFFF)) 0x13 s

/-- R280: the poison slots that an operation has reached are released. -/
def releasePoison (c id : Nat) (s : State) : State :=
  (List.range 16).foldl (fun s r =>
    let x := getRing (getCore s c) r
    if x.reader = some id then
      (x.slots.filter fun q => q.poison && decide (q.state = .read)).foldl (fun s q => releaseAt c r q.idx s) s
    else s) s

/-- R280: a poison slot halts the operation, which first releases it, without an event of its own; its chunk has faulted
with the transfer. -/
def poisonHalt (c : Nat) (o : Op) (s : State) : State := haltOp c o id 0x12 (releasePoison c o.id s)

/-- R83, R136: SCALE_WINDOW or SCALE_SKEW with a saved position. -/
def scaleHalt (c : Nat) (o : Op) (cause : Nat) (pos : Nat) (s : State) : State :=
  haltOp c o (raiseOp c o (if cause = 15 then 0x0105 else 0x0104) (words64 (pos + 2 ^ 56 * cause)))
    (if cause = 15 then 0x11 else 0x10) s

/-- R232: an operation completes once nothing of its output waits; until then it waits for credit, with every access to
its ranges made. -/
def finishOp (c : Nat) (id : Nat) (s : State) : State :=
  let s := flushParts c id s
  let s := modCore s c fun k => pushAll k id
  match findOp (getCore s c) id with
  | none => s
  | some o =>
    if o.outBuf = [] then opPoisoned c o (modCore s c fun k => endOp k id)
    else modCore s c fun k => freeEntries (putOp k { o with ended := true }) id

/-! Issue (R230, R240). -/

/-- R443: the saved position of a rejection at issue, with the cause: of Table 4.9 for the EC, of Table 8.7 for the DMA
engine, and of Table 3.4 for the rest; its fields name no place and hold all ones. -/
def rejectPos (unit cause : Nat) : List Word :=
  if unit = 1 then words64 (0x3FFFFFFFF + 2 ^ 56 * cause)
  else if unit = 4 then [0xFFFFFFFF, 0xFFFFFFFF, BitVec.ofNat 32 (0x7FFFFF + 2 ^ 24 * cause), 0xFFFF]
  else words64 (0xFFFFFFFFFFFF + 2 ^ 50 + 2 ^ 56 * cause)

/-- R81, R119, R174, R260: a rejection at issue raises SCALE_WINDOW, and the chunk faults. -/
def rejectIssue (c unit cause : Nat) (s : State) : State :=
  let s := modCore s c fun k => if unit = 0 then { k with me.producer := none } else k
  let k := getCore s c
  let t := tokenPrefix k unit
  let s := raise 0x0104 t.1 (BitVec.ofNat 17 c) (t.2 ++ rejectPos unit cause) s
  match curToken k with
  | some t => faultChunk t.tok.stream.toNat t.tok.chunk 0x10 s
  | none => s

/-- R240: how many operations a unit's queue holds (R253 for DMA). -/
def queueDepth (unit : Nat) : Nat := if unit = 4 then 4 else if 5 ≤ unit then 1 else 2

/-- What a unit says of a descriptor: its addressed ranges, the rings it reads and writes, the registers it names, the
tensors it quantises, and its own checks, which give the cause of a rejection. -/
structure Plan where
  ranges : List Range
  reads : List Nat
  writes : List Nat
  regs : List Nat
  tensors : Nat
  check : Option Nat
  /-- R231: the ranges that it writes in ascending order. -/
  asc : List Range := []
  /-- R232: the ranges that it uses in its prologues only. -/
  early : List Range := []
  deriving DecidableEq, Repr

/-- The range lies in an entry's lines, in part. -/
def rangeHits (e : SbEntry) (r : Range) : Bool :=
  decide (r.len ≠ 0) && decide (r.lo < 32 * (e.line.toNat + e.count.toNat + 1)) && decide (32 * e.line.toNat < r.lo + r.len)

/-- R231, R232: an entry is written in ascending order when one range of that kind is all that the operation writes in it,
and is free early when only prologues use it. -/
def planEntry (p : Plan) (e : SbEntry) : SbEntry :=
  let all := p.ranges.filter (rangeHits e)
  { e with
    asc := (match all.filter (·.write) with | [r] => p.asc.contains r | _ => false)
    early := !all.isEmpty && all.all fun r => p.early.contains r }

def freeOpId (k : Core) : Option Nat := (List.range 16).find? fun n => (findOp k n).isNone

/-- The operation that an issue would start. -/
def newOp (s : State) (k : Core) (unit id : Nat) (desc pro epi : List Word) : Op :=
  let t := curToken k
  let fmt := (t.bind fun t => (findChunk (getStream s t.tok.stream.toNat) t.tok.chunk).map fun c =>
    (layerOf c t.tok.layer.toNat).format).getD 0
  { Op.init with
    id := id, unit := BitVec.ofNat 3 unit, desc := desc, pro := pro, epi := epi, regs := (getCtx k).regs.toList
    tok := t.map fun t => (t.tok.stream, t.tok.chunk, t.tok.layer)
    ctx := k.cur, express := (t.map (·.tok.express)).getD false, wideFmt := fmt }

/-- R224: a ring already taken in the same role. -/
def ringsTaken (k : Core) (p : Plan) : Bool :=
  p.reads.any (fun r => (getRing k r).reader.isSome) || p.writes.any fun r => (getRing k r).writer.isSome

/-- The operations that hold rings which a new one waits for. -/
def takenOps (k : Core) (p : Plan) : List Nat :=
  p.reads.flatMap (fun r => (getRing k r).reader.toList) ++ p.writes.flatMap fun r => (getRing k r).writer.toList

/-- The operation is accepted. -/
def acceptOp (k : Core) (o : Op) (p : Plan) (es : List SbEntry) : Core :=
  let base := (curToken k).map (·.tensors) |>.getD 0
  let k := { k with
    ops := k.ops ++ [{ o with serial := k.issued + 1, ords := (List.range p.tensors).map (base + ·) }]
    issued := k.issued + 1, computed := k.computed || decide (o.unit < 4)
    sb := k.sb ++ es.map (planEntry p)
    taken := match curToken k with
      | some t => k.taken.map fun u => if u = t then { u with tensors := u.tensors + p.tensors } else u
      | none => k.taken }
  let k := p.reads.foldl (fun k r => setRing k r { getRing k r with reader := some o.id }) k
  p.writes.foldl (fun k r => setRing k r { getRing k r with writer := some o.id }) k

/-- R210: a range word that names lines of an unpowered bank, or beyond the scratchpad. -/
def entryPowered (k : Core) (e : SbEntry) : Bool := powered k (32 * e.line.toNat) (32 * (e.count.toNat + 1))

/-- R230, R240: ISSUE. `size` and `align` are the descriptor's; `takes` says whether the unit accepts a further operation
while its queue has room (R103, R109); `chains` reads the chain descriptors that it names; `plan` is the unit's; `start`
what the unit does when it accepts. -/
def issueUnit (unit size align : Nat) (takes : Core → List Word → Bool)
    (chains : Core → List Word → Option (List Word × List Word))
    (plan : State → Core → Op → Plan) (start : Core → Op → Core)
    (core : CoreId) (rd ra rb : RegId) (s : State) : Out :=
  ccRun core [ra, rb] (fun k s =>
    let c := core.toNat
    let a := (getReg k ra).toNat
    let f := (getReg k rb).toNat
    let reject (cause : Nat) (s : State) : State := rejectIssue c unit cause (setCore s c (nextPc k))
    match freeOpId k with
    | none => setCore s c (stall 2 k)
    | some id =>
      if queueDepth unit ≤ (unitOps k unit).length then setCore s c (stall 2 k)
      else if !(decide (a % align = 0) && powered k a size && decide (f % 16 = 0) && powered k f 16) then reject 3 s
      else
        let desc := wordsOf (size / 4) (spRead k a size)
        let fp := wordsOf 4 (spRead k f 16)
        if !takes k desc then setCore s c (stall 2 k) else
        match chains k desc with
        | none => reject 3 s
        | some (pro, epi) =>
          let o := newOp s k unit id desc pro epi
          let p := plan s k o
          let es := fpEntries fp id
          if p.regs.any fun r => regPending k (BitVec.ofNat 5 r) then setCore s c (stall 2 k)
          else if !(fp.all fun w => decide (fld w 26 6 = 0)) || !(es.all (entryPowered k)) || !(p.ranges.all fun r => rangeOk k es r) then reject 3 s
          else if decide (8 < k.sb.length + es.length) || writeConflict k es then setCore s c (stallOn (conflictOps k es) 2 k)
          else match p.check with
            | some cause => reject cause s
            | none =>
              if ringsTaken k p then setCore s c (stallOn (takenOps k p) 2 k)
              else setCore s c (nextPc (setReg (start (acceptOp k o p es) o) rd (BitVec.ofNat 32 id)))) s

def takesAny (_ : Core) (_ : List Word) : Bool := true

def noChains (_ : Core) (_ : List Word) : Option (List Word × List Word) := some ([], [])

end Sys2Proof.Machine
end

