-- ==== Sys2Proof/Machine/Tokens.lean ====
section
/-! DEFINITION. TAKE and DONE (R242-R245), the completion of a layer for a chunk (R304), its judgement against the
saturation threshold, re-runs and promotions (R67-R74). -/

namespace Sys2Proof.Machine

/-! Eligibility (R242). -/

/-- The bank of the token's epoch is loaded. -/
def bankLoaded (k : Core) (t : Token) : Bool := decide (t.bank = k.bank) || k.otherLoaded

/-- The slot of IN_RING, committed and not yet released, whose tag is the stream number: one that no token has taken
comes first. -/
def inputSlot (k : Core) (r : Nat) (t : Token) : Option Nat :=
  let mine := (filledSlots (getRing k r)).filter fun q => decide (q.state ≠ .released) &&
    decide ((tagAt k (slotAddr (getRing k r) q.idx)).toNat = t.stream.toNat)
  ((mine.find? fun q => decide (q.state = .committed)).orElse fun _ => mine.head?).map (·.idx)

/-- IN_RING of the token's group, none when it has none or the token is a re-run, whose input was taken before. -/
def inRingOf (s : State) (k : Core) (t : Token) : Option Nat :=
  if t.rerun then none
  else (coreGroup s k t.bank).bind fun g => if g.inRing.toNat < 16 then some g.inRing.toNat else none

def inputReady (s : State) (k : Core) (t : Token) : Bool :=
  match inRingOf s k t with
  | none => true
  | some r => (inputSlot k r t).isSome

/-- The operations that write the slots which held tokens wait for. -/
def inputWriters (s : State) (k : Core) : List Nat :=
  (k.tokens.filter fun t => !inputReady s k t).flatMap fun t => ((inRingOf s k t).bind fun r => (getRing k r).writer).toList

/-- Each output ring has a free unallocated slot, or a forward credit. -/
def outputReady (s : State) (k : Core) (t : Token) : Bool :=
  match coreGroup s k t.bank with
  | none => true
  | some g => g.outRings.all fun r => decide (16 ≤ r.toNat) ||
      (let x := getRing k r.toNat; if x.fwd then decide (0 < x.credits.toNat) else (nextFree x).isSome)

/-- R23: the group has finished every earlier chunk of the stream (log entry 94). -/
def inOrder (s : State) (t : Token) : Bool :=
  (getStream s t.stream.toNat).d.chunks.all fun c =>
    decide (t.chunk.toNat ≤ c.num.toNat) || !c.released || c.faulted.isSome || c.stopped || (layerOf c t.layer.toNat).complete

def eligible (s : State) (k : Core) (t : Token) : Bool :=
  bankLoaded k t && inputReady s k t && outputReady s k t && inOrder s t

/-- R26: the earlier D, then the lower stream number. -/
def tokenBefore (a b : Token) : Bool :=
  decide (a.deadline.toNat < b.deadline.toNat) || decide (a.deadline = b.deadline ∧ a.stream.toNat < b.stream.toNat)

def bestToken : List Token → Option Token
  | [] => none
  | t :: r => match bestToken r with
    | none => some t
    | some u => if tokenBefore u t then some u else some t

/-- Table 7.10. -/
def tokenWords (t : Token) (slot : Option Nat) : List Word :=
  [BitVec.ofNat 32 (t.stream.toNat + 2 ^ 12 * t.bank.toNat + 2 ^ 13 * b2n t.express + 2 ^ 14 * b2n t.initEntry + 2 ^ 15 * b2n t.final),
   t.chunk.truncate 32, t.deadline.truncate 32, t.frames.zeroExtend 32,
   match slot with
   | some a => BitVec.ofNat 32 (a + 2 ^ 31)
   | none => 0]

def setRegs (k : Core) (rd : Nat) : List Word → Core
  | [] => k
  | w :: r => setRegs (setReg k (BitVec.ofNat 5 rd) w) (rd + 1) r

/-- R243: the most tokens that are taken and not done, in all and by a context of COMPAT mode (R248). -/
def takeFull (k : Core) : Bool :=
  decide (4 ≤ k.taken.length) || (k.compat && decide (2 ≤ (k.taken.filter fun t => decide (t.ctx = k.cur)).length))

/-- R209: every powered bank is usable, filled and preloaded. -/
def banksReady (k : Core) : Bool := decide (k.usable = k.pwr) && decide (k.zeroing = 0) && k.preloadFrom.isNone

/-- R242-R244: the token is taken. -/
def takeToken (c : Nat) (rd : RegId) (t : Token) (k : Core) (s : State) : State :=
  let found := (inRingOf s k t).bind fun r => (inputSlot k r t).map fun i => (r, i)
  let addr := found.map fun p => slotAddr (getRing k p.1) p.2
  let k := match found with
    | some (r, i) => setRing k r (modSlot (getRing k r) i fun q => { q with state := .read })
    | none => k
  let k := { k with
    tokens := k.tokens.erase t
    taken := k.taken ++ [{ Taken.init with tok := t, ctx := k.cur, slot := found.map (·.2), takenAt := s.clk.time }] }
  let k := setRegs (nextPc k) rd.toNat (tokenWords t addr)
  setCore s c (leaveOld s (if t.bank = k.bank then k else setPc { k with bank := t.bank } 0))

/-- R242: TAKE waits while no held token is eligible, and counts why. -/
def execTake (core : CoreId) (rd : RegId) (s : State) : Out :=
  ccRun core [] (fun k s =>
    let c := core.toNat
    if 27 < rd.toNat || takeFull k then ccFault c 0x26 (setCore s c k)
    else if !banksReady k || k.tokens.isEmpty then setCore s c { k with waitingFree := true }
    else match bestToken (k.tokens.filter (eligible s k)) with
      | some t => takeToken c rd t k s
      | none =>
        if k.tokens.any fun t => !bankLoaded k t && inputReady s k t && outputReady s k t then setCore s c (stall 7 k)
        else if k.tokens.any fun t => !inputReady s k t then
          setCore s c (if (inputWriters s k).any (opSuspended k) then stall 5 k else waitInput k)
        else setCore s c (stall 1 k)) s

/-! The judgement of a layer (R67-R72). -/

/-- R68: the first tensor over the threshold. -/
def overTensor (ratio : Nat) (w : LayerWork) : Option (Nat × Nat) :=
  if ratio = 0 then none
  else (w.tensors.find? fun e => decide (ratio * e.2.2 < e.2.1 * 65536)).map (·.2)

/-- R69, R72: the next wider format: as built I4 to I8, I8 to F16; none where the layer holds neither. -/
def widerFormat (f : BitVec 2) (isI4 isI8 : Bool) : Option (BitVec 2) :=
  if f = 0 then (if isI4 then some 1 else if isI8 then some 2 else none) else if f = 1 then some 2 else none

/-- R72, R318: a promotion applies from the next chunk on, and has a calibration record at the end of the window. -/
def promote (n layer : Nat) (num : DWord) (f : BitVec 2) (s : State) : State :=
  let r := (getStream s n).r
  modStream { s with thm.calibrate := s.thm.calibrate ++ [(r.ownerTag, r.model, layer, n, num)] } n fun x => { x with
    c.promote := satAdd x.c.promote 1
    d.undoWide := x.d.undoWide ++ [(layer, num, tabGetD 0 x.d.formats layer, tabGetD [] x.d.reruns layer)]
    d.formats := tabPut x.d.formats layer f
    d.reruns := tabDel x.d.reruns layer
    d.promotions := x.d.promotions ++ [(layer, num, f)]
    d.chunks := x.d.chunks.map fun c => if num.toNat < c.num.toNat
      then { c with layers := upd c.layers layer fun w => { w with format := f } } else c }

/-- R72: re-run on chunk k, and on at least 3 other chunks numbered k - 63 to k - 1. -/
def noteRerun (n layer : Nat) (num : DWord) (isI4 isI8 : Bool) (s : State) : State :=
  let x := getStream s n
  let old := tabGetD [] x.d.reruns layer
  let recent := old.filter fun j => decide (j.toNat < num.toNat) && decide (num.toNat ≤ j.toNat + 63)
  let s := setStream s n { x with d.reruns := tabPut x.d.reruns layer (recent ++ [num]) }
  if 3 ≤ recent.length then
    match widerFormat (tabGetD 0 x.d.formats layer) isI4 isI8 with
    | some f => promote n layer num f s
    | none => s
  else s

/-- R22, R200: the cores that work on a layer of a chunk: its group's and its bucket's. -/
def layerCores (g : ImgGroup) (w : LayerWork) : List Nat := groupCores g ++ w.shards

/-- R242: none of the cores holds 256 tokens. -/
def roomFor (s : State) (cs : List Nat) : Bool := cs.all fun c => decide ((getCore s c).tokens.length < 256)

def giveToken (t : Token) (cs : List Nat) (s : State) : State :=
  cs.foldl (fun s c => modCore s c fun k => wake { k with tokens := k.tokens ++ [t] }) s

/-- The format that the layer had when a chunk began it: before a promotion that the chunk itself made, else now. -/
def formatAt (x : Stream) (layer : Nat) (num : DWord) : BitVec 2 :=
  match x.d.undoWide.find? fun e => decide (e.1 = layer ∧ e.2.1 = num) with
  | some e => e.2.2.1
  | none => tabGetD 0 x.d.formats layer

/-- R69, R304: the layer is complete for the chunk, and its state write is committed; WIDE is set when it ran in a promoted
format (Table 2.9); a section that waits to move follows (R167). -/
def completeLayer (n layer : Nat) (num : DWord) (s : State) : State :=
  let wide := decide (formatAt (getStream s n) layer num ≠ 0)
  let writes := ((findChunk (getStream s n) num).map fun c => (layerOf c layer).stateWrites).getD []
  let s := writes.foldl (fun s w => (vwrite s w.1 w.2.1 w.2.2).1) s
  let s := modLayer s n num layer fun w => { w with complete := true, stateWrites := [] }
  settleMove n (modChunk s n num fun c => if wide then { c with nflags := c.nflags ||| flagWide } else c)

def satEvent (n layer : Nat) (num : DWord) (past : Nat × Nat) (s : State) : State :=
  raiseStream 0x0101 n (evPrefix 8 layer num.toNat ++ [BitVec.ofNat 32 past.1, BitVec.ofNat 32 past.2]) s

/-- R69: the layer is re-run in format f, with the token that its cores were given. -/
def rerunLayer (n layer : Nat) (num : DWord) (f : BitVec 2) (cs : List Nat) (w : LayerWork) (s : State) : State :=
  let s := modStream s n fun x => { x with r.rerunCount := satAdd x.r.rerunCount 1 }
  let s := modChunk s n num fun c => { c with nflags := c.nflags ||| flagRerun }
  let s := modLayer s n num layer fun w => { w with rerun := true, done := [], tensors := [], format := f, stateWrites := [] }
  let s := raiseStream 0x0102 n (evPrefix 8 layer num.toNat ++ [f.zeroExtend 32]) s
  giveToken { w.tok with rerun := true } cs (noteRerun n layer num w.isI4 w.isI8 s)

/-- R300: the chunk will be discarded, and is not judged (R72). -/
def behindFault (x : Stream) (num : DWord) : Bool :=
  match x.d.faultAt with
  | some f => decide (f.toNat < num.toNat)
  | none => false

/-- R69-R74, R397: a layer that its group has done with is judged: complete, re-run, or complete with SAT_EVENT. A
re-run waits while a core of the group holds 256 tokens (R242). -/
def judgeLayer (n layer : Nat) (c : Chunk) (g : ImgGroup) (s : State) : State :=
  let x := getStream s n
  let w := layerOf c layer
  match (if behindFault x c.num then none else overTensor c.ratio.toNat w) with
  | none => completeLayer n layer c.num s
  | some past =>
    let masters := ((chunkTemplate s x c).bind (·.masters)).isSome
    let again := !w.rerun && masters && c.service && decide (s.hub.phase ≠ .recovery)
    match (if again then widerFormat w.format w.isI4 w.isI8 else none) with
    | some f => if roomFor s (layerCores g w) then rerunLayer n layer c.num f (layerCores g w) w s else s
    | none => completeLayer n layer c.num (satEvent n layer c.num past s)

/-! The completion of a layer (R23, R24, R304). -/

/-- R24: a DMA operation that writes to DRAM or host memory for a layer of a chunk is in flight. -/
def stateWriting (s : State) (n layer : Nat) (num : DWord) (cs : List Nat) : Bool :=
  cs.any fun c => (getCore s c).ops.any fun o =>
    decide (o.unit = 4 ∧ fld (nth o.desc 12) 0 4 = 0 ∧ o.tok = some (BitVec.ofNat 12 n, num, BitVec.ofNat 8 layer))

/-- R23, R24, R304: the layer is judged once every core of its group has executed DONE and no state write is in flight. -/
def settleLayer (n layer : Nat) (num : DWord) (s : State) : State :=
  let x := getStream s n
  match findChunk x num with
  | none => s
  | some c =>
    let w := layerOf c layer
    if !c.released || w.complete || c.faulted.isSome then s
    else match chunkGroup s x c layer with
      | some g =>
        if g.coreCount ≤ w.done.length && !stateWriting s n layer num (layerCores g w) then judgeLayer n layer c g s else s
      | none => s

/-- Every layer of every chunk of a stream. -/
def settleStream (n : Nat) (s : State) : State :=
  (getStream s n).d.chunks.foldl (fun s c => (List.range c.layers.length).foldl (fun s l => settleLayer n l c.num s) s) s

def settleStreams (s : State) : State := (s.streams.map (·.1)).foldl (fun s n => settleStream n s) s

/-! DONE (R243, R245, R304). -/

/-- R313: the core's time on the chunk, as shared among the tokens that it held (log entry 13). -/
def measureW (t : Taken) (s : State) : State :=
  let m := (getStream s t.tok.stream.toNat).r.model
  let g := t.tok.layer.toNat
  let old := ((s.thm.wCur.find? fun e => decide (e.1 = m ∧ e.2.1 = g)).map (·.2.2)).getD 0
  { s with thm.wCur := (s.thm.wCur.filter fun e => decide (¬ (e.1 = m ∧ e.2.1 = g))) ++ [(m, g, max old (t.share / 3840))] }

/-- R304: DONE counts for the chunk when the core is one of the layer's group; a shard core's does not (log entry 20). -/
def noteDone (c : Nat) (t : Token) (s : State) : State :=
  let n := t.stream.toNat
  let l := t.layer.toNat
  let x := getStream s n
  match (findChunk x t.chunk).bind fun ch => chunkGroup s x ch l with
  | some g => if c ∈ groupCores g then modLayer s n t.chunk l fun w => { w with done := ins (c - g.coreFirst) w.done } else s
  | none => s

/-- R243: the taken token is done on this core. -/
def doneToken (c : Nat) (t : Taken) (s : State) : State :=
  let k := getCore s c
  let s := measureW t s
  let s := setCore s c (leaveOld s { k with taken := k.taken.erase t, doneCount := k.doneCount + 1 })
  let n := t.tok.stream.toNat
  settleStopped n (settleLayer n t.tok.layer.toNat t.tok.chunk (noteDone c t.tok s))

def execDone (core : CoreId) (ra : RegId) (s : State) : Out :=
  ccRun core [ra] (fun k s =>
    let c := core.toNat
    match k.taken.find? fun t => decide (t.tok.stream.toNat = (getReg k ra).toNat) with
    | none => ccFault c 0x27 (setCore s c k)
    | some t => doneToken c t (setCore s c (nextPc k))) s

end Sys2Proof.Machine
end

