-- ==== Sys2Proof/Machine/MatrixEngine.lean ====
section
/-! DEFINITION. The matrix engine (chapter 3): descriptor, checks at issue, tiles, prologue, epilogue, the chain buffer,
and the halt. Products are exact integers in units of 2^-48 (R47-R54). -/

namespace Sys2Proof.Machine

/-! The descriptor (Table 3.2). -/

def meMode (d : List Word) : Nat := fld (nth d 0) 0 4
def meBank (d : List Word) : Nat := fld (nth d 0) 4 1
def meInit (d : List Word) : Nat := fld (nth d 0) 5 2
def meExact (d : List Word) : Bool := bit (nth d 0) 7
def mePro (d : List Word) : Bool := bit (nth d 0) 8
def meEpi (d : List Word) : Bool := bit (nth d 0) 9 && !meExact d
def meChain (d : List Word) : Bool := bit (nth d 0) 10
def meWaitStat (d : List Word) : Bool := bit (nth d 0) 11
def meK (d : List Word) : Nat := fld (nth d 1) 0 25
def meM (d : List Word) : Nat := fld (nth d 2) 0 16
def meN (d : List Word) : Nat := fld (nth d 2) 16 16
def meASrc (d : List Word) : Nat := fld (nth d 3) 17 2
def meBlocks (d : List Word) : Nat := ceilDiv (meK d) 32

/-- A at a ring or an address; a chain-buffer operand has neither. -/
def meA (d : List Word) : Src := { ring := if meASrc d = 1 then some (fld (nth d 3) 19 4) else none, base := fld (nth d 3) 0 17 }
def meW (d : List Word) : Src := srcOf (nth d 5)
def meSA (d : List Word) : Src := srcOf (nth d 7)
def meSW (d : List Word) : Src := srcOf (nth d 8)
def meOut (d : List Word) : Src := srcOf (nth d 10)
def meAStride (d : List Word) : Nat := fld (nth d 4) 0 17
def meWStride (d : List Word) : Nat := fld (nth d 6) 0 17
def mePre (d : List Word) : Nat := fld (nth d 9) 0 17
def meOutStride (d : List Word) : Nat := fld (nth d 11) 0 17

/-- Bytes of n codes of I8, I4, F16, I16. -/
def codeBytes (fmt n : Nat) : Nat := match fmt with | 0 => n | 1 => (n + 1) / 2 | _ => 2 * n

/-- The A and W formats of a mode (Table 3.1): 0 I8, 1 I4, 2 F16, 3 I16. -/
def meAFmt (d : List Word) : Nat := match meMode d with | 1 => 1 | 3 => 2 | 4 => 3 | _ => 0
def meWFmt (d : List Word) : Nat := match meMode d with | 1 => 1 | 2 => 1 | 3 => 2 | _ => 0

/-- Bytes of a stored row of A (R96: F32 before a prologue) and of a column of W. -/
def meARow (d : List Word) : Nat := if mePro d then 4 * meK d else codeBytes (meAFmt d) (meK d)
def meWCol (d : List Word) : Nat := codeBytes (meWFmt d) (meK d)

/-- R77: tiles. -/
def meColTiles (d : List Word) : Nat := ceilDiv (meN d) 8
def meRowTiles (d : List Word) : Nat := ceilDiv (meM d) 8
def meTiles (d : List Word) : Nat := meRowTiles d * meColTiles d
def meRows (d : List Word) (t : Nat) : List Nat := (List.range (min 8 (meM d - 8 * t))).map (8 * t + ·)
def meCols (d : List Word) (j : Nat) : List Nat := (List.range (min 8 (meN d - 8 * j))).map (8 * j + ·)

/-! Chain descriptors (Tables 3.7 and 3.8). -/

def kindOf (w : Word) : Nat := fld w 0 4
def subOf (w : Word) : Nat := fld w 4 4
def stageAddr (w : Word) : Nat := fld w 8 17

/-- R94: the stages up to the first word whose KIND is 0. -/
def stages (ch : List Word) : List Word := (ch.take 4).takeWhile fun w => decide (kindOf w ≠ 0)

def statN (ch : List Word) : Nat := fld (nth ch 5) 0 25
def statCount (ch : List Word) : Nat := fld (nth ch 6) 0 16
def statRing (ch : List Word) : Nat := fld (nth ch 6) 16 4
def statAddr (ch : List Word) : Nat := fld (nth ch 7) 0 17

def lastStage (ch : List Word) : Option Word := (stages ch).getLast?

/-- The format that a chain's last stage writes: 0 I8, 1 I4, 2 F16; none for F32. -/
def chainFmt (ch : List Word) : Option Nat := (lastStage ch).bind fun w => if kindOf w = 7 ∨ kindOf w = 8 then some (subOf w) else none

/-- ROWNORM opens the chain; RED stands in it. -/
def rowNorm (ch : List Word) : Option Word := (stages ch).head?.bind fun w => if kindOf w = 5 then some w else none
/-- R99: what the statistic of a row tile is for: ROWNORM, or the wait alone, whose record then holds S2 (log entry 26). -/
def statStage (d pro : List Word) : Option Word :=
  if !mePro d then none else (rowNorm pro).orElse fun _ => if meWaitStat d then some 5 else none
/-- R95: the RED stage of a chain; of two, the first says what is summed, and the values are the last's (log entry 108). -/
def redStage (ch : List Word) : Option Word := (stages ch).find? fun w => decide (kindOf w = 6)

/-- Table 3.8: a stage where it may stand. -/
def stageOk (epi : Bool) (first last : Bool) (w : Word) : Bool :=
  decide (fld w 25 7 = 0) &&
  match kindOf w with
  | 1 | 2 => decide (subOf w ≤ 1)
  | 3 => fnCodeOk (subOf w)
  | 4 => epi && decide (subOf w = 0)
  | 5 => !epi && first && decide (subOf w ≤ 1)
  | 6 => epi && decide (subOf w ≤ 1)
  | 7 => last && decide (subOf w ≤ 2)
  | 8 => epi && last && decide (subOf w = 2)
  | _ => false

def chainOk (epi : Bool) (ch : List Word) : Bool :=
  let l := stages ch
  ((List.range l.length).all fun i => stageOk epi (decide (i = 0)) (decide (i + 1 = l.length)) (nth l i)) &&
  decide (fld (nth ch 6) 20 12 = 0)

/-! Checks at issue (R81, R95, R101, R210). -/

def aligned32 (a : Nat) : Bool := decide (a % 32 = 0)

/-- Cause 3, ENCODING. Bits that Table 3.2 does not list, and reserved bits of stage words, are not looked at (log entry 106). -/
def meEncoding (d pro epi : List Word) : Bool :=
  decide (4 < meMode d) || decide (meASrc d = 3) ||
  decide (fld (nth d 0) 12 20 ≠ 0) || decide (fld (nth d 1) 25 7 ≠ 0) || decide (fld (nth d 3) 23 9 ≠ 0) ||
  decide (nth d 14 ≠ 0) || decide (nth d 15 ≠ 0) ||
  decide (meK d = 0) || decide (meM d = 0) || decide (meN d = 0) ||
  !([fld (nth d 3) 0 17, fld (nth d 5) 0 17, mePre d, fld (nth d 10) 0 17, fld (nth d 12) 0 17, fld (nth d 13) 0 17].all aligned32) ||
  (decide (meMode d ≠ 3) && !([fld (nth d 7) 0 17, fld (nth d 8) 0 17].all aligned32)) ||
  (meEpi d && !chainOk true epi) ||
  (mePro d && (!chainOk false pro || decide (meMode d = 4) || decide (chainFmt pro ≠ some (meAFmt d))))

/-- R101: the widest product that the chain buffer takes. -/
def chainLimit (fmt : Nat) : Nat := match fmt with | 0 => 2048 | 1 => 4096 | _ => 1024

/-- Cause 4, CHAIN. -/
def meChainBroken (k : Core) (d epi : List Word) : Bool :=
  (match k.me.producer with
    | none => decide (meASrc d = 2)
    | some (pd, pe) => decide (meASrc d ≠ 2) || decide (chainFmt pe ≠ some (meAFmt d)) || decide (meK d ≠ meN pd) || decide (meM d ≠ meM pd)) ||
  (meChain d && (!meEpi d || match chainFmt epi with | none => true | some f => decide (chainLimit f < meN d)))

/-- Cause 1, K_LIMIT. -/
def meKLimit (d : List Word) : Bool :=
  match meMode d with
  | 3 => decide (16777216 < meK d)
  | 4 => decide (1048576 < 2 * meK d)
  | _ => decide (1048576 < meK d)

def statBytes (w : Word) (rows : Nat) : Nat := rows * (if subOf w = 0 then 24 else 48)

/-- The vectors that the stages of a chain read, of rows of n values. -/
def stageRanges (ch : List Word) (rows n : Nat) : List Range :=
  (stages ch).filterMap fun w =>
    match kindOf w with
    | 1 | 2 => if subOf w = 0 then some { lo := stageAddr w, len := 4 * n, write := false } else none
    | 4 => some { lo := stageAddr w, len := 4 * rows * n, write := false }
    | 5 => some { lo := stageAddr w, len := if subOf w = 0 then 4 * statN ch else 8 * statN ch, write := false }
    | 7 => if subOf w < 2 then some { lo := stageAddr w, len := rows * ceilDiv n 32, write := true } else none
    | _ => none

/-- The scalar registers that a chain names. -/
def stageRegs (ch : List Word) : List Nat :=
  (stages ch).filterMap fun w => if (kindOf w = 1 ∨ kindOf w = 2) ∧ subOf w = 1 then some (fld w 8 5) else none

def addressed (s : Src) (r : Range) : List Range := if s.ring.isNone then [r] else []

def outFmtBytes (d epi : List Word) (n : Nat) : Nat :=
  if meExact d then 16 * n else match (if meEpi d then chainFmt epi else none) with
    | some f => codeBytes f n
    | none => 4 * n

/-- The addressed range of the output. -/
def meOutRange (o : Op) : List Range :=
  let d := o.desc
  if meChain d then [] else addressed (meOut d) (rowsRange (meOut d).base (meOutStride d) (meM d) (outFmtBytes d o.epi (meN d)) true)

/-- The ranges that only prologues use: the stored rows, the chain's vectors and scales, the statistic record. -/
def meProRanges (o : Op) : List Range :=
  let d := o.desc
  if !mePro d then [] else
    (if meASrc d = 0 then [rowsRange (meA d).base (meAStride d) (meM d) (meARow d) false] else []) ++
    stageRanges o.pro (meM d) (meK d) ++
    (match statStage d o.pro with
      | some w => [{ lo := statAddr o.pro, len := statBytes w (min 8 (meM d)), write := meWaitStat d }]
      | none => [])

/-- R231: the ranges whose writes ascend: an output of one column tile or one row, scales of one block a row or one row,
and a prologue's scales. -/
def meAscending (o : Op) : List Range :=
  let d := o.desc
  (if (decide (meColTiles d = 1) && decide (outFmtBytes d o.epi (meN d) ≤ meOutStride d)) || decide (meM d = 1) then meOutRange o else []) ++
  (if meEpi d && (decide (meN d ≤ 32) || decide (meM d = 1)) then (stageRanges o.epi (meM d) (meN d)).filter (·.write) else []) ++
  (if mePro d then (stageRanges o.pro (meM d) (meK d)).filter (·.write) else [])

def mePlan (_s : State) (k : Core) (o : Op) : Plan :=
  let d := o.desc
  let m := meM d
  let n := meN d
  let nb := meBlocks d
  let tileRows := min 8 m
  let norm := statStage d o.pro
  let red := if meEpi d then redStage o.epi else none
  { ranges :=
      (if meASrc d = 0 && !mePro d then [rowsRange (meA d).base (meAStride d) m (meARow d) false] else []) ++
      addressed (meW d) (rowsRange (meW d).base (meWStride d) n (meWCol d) false) ++
      (if meMode d = 3 then [] else
        (if mePro d || decide (meASrc d = 2) then [] else addressed (meSA d) { lo := (meSA d).base, len := m * nb, write := false }) ++
        addressed (meSW d) { lo := (meSW d).base, len := n * nb, write := false }) ++
      (if 2 ≤ meInit d then [{ lo := mePre d, len := 16 * tileRows * min 8 n, write := false }] else []) ++
      meOutRange o ++ meProRanges o ++
      (if meEpi d then (stageRanges o.epi m n).filter (fun r => !(r.write && meChain d)) else [])
    reads := (if meASrc d = 1 then (meA d).ring.toList else []) ++ (meW d).ring.toList ++
      (if meMode d = 3 then [] else (if mePro d || decide (meASrc d = 2) then [] else (meSA d).ring.toList) ++ (meSW d).ring.toList) ++
      (if norm.isSome && meWaitStat d then [statRing o.pro] else [])
    writes := (if meChain d then [] else (meOut d).ring.toList) ++ (if red.isSome then [statRing o.epi] else [])
    regs := (if mePro d then stageRegs o.pro else []) ++ (if meEpi d then stageRegs o.epi else [])
    tensors := (if mePro d then 1 else 0) + (if meEpi d && (chainFmt o.epi).isSome then 1 else 0)
    check := if meEncoding d o.pro o.epi then some 3 else if meChainBroken k d o.epi then some 4
      else if meKLimit d then some 1 else none
    asc := meAscending o
    early := meProRanges o }

/-- R94: the chain descriptors are read at issue; one that is misaligned or unpowered fails with ENCODING. -/
def meChains (k : Core) (d : List Word) : Option (List Word × List Word) :=
  let get (on : Bool) (a : Nat) : Option (List Word) :=
    if !on then some [] else if aligned32 a && powered k a 32 then some (wordsOf 8 (spRead k a 32)) else none
  (get (mePro d) (fld (nth d 12) 0 17)).bind fun p => (get (meEpi d) (fld (nth d 13) 0 17)).map fun e => (p, e)

/-- R103: the ME takes its next operation once the one before has begun the K-steps of its last tile; a consumer joins
its producer at once (R102). -/
def meTakes (k : Core) (d : List Word) : Bool :=
  (decide (meASrc d = 2) && k.me.producer.isSome) ||
    (unitOps k 0).all fun o => decide (meTiles o.desc ≤ o.pos + 1)

/-- R101: the operation joins the pair of the producer before it, and begins one of its own when it is a producer. -/
def startMe (k : Core) (o : Op) : Core :=
  let d := o.desc
  let n := k.me.chainNum
  let k := match findOp k o.id with
    | some p => putOp k { p with chainIn := if meASrc d = 2 then n else 0, chainOut := if meChain d then n + 1 else 0 }
    | none => k
  if meChain d then { k with
    me.producer := some (d, o.epi), me.chainNum := n + 1
    me.chainRows := k.me.chainRows.filter fun e => decide (65536 * n ≤ e.1)
    me.chainScales := k.me.chainScales.filter fun e => decide (65536 * n ≤ e.1) }
  else { k with me.producer := none }

def execIssueMe (core : CoreId) (rd ra rb : RegId) (s : State) : Out :=
  issueUnit 0 64 32 meTakes meChains mePlan startMe core rd ra rb s

/-! Operand rows. -/

/-- Codes of a row of A or a column of W, its block scales, and, of F16 elements, which have the sign set and whether one
is a NaN. F16 values are in units of 2^-24. -/
structure RowData where
  codes : List Int
  scales : List Nat
  negs : List Bool
  nan : Bool
  deriving DecidableEq, Repr

def halfAt (bs : List Byte) (i : Nat) : Half := BitVec.ofNat 16 (natAt bs (2 * i) 2)

def codesOf (fmt n : Nat) (bs : List Byte) : List Int :=
  (List.range n).map fun i =>
    match fmt with
    | 0 => code 8 (bs.getD i 0).toNat
    | 1 => code 4 (nibble bs i)
    | 2 => (f16val (halfAt bs i) * pow2 24).num
    | _ => code 16 (halfAt bs i).toNat

def rowData (fmt n : Nat) (bs sc : List Byte) : RowData :=
  { codes := codesOf fmt n bs, scales := sc.map (·.toNat)
    negs := if fmt = 2 then (List.range n).map fun i => (halfAt bs i).getLsbD 15 else []
    nan := decide (fmt = 2) && (List.range n).any fun i => f16nan (halfAt bs i) }

/-! One block of a cell (R49, R50, R82, R92, R93). -/

/-- E_b of a pass: MODE 4's first pass takes the activation scale plus 8. -/
def blockE (mode pass ea ew : Nat) : Int := ((ea + (if mode = 4 ∧ pass = 0 then 8 else 0) + ew : Nat) : Int) - 254

def blockAdds (ea ew : Nat) : Bool := decide (ea ≠ 0) && decide (ew ≠ 0)

def exponentBad (mode pass ea ew : Nat) : Bool :=
  blockAdds ea ew && (decide (blockE mode pass ea ew < -48) || decide (29 < blockE mode pass ea ew) ||
    (decide (mode = 4) && decide (pass = 0) && decide (254 < ea + 8)))

def dot : List Int → List Int → Int
  | a :: r, w :: t => a * w + dot r t
  | _, _ => 0

/-- The sum over K blocks of P_b x 2^(E_b), in units of 2^-48 (R92: an I16 code is 256 h + l + 128). -/
def blocksSum : List Nat → List Nat → List Int → List Int → Int
  | ea :: ra, ew :: rw, a, w =>
    (if blockAdds ea ew then dot (a.take 32) (w.take 32) * 2 ^ (ea + ew - 206) else 0) + blocksSum ra rw (a.drop 32) (w.drop 32)
  | _, _, _, _ => 0

/-- R49, R51: the exact sum of one output. -/
def cellSum (mode : Nat) (a w : RowData) : Int := if mode = 3 then dot a.codes w.codes else blocksSum a.scales w.scales a.codes w.codes

/-- R38: every product of two F16 rows is -0. -/
def allNegZero : List Int → List Bool → List Int → List Bool → Bool
  | a :: ra, s :: rs, w :: rw, t :: rt => decide (a * w = 0) && xor s t && allNegZero ra rs rw rt
  | _, _, _, _ => true

/-! Where the operation stands. -/

def meDone (o : Op) : Bool := decide (meTiles o.desc ≤ o.pos)

/-- Row tiles that the operation has computed. -/
def rowsDone (o : Op) : Nat := o.pos / max 1 (meColTiles o.desc)

/-- R102: the operation may compute its next tile beside the one before it and the one after it in the queue: a consumer
stays behind its producer, and a producer that is not itself a consumer waits for its consumer row tile by row tile, also
while the consumer may still be issued (log entry 83). -/
def meMayRun (k : Core) (prev : Option Op) (o : Op) (next : Option Op) : Bool :=
  !meDone o &&
  (match prev with
    | some p => if o.chainIn ≠ 0 ∧ p.chainOut = o.chainIn then decide (rowsDone o < rowsDone p) else meDone p
    | none => true) &&
  (decide (o.chainOut = 0) || decide (o.chainIn ≠ 0) ||
    (match next with
      | some c => decide (c.chainIn ≠ o.chainOut) || decide (rowsDone o ≤ rowsDone c)
      | none => decide (rowsDone o = 0) || k.me.producer.isNone))

/-- The first operation of the queue that may run, after the one before it. -/
def meFirst (k : Core) : Option Op → List Op → Option Op
  | _, [] => none
  | prev, o :: rest =>
    if meMayRun k prev o rest.head? then some o
    else meFirst k (some o) rest

/-- R102: the ME operation whose tile drains next. A chained pair runs row tile by row tile. -/
def meNext (k : Core) : Option Op := meFirst k none (unitOps k 0)

def meT (o : Op) : Nat := o.pos / max 1 (meColTiles o.desc)
def meJ (o : Op) : Nat := o.pos % max 1 (meColTiles o.desc)

/-- The operand rings are taken as far as the tile needs them. -/
def mePull (k : Core) (o : Op) : Core :=
  let d := o.desc
  let rows := min (meM d) (8 * meT o + 8)
  let cols := if meT o = 0 then min (meN d) (8 * meJ o + 8) else meN d
  let one (k : Core) (s : Src) (n : Nat) : Core := match s.ring with | some r => pullRing k o.id r n | none => k
  let k := if meASrc d = 1 then one k (meA d) (rows * meARow d) else k
  let k := one k (meW d) (cols * meWCol d)
  if meMode d = 3 then k
  else
    let k := if mePro d || decide (meASrc d = 2) then k else one k (meSA d) (rows * meBlocks d)
    one k (meSW d) (cols * meBlocks d)

/-- The place of a row in its operand: rings hold rows one after another. -/
def rowOff (s : Src) (r stride len : Nat) : Nat := if s.ring.isSome then r * len else r * stride

/-- The statistic of the row tile is complete (R99). -/
def meStatReady (o : Op) : Bool :=
  !(mePro o.desc && meWaitStat o.desc) ||
    o.stat.any fun e => decide (e.1 = meT o) && decide (statCount o.pro ≤ e.2.1)

/-- The bytes of row r (or column) of an operand that hold its K block b: offset and length. -/
def blockSpan (s : Src) (r stride row fmt K b : Nat) : Nat × Nat :=
  (rowOff s r stride row + codeBytes fmt (32 * b), codeBytes fmt (min 32 (K - 32 * b)))

/-- The vectors that a chain reads for columns c to c + n - 1 of row r, in rows of w values. -/
def vectorReady (k : Core) (o : Op) (ch : List Word) (w r c n : Nat) : Ready :=
  allReady ((stages ch).map fun st =>
    match kindOf st with
    | 1 | 2 => if subOf st = 0 then spReady k o (stageAddr st + 4 * c) (4 * n) else Ready.ok
    | 4 => spReady k o (stageAddr st + 4 * (r * w + c)) (4 * n)
    | 5 => spReady k o (stageAddr st) ((if subOf st = 0 then 4 else 8) * statN ch)
    | _ => Ready.ok)

/-- R99, R227: what stands in the way of the row tile's prologue, which runs once. -/
def prologueState (k : Core) (o : Op) : List Ready :=
  let d := o.desc
  if !mePro d || decide (o.proRows ≠ []) then [] else
    let rows := meRows d (meT o)
    let rec0 := match statStage d o.pro with
      | some w => if meWaitStat d then spOutReady k (statAddr o.pro) (statBytes w rows.length)
        else spReady k o (statAddr o.pro) (statBytes w rows.length)
      | none => Ready.ok
    let sc := match lastStage o.pro with
      | some w => if subOf w = 2 then Ready.ok
        else allReady (rows.map fun r => spOutReady k (stageAddr w + r * meBlocks d) (meBlocks d))
      | none => Ready.ok
    (if meStatReady o then Ready.ok else Ready.wait) ::
      (if meASrc d = 2 then [] else rows.map fun r => srcReady k o (meA d) (rowOff (meA d) r (meAStride d) (meARow d)) (meARow d)) ++
      [allReady (rows.map fun r => vectorReady k o o.pro (meK d) r 0 (meK d)), rec0, sc]

/-- What stands in the way of K block b of the tile: its data, and its scales. -/
def blockState (k : Core) (o : Op) (b : Nat) : List Ready × List Ready :=
  let d := o.desc
  let nb := meBlocks d
  let rows := meRows d (meT o)
  let cols := meCols d (meJ o)
  let own := decide (meASrc d = 2) || mePro d
  let span (s : Src) (r stride row fmt : Nat) : Ready := (let p := blockSpan s r stride row fmt (meK d) b; srcReady k o s p.1 p.2)
  (prologueState k o ++
    (if own then [] else rows.map fun r => span (meA d) r (meAStride d) (meARow d) (meAFmt d)) ++
    (cols.map fun n => span (meW d) n (meWStride d) (meWCol d) (meWFmt d)) ++
    (if b = 0 ∧ o.pos = 0 ∧ 2 ≤ meInit d then [spReady k o (mePre d) (16 * rows.length * cols.length)] else []),
   if meMode d = 3 then [] else
    (if own then [] else rows.map fun r => srcReady k o (meSA d) (r * nb + b) 1) ++
    cols.map fun n => srcReady k o (meSW d) (n * nb + b) 1)

/-- R86, R246: the obstacle of K block b, and the stall cause of a wait: scale-wait whenever a scale slot is missing. -/
def blockReady (k : Core) (o : Op) (b : Nat) : Ready × Nat :=
  let p := blockState k o b
  worstReady (p.2.contains .wait) (p.1 ++ p.2)

/-- R227: what stands in the way of the drain: the epilogue's vectors, and the output by address. -/
def drainReady (k : Core) (o : Op) : Ready × Nat :=
  let d := o.desc
  let rows := meRows d (meT o)
  let j := meJ o
  let n := (meCols d j).length
  let at' (c : Nat) : Nat := outFmtBytes d o.epi c
  let upto := min (meN d) (8 * j + 8)
  let sc := match (if meEpi d && !meChain d then lastStage o.epi else none) with
    | some w => if kindOf w = 7 ∧ subOf w < 2 ∧ (upto % 32 = 0 ∨ upto = meN d)
      then rows.map fun r => spOutReady k (stageAddr w + r * ceilDiv (meN d) 32 + (upto - 1) / 32) 1 else []
    | none => []
  worstReady false
    ((if meEpi d then rows.map fun r => vectorReady k o o.epi (meN d) r (8 * j) n else []) ++ sc ++
      (if meChain d then [] else rows.map fun r => outReady k (meOut d) (r * meOutStride d + at' (8 * j)) (at' upto - at' (8 * j))))

/-- How many of the tile's leading K blocks are ready, and what stands in the way of the next, or of the drain. -/
def meReady (k : Core) (o : Op) : Nat × Ready × Nat :=
  let nb := meBlocks o.desc
  match (List.range nb).find? fun b => decide ((blockReady k o b).1 ≠ .ok) with
  | some b => (b, blockReady k o b)
  | none => (nb, drainReady k o)

/-! The prologue (R94-R100). -/

/-- The value of a per-column vector or a scalar register. -/
def stageOperand (k : Core) (o : Op) (w : Word) (col : Nat) : Word :=
  enter (if subOf w = 1 then nth o.regs (fld w 8 5) else memWord k.sp (stageAddr w + 4 * col))

/-- One element-wise stage on the value of a row and column; RES adds the residual row of the same row. -/
def stageElem (k : Core) (o : Op) (width row col : Nat) (w v : Word) : N Word :=
  match kindOf w with
  | 1 => fmul v (stageOperand k o w col)
  | 2 => fadd v (stageOperand k o w col)
  | 3 => fn (subOf w) v
  | 4 => fadd v (enter (memWord k.sp (stageAddr w + 4 * (row * width + col))))
  | _ => pure v

/-- One element's conditions count once (R66). -/
def capEv (e : Ev) (v : Word) : Ev := { e with sat := min e.sat 1, ovf := min e.ovf 1, nonfinite := b2n (isNan v), nan := isNan v }

/-- The element-wise stages of a chain, up to its CVT or PACK, with the value that RED receives. -/
def chainElem (k : Core) (o : Op) (ch : List Word) (width row col : Nat) (v : Word) : N (Word × Word) :=
  (stages ch).foldlM (fun (p : Word × Word) w => do
    let y ← stageElem k o width row col w p.1
    return (y, if kindOf w = 6 then p.1 else p.2)) (v, v)

def runElem (k : Core) (o : Op) (ch : List Word) (width row col : Nat) (v : Word) : Word × Word × Ev :=
  let r := (chainElem k o ch width row col v).run Ev.init
  (r.1.1, r.1.2, capEv r.2 r.1.1)

/-- R99, R100: rownorm_row up to its elements: mu and r, from a row's exact sums. -/
def rownormFactors (w : Word) (n : Nat) (eps : Word) (s1 s2 : Int) : N (Word × Word) := do
  let c1 ← accClamp s1
  let c2 ← accClamp s2
  let mu : Word ← if n = 0 then (do countEmpty; return 0) else if subOf w = 0 then pure 0 else rnd (accVal c1 / n)
  let stat : Word ← if n = 0 then pure 0 else if subOf w = 0 then rnd (accVal c2 / n)
    else rnd (max ((n * accVal c2 - accVal c1 * accVal c1) / ((n : Rat) * n)) 0)
  let e ← fadd stat (enter eps)
  let r ← fnRsqrt e
  return (mu, r)

/-- Element i of rownorm_row. -/
def rownormElem (k : Core) (w : Word) (n : Nat) (f : Word × Word) (i : Nat) (x : Word) : N Word := do
  let t ← fadd x (fneg f.1)
  let t ← fmul t f.2
  let y ← fmul t (enter (memWord k.sp (stageAddr w + 4 * i)))
  if subOf w = 0 then return y else fadd y (enter (memWord k.sp (stageAddr w + 4 * n + 4 * i)))

/-- R41, R97: a block quantised with a derived scale: codes, scale and conditions. -/
def deriveBlock (q : Nat) (xs : List Word) : N (List Int × Nat) := do
  let e := deriveE8 (amaxOf xs) q
  let cs ← xs.mapM fun x => if e = 0 then (do (if isNan x then markNan else pure ()); return (0 : Int)) else quantise x (e8val e) q
  return (cs, e)

def blocksOf (n : Nat) (l : List Word) : Nat → List (List Word)
  | 0 => []
  | f + 1 => if l = [] then [] else l.take n :: blocksOf n (l.drop n) f

/-- Codes of a format as bytes. -/
def packCodes (fmt : Nat) (cs : List Int) : List Byte := if fmt = 1 then packI4 cs else packI8 cs

def qOf (fmt : Nat) : Nat := if fmt = 1 then 7 else 127

/-- R69, R72: the format that a conversion to I8 (0) or I4 (1) takes in a layer that runs in a wider format. -/
def wideTarget (fmt : Nat) (wide : BitVec 2) : Nat := if wide = 0 then fmt else if wide = 2 then 2 else 0

/-- A code held to the codes of a format (R39). -/
def holdCode (q : Nat) (c : Int) : Int := max (-(q : Int)) (min q c)

/-- R39-R41, R69: a block converted to I8 or I4 with a derived scale. In a layer that runs in a wider format the conversion
is to that format, whose saturations count; what stands in the narrow tensor's place is unstated (log entry 16). -/
def cvtBlock (fmt : Nat) (wide : BitVec 2) (xs : List Word) : N (List Int × Nat) :=
  let t := wideTarget fmt wide
  if t = fmt then deriveBlock (qOf fmt) xs
  else do
    if t = 2 then let _ ← xs.mapM cvtF16 else let _ ← deriveBlock (qOf t) xs
    return ((List.range xs.length).map fun i => holdCode (qOf fmt) (Config.wideCode t xs i), Config.wideScale t xs % 255)

/-- A row converted to I8, I4 or F16: bytes, scales. -/
def cvtRow (fmt : Nat) (wide : BitVec 2) (xs : List Word) : N (List Byte × List Byte) :=
  if fmt = 2 then do
    let hs ← xs.mapM cvtF16
    return (hs.flatMap fun h => leBytes 2 h.toNat, [])
  else do
    let bl ← (blocksOf 32 xs xs.length).mapM (cvtBlock fmt wide)
    return (packCodes fmt (bl.flatMap (·.1)), bl.map fun b => BitVec.ofNat 8 b.2)

/-- R101: where a row of a chained pair stands in the chain buffer. -/
def chainKey (pair r : Nat) : Nat := 65536 * pair + r

/-- A row of the chain buffer: codes and scales; a row that no producer has written is X (log entry 83). -/
def chainRow (k : Core) (o : Op) (free : Nat → Int) (r : Nat) : List Word × List Byte :=
  let d := o.desc
  let K := meK d
  match tabGet k.me.chainRows (chainKey o.chainIn r) with
  | some vs => (vs, tabGetD [] k.me.chainScales (chainKey o.chainIn r))
  | none =>
    let at' (i : Nat) : Int := free (512 + r % 8 * (2 * K) + i)
    ((List.range K).map fun c => BitVec.ofInt 32 (if meAFmt d = 2 then (BitVec.ofInt 16 (at' c)).toNat
        else code (if meAFmt d = 1 then 4 else 8) (at' c).toNat),
      (List.range (meBlocks d)).map fun b => BitVec.ofNat 8 ((at' (K + b)).toNat % 255))

/-- R96: the value of a code of the chain buffer at column c, under its scale. -/
def chainValue (fmt : Nat) (sc : List Byte) (c : Nat) (v : Word) : N Word :=
  if fmt = 2 then pure (f16to32 (v.truncate 16)) else rnd (v.toInt * e8val (sc.getD (c / 32) 0).toNat)

/-- The stored F32 row before a prologue; the chain buffer's codes enter at their values (R96). -/
def proInput (k : Core) (o : Op) (free : Nat → Int) (r : Nat) : List (N Word) :=
  let d := o.desc
  if meASrc d = 2 then
    let row := chainRow k o free r
    (List.range row.1.length).map fun c => chainValue (meAFmt d) row.2 c (nth row.1 c)
  else (wordsOf (meK d) (srcRead k o (meA d) (rowOff (meA d) r (meAStride d) (meARow d)) (meARow d))).map fun w => pure (enter w)

/-- The exact sums of a row of the tile in a statistic record. -/
def statSums (w : Word) (bs : List Byte) (i : Nat) : Int × Int :=
  if subOf w = 0 then (0, exVal 136 ((bs.drop (24 * i)).take 17))
  else (exVal 136 ((bs.drop (48 * i)).take 17), exVal 136 ((bs.drop (48 * i + 24)).take 17))

/-- R99: the completed record of a row tile. -/
def statRecord (w : Word) (sums : List Int) : List Byte :=
  sums.flatMap fun x => exBytes 24 x |>.take (if subOf w = 0 ∨ subOf w = 1 then 24 else 0)

/-- One element of a row in the prologue, with what it counts: an overflow at most once (R66). -/
def proElem (k : Core) (o : Op) (norm : Option (Word × (Word × Word))) (r c : Nat) (x : N Word) : N Word := do
  let p := (do
    let v ← x
    let y ← match norm with
      | some (w, f) => rownormElem k w (statN o.pro) f c v
      | none => pure v
    let z ← chainElem k o o.pro (meK o.desc) r c y
    return z.1 : N Word).run Ev.init
  modify fun e => { e with ovf := e.ovf + min p.2.ovf 1 }
  return p.1

/-- The prologue of the row tile: the rows' codes and scales, and the conditions met. An element that is quantised as a NaN
is counted once (R43, R66). -/
def prologue (k : Core) (o : Op) (free : Nat → Int) : N (List (List Byte × List Byte)) :=
  let d := o.desc
  let rows := meRows d (meT o)
  let rec0 := spRead k (statAddr o.pro) (8 * 48)
  (List.range rows.length).mapM fun i => do
    let r := rows.getD i 0
    let norm ← match rowNorm o.pro with
      | some w => (do
        let p := if meWaitStat d then
            (let l := ((o.stat.find? fun e => decide (e.1 = meT o)).map (·.2.2)).getD []
             if subOf w = 0 then (0, l.getD i 0) else (l.getD (2 * i) 0, l.getD (2 * i + 1) 0))
          else statSums w rec0 i
        let f ← rownormFactors w (statN o.pro) (nth o.pro 4) p.1 p.2
        return some (w, f))
      | none => pure none
    let xs := proInput k o free r
    let zs ← (List.range xs.length).mapM fun c => proElem k o norm r c (xs.getD c (pure 0))
    let p := (cvtRow (meAFmt d) o.wideFmt zs).run Ev.init
    let nans := if meAFmt d = 2 then 0 else (zs.filter isNan).length
    modify fun e => evAdd e { p.2 with nonfinite := nans, nan := decide (0 < nans) }
    return p.1

/-- R98, R99: the committed statistic slots with the row tile's tag are added, in arrival order, and read. -/
def statPull (k : Core) (o : Op) : Core :=
  match (if meWaitStat o.desc then statStage o.desc o.pro else none) with
  | none => k
  | some w =>
    let r := statRing o.pro
    let rows := (meRows o.desc (meT o)).length
    let per := if subOf w = 0 then 1 else 2
    ((getRing k r).slots.filter fun q => decide (q.state = .committed) && !q.poison).foldl (fun k q =>
      let a := slotAddr (getRing k r) q.idx
      match findOp k o.id with
      | none => k
      | some o =>
        let old := ((o.stat.find? fun e => decide (e.1 = meT o)).map (·.2)).getD (0, List.replicate (rows * per) 0)
        if (tagAt k a).toNat = meT o % 65536 ∧ old.1 < statCount o.pro then
          let bs := spRead k a (24 * rows * per)
          let add := (List.range (rows * per)).map fun i => old.2.getD i 0 + exVal 136 ((bs.drop (24 * i)).take 17)
          putOp (setRing k r (modSlot (getRing k r) q.idx fun s => { s with state := .read }))
            { o with stat := (o.stat.filter fun e => decide (e.1 ≠ meT o)) ++ [(meT o, old.1 + 1, add)]
                     poison := o.poison || spPoisoned k a (24 * rows * per) }
        else k) k

/-- The prologue runs once for a row tile, when its rows are ready: it writes the scales it derives and the completed
statistic record. After the last row tile the ranges that only prologues use are free (R232). -/
def runPrologue (k : Core) (o : Op) (free : Nat → Int) : Core × Ev :=
  let d := o.desc
  let r := (prologue k o free).run Ev.init
  let rows := meRows d (meT o)
  let p := match statStage d o.pro with
    | some w => if meWaitStat d then opWrite k o (statAddr o.pro)
        (statRecord w (((o.stat.find? fun e => decide (e.1 = meT o)).map (·.2.2)).getD [])) else k
    | none => k
  let sc := match lastStage o.pro with | some w => stageAddr w | none => 0
  let k := if meAFmt d = 2 then p else
    (List.range rows.length).foldl (fun k i => opWrite k o (sc + rows.getD i 0 * meBlocks d) (r.1.getD i ([], [])).2) p
  let k := if meT o + 1 = meRowTiles d then freeDone k o.id (·.early) else k
  (putOp k { o with proRows := r.1 }, r.2)

/-! A tile. -/

/-- The data of row r of A. -/
def aData (k : Core) (o : Op) (free : Nat → Int) (i r : Nat) : RowData :=
  let d := o.desc
  if mePro d then rowData (meAFmt d) (meK d) (o.proRows.getD i ([], [])).1 (o.proRows.getD i ([], [])).2
  else if meASrc d = 2 then
    let row := chainRow k o free r
    if meAFmt d = 2 then rowData 2 (meK d) (row.1.flatMap fun v => leBytes 2 v.toNat) []
    else { codes := row.1.map (·.toInt), scales := row.2.map (·.toNat), negs := [], nan := false }
  else rowData (meAFmt d) (meK d)
    (srcRead k o (meA d) (rowOff (meA d) r (meAStride d) (meARow d)) (meARow d))
    (if meMode d = 3 then [] else srcRead k o (meSA d) (r * meBlocks d) (meBlocks d))

def wData (k : Core) (o : Op) (n : Nat) : RowData :=
  let d := o.desc
  rowData (meWFmt d) (meK d) (srcRead k o (meW d) (rowOff (meW d) n (meWStride d) (meWCol d)) (meWCol d))
    (if meMode d = 3 then [] else srcRead k o (meSW d) (n * meBlocks d) (meBlocks d))

/-- The data of the tile's rows and columns. -/
def tileRows (k : Core) (o : Op) (free : Nat → Int) : List RowData :=
  let rows := meRows o.desc (meT o)
  (List.range rows.length).map fun i => aData k o free i (rows.getD i 0)
def tileCols (k : Core) (o : Op) : List RowData := (meCols o.desc (meJ o)).map (wData k o)

/-- R85: a ring-fed operand's data or scale slot of block b is out of step. -/
def rowSkew (o : Op) (data scale : Src) (r row fmt nb b : Nat) : Bool :=
  skewed o data row (codeBytes fmt 32) (r * row + codeBytes fmt (32 * b)) b || skewed o scale nb 1 (r * nb + b) b

/-- R82, R83: the first failing block of the first n: block, pass, operand and cause. Where rows or columns of one block fail
differently, the earliest check that fails anywhere in the tile is reported (log entry 107). A layer that runs in a wider
format meets no check of the narrow one (log entry 16). -/
def tileFault (o : Op) (as ws : List RowData) (n : Nat) : Option (Nat × Nat × Nat × Nat) :=
  let d := o.desc
  let mode := meMode d
  let rows := meRows d (meT o)
  let cols := meCols d (meJ o)
  let sc (x : RowData) (b : Nat) : Nat := x.scales.getD b 0
  if mode = 3 ∨ o.wideFmt ≠ 0 then none
  else (List.range (min n (meBlocks d))).findSome? fun b =>
    (List.range (if mode = 4 then 2 else 1)).findSome? fun pass =>
      let skA := decide (meASrc d ≠ 2) && !mePro d && rows.any fun r =>
        rowSkew o (meA d) (meSA d) r (meARow d) (meAFmt d) (meBlocks d) b
      let skW := cols.any fun n => rowSkew o (meW d) (meSW d) n (meWCol d) (meWFmt d) (meBlocks d) b
      let fA := as.any fun a => decide (sc a b = 255)
      let fW := ws.any fun w => decide (sc w b = 255)
      if skA || skW then some (b, pass, b2n (!skA), 15)
      else if fA || fW then some (b, pass, b2n (!fA), 2)
      else if as.any (fun a => ws.any fun w => exponentBad mode pass (sc a b) (sc w b)) then some (b, pass, 0, 0)
      else none

/-- Table 3.4. -/
def mePosition (t j b pass operand bank : Nat) : Nat :=
  t % 65536 + 2 ^ 16 * (j % 65536) + 2 ^ 32 * (b % 65536) + 2 ^ 48 * pass + 2 ^ 49 * operand + 2 ^ 50 * bank

/-- R87: later tiles alternate banks. -/
def tileBank (o : Op) : Nat := (meBank o.desc + o.pos) % 2

def accOf (v : BitVec 112) : Int := v.toInt

/-- A cell: its exact sum, none for a NaN (R43), and whether it is a zero whose every term is -0 (R38). -/
abbrev Cell := Option (Int × Bool)

/-- What the operation's bank holds before the tile: cells, the -0 mark of each, whether a halt has zeroed it, and whether
it may be kept. -/
def bankBefore (k : Core) (b : Nat) : List (BitVec 112) × BitVec 64 × Bool × Bool :=
  if b = 0 then (k.me.bank0, k.me.neg0, k.me.zero0, k.me.kept0) else (k.me.bank1, k.me.neg1, k.me.zero1, k.me.kept1)

/-- R83, R88: a cell of the bank as ACC_INIT 1 or 3 finds it; `free` stands for contents that are X. -/
def bankCell (k : Core) (o : Op) (free : Nat → Int) (x : Nat) : Int × Bool :=
  let b := bankBefore k (tileBank o)
  if b.2.2.1 then (0, false) else if b.2.2.2 then (accOf (b.1.getD x 0), b.2.1.getLsbD x) else (free x, false)

/-- The tile starts from the bank's contents (R88). -/
def keepsBank (o : Op) : Bool := decide (o.pos = 0) && (decide (meInit o.desc = 1) || decide (meInit o.desc = 3))

/-- The starting contents of a cell of the tile (R83, R88), and whether they leave a sum of -0 terms at -0 (R38). A cell
that starts from 0 holds no term yet. -/
def cellStart (k : Core) (o : Op) (free : Nat → Int) (i j cols : Nat) : N (Int × Bool) :=
  let cur := bankCell k o free (8 * i + j)
  let pre := exVal 112 (spRead k (mePre o.desc + 16 * (i * cols + j)) 14)
  if o.pos ≠ 0 ∨ (bankBefore k (tileBank o)).2.2.1 then pure (0, true)
  else match meInit o.desc with
    | 1 => pure cur
    | 2 => pure (pre, false)
    | 3 => do
      let v ← accClamp (cur.1 + pre)
      return (v, false)
    | _ => pure (0, true)

/-- R49, R51, R69: the exact sum that a cell adds. In a layer that runs in a wider format the sum is that of the widened
operands and the wide masters (log entry 16). -/
def cellAdd (o : Op) (place : List Word) (masters : List Byte) (a w : RowData) : Int :=
  if o.wideFmt = 0 ∨ meMode o.desc = 3 then cellSum (meMode o.desc) a w
  else Config.wideSum o.wideFmt.toNat place (a.codes ++ w.codes) (a.scales ++ w.scales) masters

/-- The cells of a tile, row by row, with the conditions of each. -/
def tileAccs (k : Core) (o : Op) (free : Nat → Int) (place : Nat → Nat → List Word) (masters : List Byte)
    (as ws : List RowData) : List (List (Cell × Ev)) :=
  let none' : RowData := { codes := [], scales := [], negs := [], nan := false }
  (List.range as.length).map fun i => (List.range ws.length).map fun j =>
    let a := as.getD i none'
    let w := ws.getD j none'
    if a.nan || w.nan then (none, { Ev.init with nonfinite := 1, nan := true })
    else
      let r := (do
        let st ← cellStart k o free i j ws.length
        let v ← accClamp (st.1 + cellAdd o (place i j) masters a w)
        return (v, decide (v = 0) && decide (meMode o.desc = 3) && st.2 && allNegZero a.codes a.negs w.codes w.negs) : N (Int × Bool)).run Ev.init
      (some r.1, { r.2 with ovf := min r.2.ovf 1 })

/-- The bank after the tile: `free` for a NaN. Cells outside the tile keep what the tile started from (R88; log entry 84). -/
def setBank (k : Core) (o : Op) (free : Nat → Int) (accs : List (List (Cell × Ev))) : Core :=
  let cell (x : Nat) : Int × Bool :=
    match (accs[x / 8]?).bind (·[x % 8]?) with
    | some (some v, _) => v
    | some (none, _) => (free x, false)
    | none => if keepsBank o then bankCell k o free x else (0, false)
  let bank := (List.range 64).map fun x => BitVec.ofInt 112 (cell x).1
  let neg := BitVec.ofNat 64 ((List.range 64).foldl (fun m x => m + 2 ^ x * b2n (cell x).2) 0)
  let ex := meExact o.desc
  if tileBank o = 0 then { k with me.bank0 := bank, me.neg0 := neg, me.zero0 := false, me.kept0 := ex }
  else { k with me.bank1 := bank, me.neg1 := neg, me.zero1 := false, me.kept1 := ex }

/-! The epilogue (R94-R98) and the output. -/

/-- R84, R222: the tag of each slot of the output ring. F16 output counts as narrow data in no rule, and takes sequence
numbers (log entry 85). -/
def outTag (k : Core) (o : Op) (r : Nat) : Nat → Half :=
  match (if meEpi o.desc then chainFmt o.epi else none) with
  | some 2 | none => seqTag
  | some f => blockTag (slotBytes (getRing k r)) (outFmtBytes o.desc o.epi (meN o.desc)) (codeBytes f 32)

/-- Bytes of a row of the output that begin at a byte offset of the row. In a ring the first row of a row tile goes out at
once, and each later row after the rows before it. -/
def emitRow (k : Core) (o : Op) (i r off : Nat) (bs : List Byte) : Core :=
  let d := o.desc
  match (meOut d).ring with
  | none => opWrite k o ((meOut d).base + r * meOutStride d + off) bs
  | some g =>
    match findOp k o.id with
    | none => k
    | some p =>
      if i = 0 then putOp k (toRing k p g (outTag k o g) bs)
      else putOp k { p with rowOut := upd (p.rowOut ++ List.replicate (i + 1 - p.rowOut.length) []) i (· ++ bs) }

/-- Codes join a row of the chain buffer at column c. -/
def toChain (k : Core) (o : Op) (r c : Nat) (vs : List Word) : Core :=
  let old := tabGetD [] k.me.chainRows (chainKey o.chainOut r)
  { k with me.chainRows := tabPut k.me.chainRows (chainKey o.chainOut r) (old.take c ++ vs) }

/-- A block of codes with its scale: to the output and the scale vector, or to the chain buffer (R101). -/
def emitBlock (k : Core) (o : Op) (w : Word) (i r b : Nat) (cs : List Int) (e : Nat) : Core :=
  let d := o.desc
  let fmt := subOf w
  if meChain d then
    let k := toChain k o r (32 * b) (cs.map fun c => BitVec.ofInt 32 c)
    let old := tabGetD [] k.me.chainScales (chainKey o.chainOut r)
    { k with me.chainScales := tabPut k.me.chainScales (chainKey o.chainOut r) (old.take b ++ [BitVec.ofNat 8 e]) }
  else
    let k := opWrite k o (stageAddr w + r * ceilDiv (meN d) 32 + b) [BitVec.ofNat 8 e]
    emitRow k o i r (codeBytes fmt (32 * b)) (packCodes fmt cs)

/-- The values of the open block of row i, replaced. -/
def setHeld (k : Core) (id i : Nat) (vs : List Word) : Core :=
  match findOp k id with
  | some o => putOp k { o with held := upd (o.held ++ List.replicate (i + 1 - o.held.length) []) i fun _ => vs }
  | none => k

/-- R97: the values of a row join the open block; a complete block is quantised and written. The NaN elements were
counted as the epilogue's outputs. -/
def holdRow (k : Core) (o : Op) (w : Word) (i r j : Nat) (vs : List Word) : Core × Ev :=
  let all := o.held.getD i [] ++ vs
  let upto := min (meN o.desc) (8 * j + 8)
  if upto % 32 = 0 ∨ upto = meN o.desc then
    let p := (cvtBlock (subOf w) o.wideFmt all).run Ev.init
    (setHeld (emitBlock k o w i r ((upto - 1) / 32) p.1.1 p.1.2) o.id i [], { p.2 with nonfinite := 0 })
  else (setHeld k o.id i all, Ev.init)

/-- R98: a value's terms join the row's exact sums; a NaN makes them unstated. -/
def addSums (sub : Nat) (v : Word) (p : Option (Int × Int)) : N (Option (Int × Int)) :=
  if isNan v then pure none
  else do
    let t2 ← redTerm (f32val v * f32val v)
    let t1 ← if sub = 1 then redTerm (f32val v) else pure 0
    return p.map fun q => (q.1 + t1, q.2 + t2)

/-- One output element: the cell's read-out and the epilogue's stages, the value that RED receives, and the element's
conditions, each counted once (R66). -/
def drainElem (k : Core) (o : Op) (r c : Nat) (x : Cell × Ev) : Word × Word × Ev :=
  let v : Word × Ev := match x.1 with
    | some (a, neg) => if neg then (negZero, Ev.init) else (readOut a).run Ev.init
    | none => (qnan, Ev.init)
  let p := if meEpi o.desc then runElem k o o.epi (meN o.desc) r c v.1 else (v.1, v.1, Ev.init)
  (p.1, p.2.1, capEv (evAdd (evAdd x.2 v.2) p.2.2) p.1)

/-- R98: the row's values join its statistic. -/
def drainSums (k : Core) (o : Op) (i : Nat) (outs : List (Word × Word × Ev)) : Core × Ev :=
  match (if meEpi o.desc then redStage o.epi else none) with
  | none => (k, Ev.init)
  | some w =>
    let p := (outs.foldlM (fun q (y : Word × Word × Ev) => addSums (subOf w) y.2.1 q) (o.sums.getD i (some (0, 0))) : N (Option (Int × Int))).run Ev.init
    (putOp k { o with sums := upd (o.sums ++ List.replicate (i + 1 - o.sums.length) (some (0, 0))) i fun _ => p.1 }, p.2)

/-- R95-R97: a row's values leave in the format of the epilogue's last stage. -/
def drainValues (k : Core) (o : Op) (i r j : Nat) (vs : List Word) : Core × Ev :=
  match (if meEpi o.desc then lastStage o.epi else none) with
  | some w =>
    if (kindOf w = 7 ∧ subOf w = 2) ∨ kindOf w = 8 then
      let p := (vs.mapM cvtF16).run Ev.init
      (if meChain o.desc then toChain k o r (8 * j) (p.1.map fun h => h.zeroExtend 32)
        else emitRow k o i r (16 * j) (p.1.flatMap fun h => leBytes 2 h.toNat), { p.2 with nonfinite := 0 })
    else if kindOf w = 7 then holdRow k o w i r j vs
    else (emitRow k o i r (32 * j) (bytesOfWords vs), Ev.init)
  | none => (emitRow k o i r (32 * j) (bytesOfWords vs), Ev.init)

/-- One row of a tile: read-out, stages, RED, and the output in its format. -/
def drainRow (free : Nat → Int) (j : Nat) (acc : Core × Ev) (x : Nat × Nat × List (Cell × Ev)) (id : Nat) : Core × Ev :=
  let (k, ev) := acc
  let (i, r, cells) := x
  match findOp k id with
  | none => acc
  | some o =>
    if meExact o.desc then
      let bs := (List.range cells.length).flatMap fun c => match cells[c]? with
        | some (some v, _) => exBytes 16 v.1
        | _ => leBytes 16 (free (8 * i + c)).toNat
      (emitRow k o i r (16 * 8 * j) bs, cells.foldl (fun e c => evAdd e c.2) ev)
    else
      let outs := (List.range cells.length).map fun c => drainElem k o r (8 * j + c) (cells.getD c (none, Ev.init))
      let p := drainSums k o i outs
      let q := drainValues p.1 ((findOp p.1 id).getD o) i r j (outs.map (·.1))
      (q.1, evAdd (outs.foldl (fun e y => evAdd e y.2.2) (evAdd ev p.2)) q.2)

/-- R98: a statistic slot of the row tile; one shorter than the ring's slot leaves the rest of it X, and of a longer one
the slot holds its beginning (log entry 86). -/
def statSlot (k : Core) (o : Op) (w : Word) (t rows : Nat) (free : Nat → Int) : Op :=
  let one (i : Nat) : List Byte := match o.sums.getD i (some (0, 0)) with
    | some (s1, s2) => (if subOf w = 1 then exBytes 24 s1 else []) ++ exBytes 24 s2
    | none => leBytes (if subOf w = 1 then 48 else 24) (free (200 + i)).toNat
  let sb := slotBytes (getRing k (statRing o.epi))
  let bs := (List.range rows).flatMap one
  let o := wholeSlot o (statRing o.epi) (BitVec.ofNat 16 t) (bs.take sb ++ leBytes (sb - bs.length) (free 208).toNat)
  { o with nextTags := tabPut o.nextTags (statRing o.epi) (BitVec.ofNat 16 (t + 1)) }

/-- R98, R222: after the last column tile of a row tile, its rows go to the output ring and its statistic to STAT_RING. -/
def endRowTile (k : Core) (id : Nat) (free : Nat → Int) : Core :=
  match findOp k id with
  | none => k
  | some o =>
    let d := o.desc
    let t := meT o
    let o := match (meOut d).ring with
      | some r => { o.rowOut.foldl (fun p bs => toRing k p r (outTag k o r) bs) o with rowOut := [] }
      | none => o
    let o := match (if meEpi d then redStage o.epi else none) with
      | some w => statSlot k o w t (meRows d t).length free
      | none => o
    putOp k { o with sums := [], held := [], proRows := [], stat := o.stat.filter fun e => decide (e.1 ≠ t) }

/-- Free accumulators and codes for a tile, and how many of them it may use. -/
def freeAcc (s : State) (i : Nat) : Int := exVal 112 (leBytes 14 (Config.freeBits (s.fresh + i)))
def freeOfTile (o : Op) : Nat := 512 + 16 * meK o.desc

/-- R69: the bytes of the wide masters of the operation's template. -/
def mastersOf (s : State) (o : Op) : List Byte :=
  match o.tok with
  | none => []
  | some (n, num, _) =>
    let x := getStream s n.toNat
    match (findChunk x num).bind fun c => (imageAt s c.epoch).bind fun g => (templateIn g x.r.model.toNat).map fun t => (g, t) with
    | some (g, t) => (match t.masters with
        | some m => sectionBytes s g m 0 (g.sections.getD m ImgSection.init).length
        | none => [])
    | none => []

/-- Where an output stands: the layer, the core's position in its group, the descriptor, the row and the column. -/
def outPlace (k : Core) (o : Op) (r n : Nat) : List Word :=
  o.desc ++ [BitVec.ofNat 32 ((o.tok.map fun t => t.2.2.toNat).getD 0), BitVec.ofNat 32 (groupPosOf k k.bank),
    BitVec.ofNat 32 r, BitVec.ofNat 32 n]

/-- R365: some vector that a chain reads for columns c to c + n - 1 of row r lies under a set poison bit. -/
def vectorPoisoned (k : Core) (ch : List Word) (w r c n : Nat) : Bool :=
  (stages ch).any fun st => match kindOf st with
    | 1 | 2 => decide (subOf st = 0) && spPoisoned k (stageAddr st + 4 * c) (4 * n)
    | 4 => spPoisoned k (stageAddr st + 4 * (r * w + c)) (4 * n)
    | 5 => spPoisoned k (stageAddr st) ((if subOf st = 0 then 4 else 8) * statN ch)
    | _ => false

/-- The rows of A that the row tile reads by address lie under a set poison bit. -/
def rowsPoisoned (k : Core) (o : Op) : Bool :=
  let d := o.desc
  decide (meASrc d = 0) && (meRows d (meT o)).any fun r =>
    srcPoisoned k (meA d) (rowOff (meA d) r (meAStride d) (meARow d)) (meARow d)

/-- R365: the row tile's prologue reads a byte under a set poison bit. -/
def proPoisoned (k : Core) (o : Op) : Bool :=
  let d := o.desc
  let rows := meRows d (meT o)
  rowsPoisoned k o || rows.any (fun r => vectorPoisoned k o.pro (meK d) r 0 (meK d)) ||
    (!meWaitStat d && match statStage d o.pro with
      | some w => spPoisoned k (statAddr o.pro) (statBytes w rows.length)
      | none => false)

/-- R365: the tile reads a byte under a set poison bit. -/
def tilePoisoned (k : Core) (o : Op) : Bool :=
  let d := o.desc
  let rows := meRows d (meT o)
  let cols := meCols d (meJ o)
  (cols.any fun n => srcPoisoned k (meW d) (rowOff (meW d) n (meWStride d) (meWCol d)) (meWCol d)) ||
  (!mePro d && (rowsPoisoned k o ||
    (decide (meMode d ≠ 3 ∧ meASrc d ≠ 2) && rows.any fun r => srcPoisoned k (meSA d) (r * meBlocks d) (meBlocks d)))) ||
  (decide (meMode d ≠ 3) && cols.any fun n => srcPoisoned k (meSW d) (n * meBlocks d) (meBlocks d)) ||
  (decide (o.pos = 0 ∧ 2 ≤ meInit d) && spPoisoned k (mePre d) (16 * rows.length * cols.length)) ||
  (meEpi d && rows.any fun r => vectorPoisoned k o.epi (meN d) r (8 * meJ o) cols.length)

/-- R69, R70: what the layer holds as built, from an operation's mode and the conversion of its results. -/
def noteBuilt (o : Op) (i4 i8 : Bool) (s : State) : State :=
  match o.tok with
  | some (n, num, l) => modLayer s n.toNat num l.toNat fun w => { w with isI4 := w.isI4 || i4, isI8 := w.isI8 || i8 }
  | none => s

def meI4 (o : Op) : Bool := decide (meMode o.desc = 1 ∨ meMode o.desc = 2) || (meEpi o.desc && decide (chainFmt o.epi = some 1))
def meI8 (o : Op) : Bool := decide (meMode o.desc ≠ 3 ∧ meMode o.desc ≠ 1) || (meEpi o.desc && decide (chainFmt o.epi = some 0))

/-- R76-R98: the tile of an operation that is ready: its sums, its bank, its drain. -/
def drainTile (c : Nat) (id : Nat) (s : State) : State :=
  let k := getCore s c
  match findOp k id with
  | none => s
  | some o =>
    let d := o.desc
    let t := meT o
    let j := meJ o
    let rows := meRows d t
    let free := freeAcc s
    let as := tileRows k o free
    let ws := tileCols k o
    if (tileFault o as ws (meBlocks d)).isSome then s
    else
      let accs := tileAccs k o free (fun i n => outPlace k o (rows.getD i 0) ((meCols d j).getD n 0)) (mastersOf s o) as ws
      let o := { o with poison := o.poison || tilePoisoned k o }
      let k := setBank (putOp k o) o free accs
      let p := (List.range rows.length).foldl (fun a i => drainRow free j a (i, rows.getD i 0, accs.getD i []) id) (k, Ev.init)
      let k := if j + 1 = meColTiles d then endRowTile p.1 id free else p.1
      let k := match findOp k id with
        | some o => putOp k { o with pos := o.pos + 1 }
        | none => k
      let s := { setCore s c (pushAll k id) with fresh := s.fresh + freeOfTile o }
      let s := opEv o p.2 s
      let s := if meEpi d && (chainFmt o.epi).isSome then
        opTensor o (if mePro d then 1 else 0) p.2.sat (rows.length * (meCols d j).length) s else s
      noteBuilt o (meI4 o) (meI8 o) s

/-- R99, R100: the prologue of a row tile that has not run, once everything it reads is there. -/
def prologueFirst (c : Nat) (id : Nat) (s : State) : State :=
  let k := getCore s c
  match findOp k id with
  | none => s
  | some o =>
    if mePro o.desc && decide (o.proRows = []) && decide (allReady (prologueState k o) = .ok) then
      let o := { o with poison := o.poison || proPoisoned k o }
      let p := runPrologue (putOp k o) o (freeAcc s)
      opTensor o 0 p.2.sat ((meRows o.desc (meT o)).length * meK o.desc)
        (opEv o p.2 { setCore s c p.1 with fresh := s.fresh + freeOfTile o })
    else s

/-- R103: while an operation is in its last tile, the next one takes its inputs and runs its prologue. -/
def prologueNext (c : Nat) (id : Nat) (s : State) : State :=
  let k := getCore s c
  match (unitOps k 0).dropWhile fun o => decide (o.id ≠ id) with
  | o :: n :: _ =>
    if mePro n.desc && decide (n.chainIn = 0) && decide (meTiles o.desc ≤ o.pos + 1) then
      let s := setCore s c (statPull (mePull k n) n)
      prologueFirst c n.id s
    else s
  | _ => s

/-- The operation whose tile is next, with its rings taken as far as the tile needs them and its prologue run. -/
def meBegin (c : Nat) (s : State) : Option (State × Nat) :=
  let k := getCore s c
  (meNext k).map fun o => (prologueFirst c o.id (setCore s c (statPull (mePull k o) o)), o.id)

/-- The failing block among the tile's leading ready ones. -/
def meFault (s : State) (k : Core) (o : Op) : Option (Nat × Nat × Nat × Nat) :=
  tileFault o (tileRows k o (freeAcc s)) (tileCols k o) (meReady k o).1

/-- R90: the next tile drains once its operands are there; what it waits for is counted. -/
def meTileDrain (c : Nat) (s : State) : State :=
  match meBegin c s with
  | none => s
  | some (s, id) =>
    let s := prologueNext c id s
    let k := getCore s c
    match findOp k id with
    | none => s
    | some o =>
      if (meFault s k o).isSome then s
      else match (meReady k o).2 with
        | (.ok, _) => drainTile c id s
        | (r, cause) => if r.halts then s else setCore s c (countStall cause 1 k)

/-- R83: the bank of a halted tile starts from zero at its next use. -/
def zeroBank (k : Core) (b : Nat) : Core := if b = 0 then { k with me.zero0 := true } else { k with me.zero1 := true }

/-- R280: a poison slot of the statistic ring is released before the operation halts. -/
def dropPoison (k : Core) (r : Nat) : Core :=
  setRing k r { getRing k r with slots := (getRing k r).slots.map fun q => if q.poison ∧ q.state = .committed then { q with state := .read } else q }

/-- R280: the statistic that the prologue waits for has ended in a poison slot. -/
def statPoisoned (k : Core) (o : Op) : Bool :=
  mePro o.desc && meWaitStat o.desc && decide (o.proRows = []) && !meStatReady o &&
    (getRing k (statRing o.pro)).slots.any fun q => q.poison && decide (q.state = .committed)

/-- R82, R83, R228, R280: the operation halts at a failing block, a raw access inside a ring, or a poison slot, whichever
comes first in the tile. -/
def meHalt (c : Nat) (s : State) : State :=
  match meBegin c s with
  | none => s
  | some (s, id) =>
    let k := getCore s c
    match findOp k id with
    | none => s
    | some o =>
      let bank := tileBank o
      let z := setCore s c (zeroBank k bank)
      match meFault s k o with
      | some (b, pass, operand, cause) => scaleHalt c o cause (mePosition (meT o) (meJ o) b pass operand bank) z
      | none =>
        match (meReady k o).2.1 with
        | .poisoned => poisonHalt c o z
        | .raw w r i a => rawHalt c o w (if w then 4 else 1) r i a z
        | _ => if statPoisoned k o then poisonHalt c o (setCore s c (zeroBank (dropPoison k (statRing o.pro)) bank)) else s

/-- R91, R232: an operation that has drained every tile completes when its last output is written. -/
def meComplete (c : Nat) (s : State) : State :=
  match (unitOps (getCore s c) 0).find? meDone with
  | some o => finishOp c o.id s
  | none => s

end Sys2Proof.Machine
end

