-- ==== Sys2Proof/Machine/ElementWise.lean ====
section
/-! DEFINITION. The element-wise chain (R108-R137): tensors, stages, masks, reductions, summaries and faults. -/

namespace Sys2Proof.Machine

/-! Tensor descriptors (Table 4.1). A tensor is its eight words. -/

def tX (d : List Word) : List Word := (d.drop 16).take 8
def tY (d : List Word) : List Word := (d.drop 24).take 8
def tZ (d : List Word) : List Word := (d.drop 32).take 8
def tO (d : List Word) : List Word := (d.drop 40).take 8

def tBase (t : List Word) : Nat := fld (nth t 0) 0 17
def tSrc (t : List Word) : Nat := fld (nth t 0) 17 2
def tRing (t : List Word) : Nat := fld (nth t 0) 19 4
def tFmt (t : List Word) : Nat := fld (nth t 0) 23 3
def tScale (t : List Word) : Nat := fld (nth t 1) 0 17
def tD (t : List Word) (i : Nat) : Nat :=
  match i with
  | 0 => fld (nth t 2) 0 16
  | 1 => fld (nth t 2) 16 16
  | 2 => fld (nth t 3) 0 16
  | 3 => fld (nth t 3) 16 16
  | _ => fld (nth t 4) 0 16
def tS (t : List Word) (i : Nat) : Int :=
  code 16 (match i with
    | 0 => fld (nth t 4) 16 16
    | 1 => fld (nth t 5) 0 16
    | 2 => fld (nth t 5) 16 16
    | 3 => fld (nth t 6) 0 16
    | _ => fld (nth t 6) 16 16)

def tRows (t : List Word) : Nat := tD t 1 * tD t 2 * tD t 3 * tD t 4
def tGroups (t : List Word) : Nat := ceilDiv (tD t 0) 8
def tNarrow (t : List Word) : Bool := decide (tFmt t = 2) || decide (tFmt t = 3)
def tBlocks (t : List Word) : Nat := ceilDiv (tD t 0) 32

/-- Bytes of an element; an I4 element takes a nibble of a byte. -/
def elemBytes (fmt : Nat) : Nat :=
  match fmt with
  | 0 => 4 | 1 => 2 | 2 => 1 | 3 => 1 | 4 => 4 | 5 => 2 | 6 => 24 | _ => 8

/-- Bytes of a row of elements, one after another. -/
def rowLen (t : List Word) : Nat := if tFmt t = 3 then (tD t 0 + 1) / 2 else elemBytes (tFmt t) * tD t 0

/-- R110, R111: the indices of row r. -/
def rowIdx (t : List Word) (r i : Nat) : Nat :=
  match i with
  | 1 => r % tD t 1
  | 2 => r / tD t 1 % tD t 2
  | 3 => r / (tD t 1 * tD t 2) % tD t 3
  | _ => r / (tD t 1 * tD t 2 * tD t 3)

/-- R112: the address of element i0 of row r. -/
def elemAddr (t : List Word) (r i0 : Nat) : Int :=
  (tBase t : Int) + (if tFmt t = 3 then ((i0 / 2 : Nat) : Int) else tS t 0 * i0 * elemBytes (tFmt t)) +
    4 * (tS t 1 * rowIdx t r 1 + tS t 2 * rowIdx t r 2 + tS t 3 * rowIdx t r 3 + tS t 4 * rowIdx t r 4)

/-- The lowest and highest element addresses: every index at the end that its stride makes lowest or highest. -/
def extent (t : List Word) : Int × Int :=
  let one (d : Nat) (s : Int) : Int × Int := let e := ((d - 1 : Nat) : Int) * s; (min 0 e, max 0 e)
  let d0 := if tFmt t = 3 then one ((tD t 0 + 1) / 2) 1 else one (tD t 0) (tS t 0 * elemBytes (tFmt t))
  [1, 2, 3, 4].foldl (fun p i => let q := one (tD t i) (4 * tS t i); (p.1 + q.1, p.2 + q.2)) (tBase t + d0.1, tBase t + d0.2)

def hasElems (t : List Word) : Bool := decide (0 < tD t 0) && decide (0 < tRows t)

/-- R112: every element and scale address lies in the scratchpad, aligned. -/
def extentOk (t : List Word) (scales : Bool) : Bool :=
  let e := extent t
  let al := match tFmt t with | 1 | 5 => 2 | 2 | 3 => 1 | _ => 4
  decide (tSrc t = 2) || !hasElems t ||
    ((decide (tSrc t = 1) || (decide (0 ≤ e.1) && decide (e.2 + elemBytes (tFmt t) ≤ spBytes) && decide (tBase t % al = 0))) &&
      (!(tNarrow t && scales) || decide (tScale t + tRows t * tBlocks t ≤ spBytes)))

def tensorRanges (t : List Word) (w scales : Bool) : List Range :=
  (if tSrc t = 0 ∧ hasElems t then
      [{ lo := (extent t).1.toNat, len := ((extent t).2 - (extent t).1).toNat + elemBytes (tFmt t), write := w }] else []) ++
  (if scales ∧ tNarrow t ∧ tSrc t ≠ 2 then [{ lo := tScale t, len := tRows t * tBlocks t, write := w }] else [])

/-! Stages (Tables 4.2 to 4.5). -/

def ecStages (d : List Word) : List Word := ((d.drop 8).take 8).takeWhile fun w => decide (kindOf w ≠ 0)
def srcB (w : Word) : Nat := fld w 8 3
def srcC (w : Word) : Nat := fld w 11 3
def regB (w : Word) : Nat := fld w 14 5
def regC (w : Word) : Nat := fld w 19 5
def argOf (w : Word) : Nat := fld w 24 8
def redDim (w : Word) : Nat := fld w 24 3
def redPartial (w : Word) : Bool := bit w 27

def ecRed (d : List Word) : Option Word := (ecStages d).find? fun w => decide (kindOf w = 5)
def ecLast (d : List Word) : Option Word := (ecStages d).getLast?
def ecUnpack (d : List Word) : Option Nat := (ecStages d).head?.bind fun w => if kindOf w = 8 then some (subOf w) else none

def needsB (w : Word) : Bool :=
  match kindOf w with
  | 1 => decide (subOf w ≠ 7) && decide (subOf w ≠ 8)
  | 3 | 4 => true
  | 6 => decide (subOf w = 3) || decide (subOf w = 4)
  | 10 => decide (subOf w ≤ 2)
  | _ => false

def needsC (w : Word) : Bool := decide (kindOf w = 1) && decide (subOf w = 4)

/-- A source that names a tensor names one that is there. -/
def sourceOk (d : List Word) (src : Nat) : Bool :=
  decide (src ≠ 7) && decide (src = 1 → tSrc (tY d) ≠ 2) && decide (src = 2 → tSrc (tZ d) ≠ 2)

def partialAllowed (sub : Nat) : Bool := decide (sub ∈ [0, 1, 3, 4, 5, 8])

/-- The tensors that the operation reads beside X. -/
def usesSrc (d : List Word) (n : Nat) : Bool := (ecStages d).any fun w => decide (srcB w = n) || decide (srcC w = n)

/-- R114, R128: the operation reads X's block scales, unless UNPACK 0 alone reads X. -/
def ecXScales (d : List Word) : Bool := decide (ecUnpack d ≠ some 0) || usesSrc d 5

/-- R119, R126: one stage in its place. -/
def ecStageOk (d : List Word) (i n : Nat) (w : Word) : Bool :=
  let before := (ecStages d).take i
  let x := tX d
  (if needsB w then decide (srcB w ≠ 0) && sourceOk d (srcB w) else decide (srcB w = 0)) &&
  (if needsC w then decide (srcC w ≠ 0) && sourceOk d (srcC w) else decide (srcC w = 0)) &&
  (decide (kindOf w = 5) || decide (argOf w = 0)) &&
  match kindOf w with
  | 1 => decide (subOf w ≤ 9)
  | 2 => fnCodeOk (subOf w)
  | 3 => decide (subOf w ≤ 5)
  | 4 => decide (subOf w ≤ 1) && before.any fun v => decide (kindOf v = 3)
  | 5 => decide (subOf w ≤ 10) && (before.all fun v => decide (kindOf v ≠ 5)) && decide (1 ≤ redDim w) && decide (redDim w ≤ 5) &&
      decide (argOf w < 16) && (!redPartial w || partialAllowed (subOf w)) &&
      decide (subOf w = 9 ↔ tFmt x = 7) && decide (subOf w = 10 ↔ tFmt x = 6)
  | 6 => decide (subOf w ≤ 4) && decide (i + 1 = n)
  | 7 => decide (subOf w ≤ 2) && decide (i + 1 = n)
  | 8 => decide (subOf w ≤ 1) && decide (i = 0) && tNarrow x
  | 9 => decide (subOf w ≤ 5) &&
      (decide (subOf w = 3 ∨ subOf w = 4 → tD x 0 % 16 = 0)) && decide (subOf w = 5 → tD x 0 = 8 ∧ tD x 1 % 8 = 0)
  | 10 => decide (subOf w ≤ 4)
  | _ => false

/-- R120: the format of O after the last stage. A descriptor whose first stage word has KIND 0 holds no stage, and is taken
as a copy of X to an F32 O (log entry 87). -/
def outFmtOk (d : List Word) : Bool :=
  let f := tFmt (tO d)
  match ecLast d with
  | none => decide (f = 0)
  | some w =>
    match kindOf w, subOf w with
    | 6, 0 | 6, 3 | 7, 0 => decide (f = 2)
    | 6, 1 | 6, 4 | 7, 1 => decide (f = 3)
    | 6, 2 | 7, 2 => decide (f = 1)
    | _, _ => decide (f = 0)

def ecDerives (d : List Word) : Bool := (ecLast d).any fun w => decide (kindOf w = 6) && decide (subOf w ≤ 1)

def tensorOk (t : List Word) : Bool :=
  decide (tSrc t ≠ 3) && decide (fld (nth t 0) 26 6 = 0) && decide (fld (nth t 1) 17 15 = 0) && decide (nth t 7 = 0)

def countsOk (x t : List Word) : Bool :=
  decide (tSrc t = 2) || ([0, 1, 2, 3, 4].all fun i => decide (tD t i = tD x i)) &&
    (decide (tFmt t ∉ [2, 3, 6, 7]) || decide (tSrc t = 1) || decide (tS t 0 = 1))

/-- R112, R119, R120: ENCODING. -/
def ecEncoding (d : List Word) : Bool :=
  let st := ecStages d
  let x := tX d
  let ts := [x, tY d, tZ d, tO d]
  !((List.range st.length).all fun i => ecStageOk d i st.length (nth st i)) ||
  decide (fld (nth d 0) 7 25 ≠ 0) || decide (fld (nth d 1) 17 15 ≠ 0) ||
  !([2, 3, 4, 5, 6, 7].all fun i => decide (nth d i = 0)) || !(ts.all tensorOk) || !(ts.all (countsOk x)) ||
  decide (tSrc x = 2) || !([1, 2, 3, 4].all fun i => decide (1 ≤ tD x i)) ||
  (decide (tFmt x ∈ [6, 7]) && (ecRed d).isNone) || (ts.tail.any fun t => decide (tSrc t ≠ 2 ∧ tFmt t ∈ [6, 7])) ||
  (if tSrc (tO d) = 2 then (ecRed d).isNone else !outFmtOk d) ||
  !(extentOk x (ecXScales d) && extentOk (tY d) true && extentOk (tZ d) true && extentOk (tO d) (ecDerives d))

/-- R129, R131: how many results RED writes and their size. -/
def redResultBytes (w : Word) : Nat :=
  if redPartial w then (if subOf w ≤ 1 then 24 else if subOf w = 8 then 8 else 4) else 4

def redLeaves (t : List Word) (w : Word) : Nat := ((List.range (redDim w)).map (tD t)).foldl (· * ·) 1
def redGroups (t : List Word) (w : Word) : Nat := ((List.range 5).drop (redDim w)).map (tD t) |>.foldl (· * ·) 1

/-- R130, R131: a partial product or log-sum-exp is written for each segment. -/
def redPerGroup (t : List Word) (w : Word) : Nat :=
  if redPartial w ∧ (subOf w = 3 ∨ subOf w = 8) then max 1 (ceilDiv (redLeaves t w) 4096) else 1

def redAddr (d : List Word) : Nat := fld (nth d 1) 0 17

def ecRegs (d : List Word) : List Nat :=
  (ecStages d).flatMap fun w =>
    (if srcB w = 3 ∨ srcB w = 4 ∨ (kindOf w = 9 ∧ (subOf w = 0 ∨ subOf w = 2)) then [regB w] else []) ++
    (if srcC w = 3 ∨ srcC w = 4 then [regC w] else [])

def ecPlan (_s : State) (_k : Core) (o : Op) : Plan :=
  let d := o.desc
  let opnd (t : List Word) (on : Bool) : List Range := if on then tensorRanges t false true else []
  let ring (t : List Word) (on : Bool) : List Nat := if on && decide (tSrc t = 1) then [tRing t] else []
  { ranges := tensorRanges (tX d) false (ecXScales d) ++ opnd (tY d) (usesSrc d 1) ++ opnd (tZ d) (usesSrc d 2) ++
      tensorRanges (tO d) true (ecDerives d) ++
      (match ecRed d with
        | some w => [{ lo := redAddr d, len := redResultBytes w * redPerGroup (tX d) w * redGroups (tX d) w, write := true }]
        | none => [])
    reads := ring (tX d) true ++ ring (tY d) (usesSrc d 1) ++ ring (tZ d) (usesSrc d 2)
    writes := ring (tO d) true
    regs := ecRegs d
    tensors := if (ecLast d).any fun w => decide (kindOf w = 6) || decide (kindOf w = 7) then 1 else 0
    check := if ecEncoding d then some 3 else none }

/-- R109: the EC takes its next operation once the one before has read its last lane group. -/
def ecTakes (k : Core) (_ : List Word) : Bool := (unitOps k 1).all (·.ended)

def execIssueEc (core : CoreId) (rd ra rb : RegId) (s : State) : Out :=
  issueUnit 1 192 32 ecTakes noChains ecPlan (fun k _ => k) core rd ra rb s

/-! Reading elements (R114, R128). -/

/-- The bytes of an element, or of the byte that holds its nibble. -/
def elemRead (k : Core) (o : Op) (t : List Word) (r i0 : Nat) : List Byte :=
  let n := elemBytes (tFmt t)
  if tSrc t = 1 then srcRead k o { ring := some (tRing t), base := 0 } (r * rowLen t + if tFmt t = 3 then i0 / 2 else n * i0) n
  else spRead k (elemAddr t r i0).toNat n

/-- The number that an element of U32 or U16 holds, or a narrow code. -/
def elemNat (k : Core) (o : Op) (t : List Word) (r i0 : Nat) : Nat := leNat (elemRead k o t r i0)

def elemCode (k : Core) (o : Op) (t : List Word) (r i0 : Nat) : Int :=
  let v := elemNat k o t r i0
  if tFmt t = 3 then code 4 (v >>> (4 * (i0 % 2))) else code 8 v

def elemScale (k : Core) (t : List Word) (r i0 : Nat) : Nat := (memGet k.sp (tScale t + r * tBlocks t + i0 / 32)).toNat

/-- R114, R128: an element as F32. -/
def elemVal (k : Core) (o : Op) (t : List Word) (unpack : Option Nat) (r i0 : Nat) : N Word :=
  match tFmt t with
  | 0 => pure (enter (BitVec.ofNat 32 (elemNat k o t r i0)))
  | 1 => pure (f16to32 (BitVec.ofNat 16 (elemNat k o t r i0)))
  | 4 | 5 => rnd (elemNat k o t r i0)
  | 6 | 7 => pure 0
  | _ =>
    match unpack with
    | some 0 => rnd (elemCode k o t r i0)
    | some _ => rnd (e8val (elemScale k t r i0))
    | none => rnd (elemCode k o t r i0 * e8val (elemScale k t r i0))

/-! Lanes. -/

structure Lane where
  v : Word
  pred : Bool
  cond : Bool
  raw : Nat
  ev : Ev
  deriving DecidableEq, Repr

def tailLane : Lane := { v := 0, pred := false, cond := false, raw := 0, ev := Ev.init }

/-- R111: the lanes of row r as read, tail lanes included. Before any CMP a lane's condition is false (log entry 88). -/
def readRow (k : Core) (o : Op) (r : Nat) : List Lane :=
  let x := tX o.desc
  (List.range (8 * tGroups x)).map fun i =>
    if i < tD x 0 then
      let p := (elemVal k o x (ecUnpack o.desc) r i).run Ev.init
      { v := p.1, pred := true, cond := false, raw := elemNat k o x r i, ev := p.2 }
    else tailLane

/-- An operand of a stage at row r, lane i: as F32, and as the unsigned integer of MASK (R117, R123). -/
def sourceVal (k : Core) (o : Op) (src reg r i : Nat) : N Word :=
  let d := o.desc
  match src with
  | 1 => if i < tD (tX d) 0 then elemVal k o (tY d) none r i else pure 0
  | 2 => if i < tD (tX d) 0 then elemVal k o (tZ d) none r i else pure 0
  | 3 => pure (enter (nth o.regs reg))
  | 4 => rnd (nth o.regs reg).toNat
  | 5 => if i < tD (tX d) 0 then elemVal k o (tX d) none r i else pure 0
  | 6 => rnd i
  | _ => pure 0

/-- R123: B as an unsigned integer; of another source, its F32 value rounded (log entry 21). -/
def sourceNat (k : Core) (o : Op) (src reg r i : Nat) : Nat :=
  let d := o.desc
  let f (w : Word) : Nat := if isNeg w then 0 else (f2iWord w).toNat
  let t (x : List Word) : Nat := if tFmt x = 4 ∨ tFmt x = 5 then elemNat k o x r i else f ((elemVal k o x none r i).run Ev.init).1
  match src with
  | 1 => t (tY d)
  | 2 => t (tZ d)
  | 4 => (nth o.regs reg).toNat
  | 6 => i
  | _ => f ((sourceVal k o src reg r i).run Ev.init).1

/-- R121: the ALU. -/
def aluOp (sub : Nat) (v b c : Word) : N Word :=
  match sub with
  | 0 => fadd v b
  | 1 => fsub v b
  | 2 => fsub b v
  | 3 => fmul v b
  | 4 => fma v b c
  | 5 => pure (fminw v b)
  | 6 => pure (fmaxw v b)
  | 7 => pure (fabs v)
  | 8 => pure (fneg v)
  | _ => pure b

/-- R122: comparisons; with a NaN only ne is true. -/
def cmpOp (sub : Nat) (v b : Word) : Bool :=
  if isNan v || isNan b then decide (sub = 1)
  else
    let x := f32val v
    let y := f32val b
    match sub with
    | 0 => decide (x = y)
    | 1 => decide (x ≠ y)
    | 2 => decide (x < y)
    | 3 => decide (x ≤ y)
    | 4 => decide (y < x)
    | _ => decide (y ≤ x)

/-- A stage on one lane. -/
def laneStage (k : Core) (o : Op) (w : Word) (r i : Nat) (l : Lane) : Lane :=
  let x := tX o.desc
  match kindOf w with
  | 1 =>
    let p := (do
      let b ← sourceVal k o (srcB w) (regB w) r i
      let c ← sourceVal k o (srcC w) (regC w) r i
      aluOp (subOf w) l.v b c : N Word).run l.ev
    { l with v := p.1, ev := p.2 }
  | 2 => let p := (fn (subOf w) l.v).run l.ev; { l with v := p.1, ev := p.2 }
  | 3 => let p := (sourceVal k o (srcB w) (regB w) r i).run l.ev; { l with cond := cmpOp (subOf w) l.v p.1, ev := p.2 }
  | 4 =>
    let p := (sourceVal k o (srcB w) (regB w) r i).run l.ev
    if l.cond = decide (subOf w = 0) then l else { l with v := p.1, ev := p.2 }
  | 10 =>
    let b := sourceNat k o (srcB w) (regB w) r i
    match subOf w with
    | 0 => let p := (sourceVal k o (srcB w) (regB w) r i).run l.ev; { l with pred := l.pred && !isZero p.1, ev := p.2 }
    | 1 => { l with pred := l.pred && decide (i < b) }
    | 2 => { l with pred := l.pred && decide (i ≤ rowIdx x r 1 + b) }
    | 3 => { l with pred := l.pred && l.cond }
    | _ => { l with pred := !l.pred && decide (i < tD x 0) }
  | _ => l

/-- R126: values and predicates move together; the condition stays with its lane. -/
def moveLane (src dst : Lane) : Lane := { src with cond := dst.cond }

/-- R126: the lane that lane i of row r takes its value from: row and lane. -/
def permFrom (o : Op) (w : Word) (r i : Nat) : Nat × Nat :=
  let reg := (nth o.regs (regB w)).toNat
  let g := i / 8 * 8
  let p := i / 16 * 16
  match subOf w with
  | 0 => (r, g + (reg >>> (3 * (i % 8))) % 8)
  | 1 => (r, g + 7 - i % 8)
  | 2 => (r, g + (i + reg) % 8)
  | 3 => (r, p + if i % 16 < 8 then 2 * (i % 16) else 2 * (i % 16 - 8) + 1)
  | 4 => (r, p + if i % 2 = 0 then i % 16 / 2 else 8 + i % 16 / 2)
  | _ => (r / 8 * 8 + i % 8, r % 8)

def laneAt (rows : List (List Lane)) (r i : Nat) : Lane := (rows.getD r []).getD i tailLane

/-- A stage on the whole tensor. -/
def stageRows (k : Core) (o : Op) (rows : List (List Lane)) (w : Word) : List (List Lane) :=
  rows.mapIdx fun r l => l.mapIdx fun i x =>
    if kindOf w = 9 then (let p := permFrom o w r i; moveLane (laneAt rows p.1 p.2) x) else laneStage k o w r i x

/-- The rows as they enter RED, and as they leave the last stage before CVT or PACK. -/
def runStages (k : Core) (o : Op) (rows : List (List Lane)) : List (List Lane) × List (List Lane) :=
  (ecStages o.desc).foldl (fun (p : List (List Lane) × List (List Lane)) w =>
    if kindOf w = 5 then (p.2, p.2) else (p.1, stageRows k o p.2 w)) ([], rows)

/-! Reductions (R129-R131, R56, R57, R61). -/

/-- R38: every term of a sum is -0: a -0, or a negative value that rounds to a zero term. -/
def sumNegZero (vs : List Word) (ts : List Int) : Bool := !vs.isEmpty && vs.all isNeg && ts.all fun x => decide (x = 0)

/-- The exact sum of F32 terms, clamped, and whether it is -0. -/
def exactSum (vs : List Word) : N (Int × Bool) := do
  let ts ← vs.mapM fun v => redTerm (f32val v)
  let c ← accClamp (ts.foldl (· + ·) 0)
  return (c, sumNegZero vs ts)

/-- A sum read out with its sign. -/
def readSum (x : Int × Bool) : N Word := if x.2 then pure negZero else readOut x.1

/-- Exact sum of F32 terms, clamped and rounded once; a NaN term gives a NaN. -/
def exactSumF (vs : List Word) : N Word :=
  if vs.any isNan then pure qnan
  else do
    let s ← exactSum vs
    readSum s

def maxOf (vs : List Word) : Word := vs.foldl fmaxw negF32max
def minOf (vs : List Word) : Word := vs.foldl fminw f32max

/-- R44: the index of the winner: the first NaN, else the first of the largest. -/
def argOfList (less : Word → Word → Bool) (l : List (Nat × Word)) : Word :=
  match l.find? fun p => isNan p.2 with
  | some p => BitVec.ofNat 32 p.1
  | none =>
    match l with
    | [] => 0xFFFFFFFF
    | p :: r => BitVec.ofNat 32 (r.foldl (fun m q => if less m.2 q.2 then q else m) p).1

abbrev Ml := Word × Word

/-- R130. -/
def lseSegment (xs : List Word) : N Ml :=
  if xs.isEmpty then pure (negF32max, 0)
  else do
    let m := maxOf xs
    let ps ← xs.mapM fun x => do
      let t ← fsub x m
      fn 1 t
    let l ← exactSumF ps
    return (m, l)

def lseCombine (a b : Ml) : N Ml :=
  if isZero a.2 then pure b
  else if isZero b.2 then pure a
  else do
    let m := fmaxw a.1 b.1
    let d1 ← fsub a.1 m
    let e1 ← fn 1 d1
    let t1 ← fmul a.2 e1
    let d2 ← fsub b.1 m
    let e2 ← fn 1 d2
    let t2 ← fmul b.2 e2
    let l ← fadd t1 t2
    return (m, l)

def lseFinal (p : Ml) : N Word :=
  if isZero p.2 then pure negF32max
  else do
    let g ← fn 2 p.2
    fadd p.1 g

def segments {α : Type} : Nat → List α → List (List α)
  | 0, l => [l]
  | f + 1, l => if l.length ≤ 4096 then [l] else l.take 4096 :: segments f (l.drop 4096)

def prodTree (vs : List Word) : N Word := do
  let r ← canonicalTree fmul vs
  return r.getD f32one

/-- A result of RED: its bytes (`none` where a NaN leaves an exact partial unstated), whether it is over no elements, and
whether it is a NaN. -/
structure RedResult where
  bytes : Option (List Byte)
  empty : Bool
  nan : Bool
  deriving DecidableEq, Repr

def wordResult (w : Word) (empty : Bool) : RedResult := { bytes := some (leBytes 4 w.toNat), empty := empty, nan := isNan w }

/-- An index, which is no NaN whatever its bits. -/
def indexResult (w : Word) (empty : Bool) : RedResult := { bytes := some (leBytes 4 w.toNat), empty := empty, nan := false }

def pairResult (p : Ml) (empty : Bool) : RedResult :=
  { bytes := some (leBytes 4 p.1.toNat ++ leBytes 4 p.2.toNat), empty := empty, nan := isNan p.1 || isNan p.2 }

/-- SUM and SUMSQ (R56). -/
def reduceSum (w : Word) (vs : List Word) : N RedResult :=
  let none? := vs.isEmpty
  if vs.any isNan then
    pure { bytes := if redPartial w then none else some (leBytes 4 qnan.toNat), empty := none?, nan := true }
  else do
    let ts ← vs.mapM fun v => redTerm (if subOf w = 1 then f32val v * f32val v else f32val v)
    let sum := ts.foldl (· + ·) 0
    if redPartial w then return { bytes := some (exBytes 24 sum), empty := none?, nan := false }
    else do
      let c ← accClamp sum
      let y ← readSum (c, decide (subOf w = 0) && sumNegZero vs ts)
      return wordResult y none?

/-- One group of leaves: its results. -/
def reduce (w : Word) (leaves : List Lane) : N (List RedResult) := do
  let act := leaves.filter (·.pred)
  let vs := act.map (·.v)
  let none? := vs.isEmpty
  let segs := (segments leaves.length leaves).map fun s => (s.filter (·.pred)).map (·.v)
  match subOf w with
  | 0 | 1 => do
    let r ← reduceSum w vs
    return [r]
  | 2 =>
    if none? then return [wordResult 0 true]
    else if vs.any isNan then return [wordResult qnan false]
    else do
      let c ← exactSum vs
      let y ← if c.2 then pure negZero else rnd (accVal c.1 / (vs.length : Nat))
      return [wordResult y false]
  | 3 => do
    let ps ← segs.mapM prodTree
    if redPartial w then return (List.range ps.length).map fun i => wordResult (nth ps i) (segs.getD i []).isEmpty
    else do
      let y ← prodTree ps
      return [wordResult y none?]
  | 4 => return [wordResult (if vs.any isNan then qnan else maxOf vs) none?]
  | 5 => return [wordResult (if vs.any isNan then qnan else minOf vs) none?]
  | 6 | 7 =>
    let ix := ((List.range leaves.length).zip leaves).filter (fun p => p.2.pred) |>.map fun p => (p.1, p.2.v)
    return [indexResult (argOfList (if subOf w = 6 then flt else fun a b => flt b a) ix) none?]
  | 8 => do
    let ps ← segs.mapM lseSegment
    if redPartial w then return (List.range ps.length).map fun i => pairResult (ps.getD i (0, 0)) (segs.getD i []).isEmpty
    else do
      let r ← canonicalTree lseCombine ps
      let y ← lseFinal (r.getD (negF32max, 0))
      return [wordResult y none?]
  | 9 => do
    let ps := act.map fun l => (enter (BitVec.ofNat 32 l.raw), enter (BitVec.ofNat 32 (l.raw / 2 ^ 32)))
    let r ← canonicalTree lseCombine ps
    let z := r.getD (negF32max, 0)
    let y ← lseFinal z
    return [wordResult y (isZero z.2)]
  | _ => do
    let s := (act.map fun l => code 136 l.raw).foldl (· + ·) 0
    let c ← accClamp s
    let y ← readOut c
    return [wordResult y none?]

/-- R111, R129: the leaves in linear order, cut into the groups that RED writes. -/
def redLists (x : List Word) (w : Word) (rows : List (List Lane)) : List (List Lane) :=
  let flat := rows.flatMap fun l => l.take (tD x 0)
  let n := redLeaves x w
  (List.range (redGroups x w)).map fun g => (flat.drop (g * n)).take n

/-! What stands in the way of a lane group (R135, R136). -/

/-- Why a lane group cannot be processed: what stands in the way of its reads and writes, with the stall cause of a wait; or
a failing block of an operand. -/
inductive GroupStop where
  | ready (r : Ready) (cause : Nat) | scale (operand cause : Nat)
  deriving DecidableEq, Repr

/-- How many elements lane group g of a row has. -/
def groupLen (t : List Word) (g : Nat) : Nat := min 8 (tD t 0 - 8 * g)

/-- The byte of a ring-fed or ring-written tensor at which lane group g of row r begins. -/
def groupOff (t : List Word) (r g : Nat) : Nat := r * rowLen t + if tFmt t = 3 then 4 * g else 8 * g * elemBytes (tFmt t)

/-- R227, R231, R280: one operand of one lane group. -/
def operandReady (k : Core) (o : Op) (t : List Word) (scales : Bool) (r g : Nat) : Ready :=
  let n := groupLen t g
  let sc := if tNarrow t && scales && decide (0 < n) then spReady k o (tScale t + r * tBlocks t + g / 4) 1 else .ok
  if tSrc t = 1 then
    (srcReady k o { ring := some (tRing t), base := 0 } (groupOff t r g) (if tFmt t = 3 then (n + 1) / 2 else n * elemBytes (tFmt t))).and sc
  else (allReady ((List.range n).map fun i => spReady k o (elemAddr t r (8 * g + i)).toNat (elemBytes (tFmt t)))).and sc

/-- R85, R135: the block of an operand that the lane group needs fails. -/
def operandFault (k : Core) (o : Op) (t : List Word) (operand : Nat) (scales : Bool) (r g : Nat) : Option GroupStop :=
  let bb := codeBytes (if tFmt t = 3 then 1 else 0) 32
  if !tNarrow t || decide (groupLen t g = 0) then none
  else if decide (tSrc t = 1) && skewed o { ring := some (tRing t), base := 0 } (rowLen t) bb (r * rowLen t + g / 4 * bb) (g / 4) then
    some (.scale operand 15)
  else if scales && decide (elemScale k t r (8 * g) = 255) then some (.scale operand 2)
  else none

/-- How many rows make one result of RED. -/
def redRows (x : List Word) (w : Word) : Nat := (((List.range (redDim w)).drop 1).map (tD x)).foldl (· * ·) 1

/-- R227: what the lane group writes by address: its elements of O, the scale of a block that it ends, the result of RED
that it ends. -/
def outState (k : Core) (o : Op) (r g : Nat) : List Ready :=
  let d := o.desc
  let x := tX d
  let t := tO d
  let ends := decide (g + 1 = max 1 (tGroups x))
  (if tSrc t ≠ 0 then [] else (List.range (groupLen t g)).map fun i => spOutReady k (elemAddr t r (8 * g + i)).toNat (elemBytes (tFmt t))) ++
  (if ecDerives d && decide (tSrc t ≠ 2) && decide (0 < groupLen x g) && (ends || decide (g % 4 = 3))
    then [spOutReady k (tScale t + r * tBlocks x + g / 4) 1] else []) ++
  (match ecRed d with
    | some w => if ends && decide ((r + 1) % redRows x w = 0) then
        [spOutReady k (redAddr d + redResultBytes w * redPerGroup x w * (r / redRows x w)) (redResultBytes w * redPerGroup x w)] else []
    | none => [])

def groupStop (k : Core) (o : Op) (r g : Nat) : Option GroupStop :=
  let d := o.desc
  let ts := [(tX d, 0, ecXScales d)] ++ (if usesSrc d 1 then [(tY d, 1, true)] else []) ++ (if usesSrc d 2 then [(tZ d, 2, true)] else [])
  match worstReady false (ts.map (fun t => operandReady k o t.1 t.2.2 r g) ++ outState k o r g) with
  | (.ok, _) => ts.findSome? fun t => operandFault k o t.1 t.2.1 t.2.2 r g
  | (x, cause) => some (.ready x cause)

/-- The lane groups in loop order; a row of no elements is one group. -/
def groupList (x : List Word) : List (Nat × Nat) :=
  (List.range (tRows x)).flatMap fun r => (List.range (max 1 (tGroups x))).map fun g => (r, g)

/-- The first group that cannot be processed, with its number in loop order. -/
def firstStop (k : Core) (o : Op) : Option (Nat × Nat × Nat × GroupStop) :=
  let gs := groupList (tX o.desc)
  (List.range gs.length).findSome? fun i =>
    let p := gs.getD i (0, 0)
    (groupStop k o p.1 p.2).map fun st => (i, p.1, p.2, st)

def ecPull (k : Core) (o : Op) : Core :=
  let d := o.desc
  let one (k : Core) (t : List Word) (on : Bool) : Core :=
    if on && decide (tSrc t = 1) then pullRing k o.id (tRing t) (tRows t * rowLen t) else k
  one (one (one k (tX d) true) (tY d) (usesSrc d 1)) (tZ d) (usesSrc d 2)

/-! Output. -/

/-- R127: the code of a lane under a scale. -/
def scaledCode (q : Nat) (v b : Word) : N Int :=
  if isNan b || isNeg b || isZero b then do countOvf; return 0 else quantise v (f32val b) q

/-- R39, R69: a lane's code under a scale. In a layer that runs in a wider format the conversion is to that format, whose
saturations count; what stands in the narrow tensor's place is unstated (log entry 16). -/
def laneCode (fmt : Nat) (wide : BitVec 2) (scale : Option Word) (v : Word) : N Int :=
  let t := wideTarget fmt wide
  let one (q : Nat) : N Int := match scale with | some b => scaledCode q v b | none => quantise v 1 q
  if t = fmt then one (qOf fmt)
  else do
    if t = 2 then let _ ← cvtF16 v else let _ ← one (qOf t)
    return holdCode (qOf fmt) (Config.wideCode t (v :: scale.toList) 0)

/-- R41, R69: a block under its derived scale: for each lane its code with its conditions, and the scale. -/
def laneBlock (fmt : Nat) (wide : BitVec 2) (xs : List Lane) : List (Int × Ev) × Nat :=
  let act := (xs.filter (·.pred)).map (·.v)
  let t := wideTarget fmt wide
  let e := deriveE8 (amaxOf act) (qOf t)
  let one (i : Nat) (l : Lane) : Int × Ev := (do
    let c ← if t = 2 then (do let _ ← cvtF16 l.v; return (0 : Int))
      else if e = 0 then (do (if isNan l.v then markNan else pure ()); return (0 : Int)) else quantise l.v (e8val e) (qOf t)
    return (if t = fmt then c else holdCode (qOf fmt) (Config.wideCode t (xs.map (·.v)) i)) : N Int).run l.ev
  (xs.mapIdx one, if t = fmt then e else Config.wideScale t act % 255)

/-- The output values of a row, before masking: an F32 or F16 word or a code, and the conditions; for derived blocks
also the scales. -/
def outRow (k : Core) (o : Op) (r : Nat) (lanes : List Lane) : List (Nat × Ev) × List Nat :=
  let d := o.desc
  let n := tD (tX d) 0
  let ls := lanes.take n
  let plain (f : Nat → Lane → N Nat) : List (Nat × Ev) × List Nat :=
    (ls.mapIdx fun i l => (let p := (f i l).run l.ev; (p.1, capEv p.2 l.v)), [])
  let byte (c : Int) : Nat := (Int.emod c 256).toNat
  match ecLast d with
  | some w =>
    match kindOf w, subOf w with
    | 6, 0 | 6, 1 =>
      let bl := (List.range (tBlocks (tX d))).map fun b => laneBlock (subOf w) o.wideFmt ((ls.drop (32 * b)).take 32)
      ((bl.flatMap (·.1)).mapIdx (fun i c => (byte c.1, capEv c.2 (ls.getD i tailLane).v)), bl.map (·.2))
    | 6, 3 | 6, 4 => plain fun i l => do
        let b ← sourceVal k o (srcB w) (regB w) r i
        let c ← laneCode (subOf w - 3) o.wideFmt (some b) l.v
        return byte c
    | 7, 0 | 7, 1 => plain fun _ l => do
        let c ← laneCode (subOf w) o.wideFmt none l.v
        return byte c
    | 6, 2 | 7, 2 => plain fun _ l => do
        let h ← cvtF16 l.v
        return h.toNat
    | _, _ => plain fun _ l => pure l.v.toNat
  | none => plain fun _ l => pure l.v.toNat

def isNarrowOut (d : List Word) : Bool := decide (tFmt (tO d) = 2) || decide (tFmt (tO d) = 3)

/-- R137: an element of O that overlaps an operand in another way than by being X itself. -/
def overlapX (d : List Word) (a n : Nat) : Bool :=
  let same := decide (tBase (tO d) = tBase (tX d)) && decide (tFmt (tO d) = tFmt (tX d)) &&
    ([0, 1, 2, 3, 4].all fun i => decide (tS (tO d) i = tS (tX d) i))
  let hits (t : List Word) : Bool := decide (tSrc t = 0) && decide ((extent t).1 < (a + n : Nat)) &&
    decide ((a : Int) < (extent t).2 + elemBytes (tFmt t)) &&
    (List.range (tRows t)).any fun r => (List.range (tD t 0)).any fun i =>
      overlaps (elemAddr t r i).toNat (elemBytes (tFmt t)) a n
  (!same && hits (tX d)) || (usesSrc d 1 && hits (tY d)) || (usesSrc d 2 && hits (tZ d))

/-- R33, R124: one element of O in scratchpad. The byte of an odd I4 tail has 0 above its code. -/
def writeElem (k : Core) (o : Op) (free : Nat → Nat) (r i : Nat) (v : Nat) (pred : Bool) : Core :=
  let d := o.desc
  let t := tO d
  let a := (elemAddr t r i).toNat
  let n := elemBytes (tFmt t)
  if !pred && !bit (nth d 0) 0 then k
  else
    let v := if pred then v else 0
    if overlapX d a n then opWrite k o a (leBytes n (free (r * tD t 0 + i)))
    else if tFmt t = 3 then
      let b := (memGet k.sp a).toNat
      let nb := if i + 1 = tD t 0 ∧ i % 2 = 0 then v % 16 else if i % 2 = 0 then b / 16 * 16 + v % 16 else b % 16 + 16 * (v % 16)
      opWrite k o a [BitVec.ofNat 8 nb]
    else opWrite k o a (leBytes n v)

/-- R115: a row of O for a ring; a masked element that keeps its old value is unstated in a new slot. -/
def ringRow (o : Op) (free : Nat → Nat) (r : Nat) (vs : List (Nat × Bool)) : List Byte :=
  let d := o.desc
  let t := tO d
  let one (i : Nat) : Nat :=
    let p := vs.getD i (0, false)
    if p.2 then p.1 else if bit (nth d 0) 0 then 0 else free (r * tD t 0 + i)
  if tFmt t = 3 then packI4 ((List.range vs.length).map fun i => ((one i % 16 : Nat) : Int))
  else (List.range vs.length).flatMap fun i => leBytes (elemBytes (tFmt t)) (one i)

/-- How many lane groups have passed a list of stages with the first n read: CVT waits for a block, PERM for its pair or run. -/
def wholeGroups (d st : List Word) (n : Nat) : Nat :=
  let g := max 1 (tGroups (tX d))
  let row := n / g * g
  let inRow := n % g
  let pairs := st.any fun w => decide (kindOf w = 9 ∧ (subOf w = 3 ∨ subOf w = 4))
  let runs := st.any fun w => decide (kindOf w = 9 ∧ subOf w = 5)
  if n = tRows (tX d) * g then n
  else if runs then n / 8 * 8
  else if st.any fun w => decide (kindOf w = 6 ∧ subOf w ≤ 1) then row + inRow / 4 * 4
  else if pairs then row + inRow / 2 * 2
  else n

/-- The stages before RED. -/
def beforeRed (d : List Word) : List Word := (ecStages d).takeWhile fun w => decide (kindOf w ≠ 5)

/-- R113: the 32-byte lines that a list of byte ranges touches, beyond the first. -/
def extraLines (l : List (Nat × Nat)) : Nat :=
  ((l.flatMap fun (p : Nat × Nat) => (List.range ((p.1 + p.2 - 1) / 32 + 1 - p.1 / 32)).map fun i => p.1 / 32 + i).eraseDups).length - 1

/-- The bytes that elements of lane group g of row r of a tensor take; a ring's slots lie on lines of their own. -/
def groupBytes (t : List Word) (r g : Nat) (on : Nat → Bool) : List (Nat × Nat) :=
  let n := elemBytes (tFmt t)
  (((List.range (groupLen t g)).map (8 * g + ·)).filter on).map fun i =>
    (if tSrc t = 1 then r * rowLen t + (if tFmt t = 3 then i / 2 else n * i) else (elemAddr t r i).toNat, n)

/-- R113: the extra cycles of a lane group's reads. -/
def readExtra (d : List Word) (r g : Nat) : Nat :=
  let one (t : List Word) (on : Bool) : Nat := if on then extraLines (groupBytes t r g fun _ => true) else 0
  one (tX d) true + one (tY d) (usesSrc d 1) + one (tZ d) (usesSrc d 2)

/-- What a processed part of an operation does: the core after its writes, the conditions of its active lanes and
results, saturated and quantised elements, the results of RED, whether an active output is 0x7FC00000, and the bank-conflict
cycles. -/
structure EcRun where
  core : Core
  ev : Ev
  sat : Nat
  quant : Nat
  results : List (List Byte × Bool × Bool)
  nanOut : Bool
  extra : Nat
  deriving DecidableEq, Repr

/-- R365: the first n lane groups read a byte under a set poison bit. -/
def ecPoisoned (k : Core) (d : List Word) (n : Nat) : Bool :=
  ((groupList (tX d)).take n).any fun p =>
    [(tX d, ecXScales d, true), (tY d, true, usesSrc d 1), (tZ d, true, usesSrc d 2)].any fun q =>
      let t := q.1
      q.2.2 && ((decide (tSrc t = 0) && (List.range (groupLen t p.2)).any fun i =>
        spPoisoned k (elemAddr t p.1 (8 * p.2 + i)).toNat (elemBytes (tFmt t))) ||
      (q.2.1 && tNarrow t && decide (0 < groupLen t p.2) && spPoisoned k (tScale t + p.1 * tBlocks t + p.2 / 4) 1))

/-- R124: the elements of row r that the first `done` lane groups write: index, value, predicate, conditions. -/
def doneElems (d : List Word) (done r : Nat) (lanes : List Lane) (out : List (Nat × Ev)) : List (Nat × Nat × Bool × Ev) :=
  let g := max 1 (tGroups (tX d))
  ((List.range (tD (tX d) 0)).filter fun i => decide (r * g + i / 8 < done)).map fun i =>
    let e := out.getD i (0, Ev.init)
    (i, e.1, (lanes.getD i tailLane).pred, e.2)

/-- The elements of O that are processed go to their place. -/
def writeOut (k : Core) (o : Op) (free : Nat → Nat) (outs : List (List (Nat × Nat × Bool × Ev) × List Nat)) (done : Nat) : Core :=
  let d := o.desc
  let x := tX d
  let t := tO d
  let rows := List.range outs.length
  let g := max 1 (tGroups x)
  let k := if tSrc t = 2 then k
    else if tSrc t = 1 then
      let tagf := if isNarrowOut d then blockTag (slotBytes (getRing k (tRing t))) (rowLen t) (codeBytes (if tFmt t = 3 then 1 else 0) 32) else seqTag
      rows.foldl (fun k r => match findOp k o.id with
        | some o => putOp k (toRing k o (tRing t) tagf (ringRow o free r (((outs.getD r ([], [])).1).map fun c => (c.2.1, c.2.2.1))))
        | none => k) k
    else rows.foldl (fun k r => ((outs.getD r ([], [])).1).foldl (fun k c => writeElem k o free r c.1 c.2.1 c.2.2.1) k) k
  if ecDerives d && decide (tSrc t ≠ 2) then
    rows.foldl (fun k r => (List.range (tBlocks x)).foldl (fun k b =>
      if r * g + (min (32 * b + 31) (tD x 0 - 1)) / 8 < done then
        opWrite k o (tScale t + r * tBlocks x + b) [BitVec.ofNat 8 ((outs.getD r ([], [])).2.getD b 0)]
      else k) k) k
  else k

/-- R129, R136: the results of RED whose leaves have all passed, with n lane groups read, and what they count. -/
def redOut (o : Op) (rows : List (List Lane)) (n : Nat) (free : Nat → Nat) : List (List Byte × Bool × Bool) × Ev :=
  let x := tX o.desc
  match ecRed o.desc with
  | none => ([], Ev.init)
  | some w =>
    let g := max 1 (tGroups x)
    let lists := redLists x w rows
    let r := ((lists.take (wholeGroups o.desc (beforeRed o.desc) n / g / max 1 (redRows x w))).mapM (reduce w)).run Ev.init
    let res := r.1.flatten
    let nans := (res.filter (·.nan)).length
    ((List.range res.length).map fun i =>
      let e := res.getD i (wordResult 0 false)
      (e.bytes.getD (leBytes (redResultBytes w) (free (1000 + i))), e.empty, e.nan),
     { r.2 with nonfinite := nans, nan := decide (0 < nans), empty := (res.filter (·.empty)).length })

/-- The first n lane groups processed. -/
def ecRun (k : Core) (o : Op) (n : Nat) (fresh : Nat) : EcRun :=
  let d := o.desc
  let x := tX d
  let t := tO d
  let free (i : Nat) : Nat := Config.freeBits (fresh + i)
  let done := wholeGroups d (ecStages d) n
  let o := { o with poison := o.poison || ecPoisoned k d n }
  let k := putOp k o
  let rows := (List.range (tRows x)).map (readRow k o)
  let p := runStages k o rows
  let outs := (List.range (tRows x)).map fun r =>
    let q := outRow k o r (p.2.getD r [])
    (doneElems d done r (p.2.getD r []) q.1, q.2)
  let active := outs.flatMap fun row => row.1.filter (·.2.2.1)
  let ev := active.foldl (fun e c => evAdd e c.2.2.2) Ev.init
  let ev := if tSrc t = 2 then { ev with nonfinite := 0, nan := false } else ev
  let red := redOut o p.1 n free
  let w := writeOut k o free outs done
  let sz := match ecRed d with | some w => redResultBytes w | none => 4
  let w := (List.range red.1.length).foldl (fun k i => opWrite k o (redAddr d + sz * i) (red.1.getD i ([], false, false)).1) w
  let gs := groupList x
  let writes := if tSrc t = 2 then 0 else ((gs.take done).map fun q =>
    extraLines (groupBytes t q.1 q.2 fun i => bit (nth d 0) 0 || ((p.2.getD q.1 []).getD i tailLane).pred)).foldl (· + ·) 0
  { core := w, ev := evAdd ev red.2, sat := ev.sat, quant := active.length, results := red.1
    nanOut := decide (tSrc t ≠ 2) && decide (tFmt t = 0) && active.any fun c => decide (c.2.1 = qnan.toNat)
    extra := ((gs.take n).map fun q => readExtra d q.1 q.2).foldl (· + ·) writes }

/-- Table 4.7. -/
def summaryWord (e : Ev) (nan : Bool) (last : Option Word) (count : Nat) : Word :=
  let z := match last with | some w => isZero w | none => false
  let n := match last with | some w => isNeg w | none => false
  BitVec.ofNat 32 (b2n (decide (0 < e.empty)) + 2 * b2n nan + 4 * b2n (decide (0 < e.ovf)) + 8 * b2n (decide (0 < e.sat)) +
    16 * b2n z + 32 * b2n n + 2 ^ 16 * min count 65535)

def setSumw (k : Core) (ctx : BitVec 1) (w : Word) : Core :=
  if ctx = 0 then { k with ctx0.sumw := w } else { k with ctx1.sumw := w }

/-- R132: the summary of a completed operation. -/
def deliver (o : Op) (k : Core) : Core :=
  if ecSumEn o then
    let k := setSumw k o.ctx (nth o.results 1)
    if (ecRed o.desc).isSome then setRegOf k o.ctx (BitVec.ofNat 5 (ecSumReg o)) (nth o.results 0) else k
  else k

/-- R69, R70: the operation holds or makes I4 data, or I8 data, as built. -/
def ecHolds (d : List Word) (fmt : Nat) : Bool :=
  decide (tFmt (tX d) = fmt) || (usesSrc d 1 && decide (tFmt (tY d) = fmt)) || (usesSrc d 2 && decide (tFmt (tZ d) = fmt)) ||
    (decide (tSrc (tO d) ≠ 2) && decide (tFmt (tO d) = fmt))

/-- What a processed part of the operation leaves: its writes, the slots it has formed, its conditions, its tensor, and its
bank-conflict cycles (R113). -/
def ecApply (c : Nat) (o : Op) (p : EcRun) (s : State) : State :=
  let s := { setCore s c (countStall 3 p.extra (pushAll p.core o.id)) with
    fresh := s.fresh + 1000 + p.results.length + tRows (tX o.desc) * tD (tX o.desc) 0 }
  let s := noteBuilt o (ecHolds o.desc 3) (ecHolds o.desc 2) (opEv o p.ev s)
  match ecLast o.desc with
  | some w => if kindOf w = 6 ∨ kindOf w = 7 then opTensor o 0 p.sat p.quant s else s
  | none => s

/-- R132: an ended operation completes when its output has its slots, and delivers its summary. -/
def ecFinish (c : Nat) (o : Op) (s : State) : State :=
  let s := finishOp c o.id s
  if (findOp (getCore s c) o.id).isNone then modCore s c (deliver o) else s

/-- R132: an EC operation whose groups can all be processed completes; its output may wait for free slots. -/
def ecComplete (c : Nat) (s : State) : State :=
  let k := getCore s c
  match headOp k 1 with
  | none => s
  | some o =>
    if o.ended then ecFinish c o s
    else
      let k := ecPull k o
      let o := (findOp k o.id).getD o
      let x := tX o.desc
      match firstStop k o with
      | some (_, _, _, .ready r cause) => setCore s c (if r.halts then k else countStall cause 1 k)
      | some _ => setCore s c k
      | none =>
        let p := ecRun k o (groupList x).length s.fresh
        let sz := match ecRed o.desc with | some w => redResultBytes w | none => 4
        let last := p.results.getLast?.map fun e => if sz = 4 then BitVec.ofNat 32 (leNat e.1)
          else BitVec.ofNat 32 (Config.freeBits (s.fresh + 999))
        let sum := summaryWord p.ev (p.nanOut || p.results.any (·.2.2)) last p.results.length
        let s := ecApply c o p s
        match findOp (getCore s c) o.id with
        | none => s
        | some o =>
          let o := { o with ended := true, results := [last.getD 0, sum] }
          ecFinish c o (modCore s c fun k => putOp k o)

/-- Table 4.9. -/
def ecPosition (r g operand : Nat) : Nat := r % 65536 + 2 ^ 16 * (g % 65536) + 2 ^ 32 * operand

/-- R136: lane groups before the halt stay written, and nothing after them is. -/
def ecHalt (c : Nat) (s : State) : State :=
  let k := getCore s c
  match headOp k 1 with
  | none => s
  | some o =>
    if o.ended then s
    else
      let k := ecPull k o
      let o := (findOp k o.id).getD o
      match firstStop k o with
      | none => setCore s c k
      | some (i, r, g, st) =>
        let at' (f : Op → State → State) : State :=
          let s := ecApply c o (ecRun k o i s.fresh) s
          f ((findOp (getCore s c) o.id).getD o) s
        match st with
        | .scale operand cause => at' fun o => scaleHalt c o cause (ecPosition r g operand)
        | .ready .poisoned _ => at' (poisonHalt c)
        | .ready (.raw w ring slot a) _ => at' fun o => rawHalt c o w (if w then 4 else 3) ring slot a
        | .ready _ _ => setCore s c k

end Sys2Proof.Machine
end

