-- ==== Sys2Proof/Machine/GatePipeline.lean ====
section
/-! DEFINITION. The gate pipeline (R138-R146) and the scan that carries state (R147-R165). -/

namespace Sys2Proof.Machine

/-! The descriptor (Table 4.11). -/

def gpOp (d : List Word) : Nat := fld (nth d 0) 0 4
def gpPath (d : List Word) : Nat := fld (nth d 0) 4 2
def gpSkip (d : List Word) : Bool := bit (nth d 0) 6
def gpGate (d : List Word) : Bool := bit (nth d 0) 7
def gpD (d : List Word) : Nat := fld (nth d 1) 0 16
def gpN (d : List Word) : Nat := fld (nth d 1) 16 8
def gpL (d : List Word) : Nat := fld (nth d 2) 0 16
def gpNseg (d : List Word) : Nat := fld (nth d 2) 16 16
def gpU (d : List Word) : Src := srcOf (nth d 3)
def gpDt (d : List Word) : Src := srcOf (nth d 4)
def gpB (d : List Word) : Src := srcOf (nth d 5)
def gpC (d : List Word) : Src := srcOf (nth d 6)
def gpZ (d : List Word) : Src := srcOf (nth d 7)
def gpBias (d : List Word) : Src := srcOf (nth d 8)
def gpA (d : List Word) : Src := srcOf (nth d 9)
def gpDskip (d : List Word) : Src := srcOf (nth d 10)
def gpH (d : List Word) : Src := srcOf (nth d 11)
def gpY (d : List Word) : Src := srcOf (nth d 12)
def gpSeg (d : List Word) : Src := srcOf (nth d 13)

/-- R143: the express path. -/
def gpExpress (o : Op) : Bool := decide (gpPath o.desc = 1) || (decide (gpPath o.desc = 2) && o.express)

/-- R157: bytes of the scan work area. -/
def workBytes (d : List Word) : Nat := if gpL d < 2 then 0 else 24 * gpD d * gpN d * (Nat.log2 (gpL d) + 2)

/-- An input of the operation: its operand, the bytes of one position, or of the whole when it is not per position. -/
structure GpIn where
  src : Src
  bytes : Nat
  perPos : Bool
  deriving DecidableEq, Repr

def gpInputs (d : List Word) : List GpIn :=
  let D := 4 * gpD d
  let N := 4 * gpN d
  [{ src := gpU d, bytes := D, perPos := true }, { src := gpDt d, bytes := D, perPos := true }] ++
  (if gpOp d = 0 then [{ src := gpB d, bytes := N, perPos := true }, { src := gpC d, bytes := N, perPos := true },
    { src := gpA d, bytes := D * gpN d, perPos := false }] else []) ++
  (if gpGate d then [{ src := gpZ d, bytes := D, perPos := true }] else []) ++
  [{ src := gpBias d, bytes := D, perPos := false }] ++
  (if gpSkip d then [{ src := gpDskip d, bytes := D, perPos := false }] else []) ++
  [{ src := gpH d, bytes := 2 * D * gpN d, perPos := false }, { src := gpSeg d, bytes := 4 * gpNseg d, perPos := false }]

def GpIn.total (d : List Word) (i : GpIn) : Nat := if i.perPos then i.bytes * gpL d else i.bytes

/-! The segment list (R159, R160). -/

structure Seg where
  start : Nat
  entry : Nat
  hold : Bool
  deriving DecidableEq, Repr

def segOf (w : Word) : Seg := { start := fld w 0 16, entry := fld w 16 2, hold := bit w 18 }

/-- The bytes of a ring's committed slots, in ring order. -/
def committedBytes (k : Core) (r : Nat) : List Byte :=
  let x := getRing k r
  ((filledSlots x).filter fun q => decide (q.state = .committed) && !q.poison).flatMap fun q => spRead k (slotAddr x q.idx) (slotBytes x)

/-- The segment list at issue. -/
def segAtIssue (k : Core) (d : List Word) : List Word :=
  wordsOf (gpNseg d) (match (gpSeg d).ring with
    | some r => committedBytes k r
    | none => spRead k (gpSeg d).base (4 * gpNseg d))

/-- R159: the issue of an operation whose segment list comes by a ring waits for the list, which it checks (log entry 29). -/
def gpTakes (k : Core) (d : List Word) : Bool :=
  match (gpSeg d).ring with
  | some r => decide (4 * gpNseg d ≤ (committedBytes k r).length)
  | none => true

/-- The segment list of a running operation. -/
def segWords (k : Core) (o : Op) : List Word := wordsOf (gpNseg o.desc) (srcRead k o (gpSeg o.desc) 0 (4 * gpNseg o.desc))

def segAscend : List Seg → Bool
  | a :: b :: r => decide (a.start < b.start) && (decide (b.entry ≠ 0) || a.hold || b.hold) && segAscend (b :: r)
  | _ => true

def segsOk (d : List Word) (ws : List Word) : Bool :=
  let l := ws.map segOf
  (ws.all fun w => decide (fld w 19 13 = 0)) && (l.all fun g => decide (g.entry ≠ 3) && decide (g.start < gpL d)) &&
  decide ((l.head?.map (·.start)) = some 0) && segAscend l

/-- The segments with their lengths. -/
def segLens (L : Nat) : List Seg → List (Seg × Nat)
  | [] => []
  | [a] => [(a, L - a.start)]
  | a :: b :: r => (a, b.start - a.start) :: segLens L (b :: r)

/-! Checks at issue (R138). -/

def gpEncoding (k : Core) (d : List Word) : Bool :=
  decide (1 < gpOp d) || decide (gpPath d = 3) || decide (fld (nth d 0) 8 24 ≠ 0) || decide (fld (nth d 1) 24 8 ≠ 0) ||
  decide (gpD d = 0) || decide (4096 < gpD d) || decide (gpN d = 0) || decide (64 < gpN d) || (decide (gpOp d = 1) && decide (gpN d ≠ 1)) ||
  decide (gpL d = 0) || decide (gpNseg d = 0) || decide (gpL d < gpNseg d) ||
  !((List.range 11).all fun i => decide (fld (nth d (3 + i)) 22 10 = 0)) ||
  (decide (gpOp d = 1) && !([5, 6, 9].all fun i => decide (nth d i = 0))) ||
  (!gpGate d && decide (nth d 7 ≠ 0)) || (!gpSkip d && decide (nth d 10 ≠ 0)) ||
  decide (nth d 14 ≠ 0) || decide (nth d 15 ≠ 0) ||
  ((gpSeg d).ring.isNone && !powered k (gpSeg d).base (4 * gpNseg d)) || !segsOk d (segAtIssue k d)

/-- The scratchpad range of H that the operation writes: the states, when they stand there, and the work area after them. -/
def gpHRange (d : List Word) : Range :=
  let n := 8 * gpD d * gpN d
  if (gpH d).ring.isSome then { lo := (gpH d).base + n, len := workBytes d, write := true }
  else { lo := (gpH d).base, len := n + workBytes d, write := true }

/-- R138: the addressed operands, the rings, and the check of a descriptor. A ring-fed H gives the states that the operation
starts from, and takes those that it ends with (log entry 29). -/
def gpPlan (_s : State) (k : Core) (o : Op) : Plan :=
  let d := o.desc
  { ranges := ((gpInputs d).filter fun i => decide (i.src ≠ gpH d)).flatMap (fun i => addressed i.src { lo := i.src.base, len := i.total d, write := false }) ++
      [gpHRange d] ++ addressed (gpY d) { lo := (gpY d).base, len := 4 * gpD d * gpL d, write := true }
    reads := (gpInputs d).filterMap fun i => i.src.ring
    writes := (gpY d).ring.toList ++ (gpH d).ring.toList
    regs := []
    tensors := 0
    check := if gpEncoding k d then some 3 else none
    asc := addressed (gpY d) { lo := (gpY d).base, len := 4 * gpD d * gpL d, write := true } }

def execIssueGp (core : CoreId) (rd ra rb : RegId) (s : State) : Out :=
  issueUnit 2 64 32 gpTakes noChains gpPlan (fun k _ => k) core rd ra rb s

/-! Exact values with the sign of a zero (R149). -/

/-- A value and the sign that it carries; the sign matters when the value is zero. -/
abbrev Sv := Rat × Bool

def svOf (w : Word) : Sv := (f32val w, isNeg w)
def svPair (p : Word × Word) : Sv := (pairVal p, isNeg p.1)
def svMul (a b : Sv) : Sv := (a.1 * b.1, xor a.2 b.2)

/-- A term that is -0. -/
def svNegZero (a : Sv) : Bool := decide (a.1 = 0) && a.2

/-- rna3 of an exact value: the value of the triple, with the sign of its first word. -/
def rna3 (zeroNeg : Bool) (v : Rat) : N Sv :=
  if v = 0 then pure (0, zeroNeg)
  else do
    let r := rnaF32 v
    if r.2 then countOvf
    let t1 := f32val r.1
    let t2 := if r.2 then 0 else f32val (rnaF32 (v - t1)).1
    let t3 := if r.2 then 0 else f32val (rnaF32 (v - t1 - t2)).1
    return (t1 + t2 + t3, isNeg r.1)

/-- A node of the scan: its map (A, B), `none` for a NaN. -/
abbrev Node := Option Sv × Option Sv

/-- R156 combine. -/
def combine (l r : Node) : N Node := do
  let a ← match r.1, l.1 with
    | some ra, some la => (do let t := svMul ra la; let x ← rna3 (svNegZero t) t.1; return some x)
    | _, _ => pure none
  let b ← match r.1, l.2, r.2 with
    | some ra, some lb, some rb => (do
        let t := svMul ra lb
        let x ← rna3 (svNegZero t && svNegZero rb) (t.1 + rb.1)
        return some x)
    | _, _, _ => pure none
  return (a, b)

/-- The state that a map gives from the segment's entry state. -/
def applyNode (q : Node) (h : Word × Word) : N (Word × Word) :=
  match q.1, q.2 with
  | some a, some b =>
    if pairNan h then pure (qnan, qnan)
    else
      let t := svMul a (svPair h)
      rna2 (svNegZero t && svNegZero b) (t.1 + b.1)
  | _, _ => pure (qnan, qnan)

/-- The stack of the scan, newest first, each node with its level. -/
def pushNode : Nat → List (Node × Nat) → Node → Nat → N (List (Node × Nat))
  | 0, st, x, lev => pure ((x, lev) :: st)
  | f + 1, st, x, lev =>
    match st with
    | (y, l) :: r =>
      if l = lev then do
        let z ← combine y x
        pushNode f r z (lev + 1)
      else pure ((x, lev) :: st)
    | [] => pure [(x, lev)]

/-- The prefix: the nodes combined from left to right. -/
def prefixOf (st : List (Node × Nat)) : N Node :=
  match st.reverse with
  | [] => pure (some (1, false), some (0, false))
  | x :: r => r.foldlM (fun q y => combine q y.1) x.1

/-- R156: scan_segment for one pair; the states after every position. -/
def scanSegment (h0 : Word × Word) (leaves : List Node) : List (Word × Word) × List Ev :=
  let r := leaves.foldl (fun (acc : List (Node × Nat) × List (Word × Word) × List Ev) leaf =>
    let p := (do
      let st ← pushNode acc.1.length acc.1 leaf 0
      let q ← prefixOf st
      let h ← applyNode q h0
      return (st, h) : N (List (Node × Nat) × (Word × Word))).run Ev.init
    (p.1.1, acc.2.1 ++ [p.1.2], acc.2.2 ++ [p.2])) ([], [], [])
  (r.2.1, r.2.2)

/-! Gate values (R139, R143, R144). -/

def gpWord (k : Core) (o : Op) (s : Src) (i : Nat) : Word := enter (BitVec.ofNat 32 (leNat (srcRead k o s (4 * i) 4)))

def gpFn (express : Bool) (code : Nat) (x : Word) : N Word :=
  if !express then fn code x
  else match code with
    | 1 => pwlExp x
    | 6 => pwlSigmoid x
    | 7 => pwlSum 2 x
    | _ => pwlSum 1 x

/-- The coefficient a, the factor bb and the input x of a pair at a position. -/
def gateValues (k : Core) (o : Op) (t ch n : Nat) : N (Word × Word × Word) := do
  let d := o.desc
  let D := gpD d
  let N := gpN d
  let x := gpWord k o (gpU d) (t * D + ch)
  let v ← fadd (gpWord k o (gpDt d) (t * D + ch)) (gpWord k o (gpBias d) ch)
  if gpOp d = 0 then
    let delta ← gpFn (gpExpress o) 7 v
    let p ← fmul delta (gpWord k o (gpA d) (ch * N + n))
    let a ← gpFn (gpExpress o) 1 (fneg p)
    let bb ← fmul delta (gpWord k o (gpB d) (t * N + n))
    return (a, bb, x)
  else
    let g ← gpFn (gpExpress o) 6 v
    let bb ← fsub f32one g
    return (g, bb, x)

/-- The leaf of a position: (a, bb x x), both exact; (1, +0) in a held one (R163). -/
def leafOf (k : Core) (o : Op) (hold : Bool) (t ch n : Nat) : Node × Ev :=
  if hold then ((some (1, false), some (0, false)), Ev.init)
  else
    let p := (gateValues k o t ch n).run Ev.init
    let (a, bb, x) := p.1
    ((if isNan a then none else some (svOf a), if isNan bb || isNan x then none else some (svMul (svOf bb) (svOf x))),
      { p.2 with growth := !isNan a && decide (1 < ratAbs (f32val a)) })

/-! The states of the operation. -/

/-- Pair (channel, index) of a block of D x N pairs, as it is stored. -/
def storedPair (bs : List Byte) (i : Nat) : Word × Word := (wordAt bs (2 * i), wordAt bs (2 * i + 1))

def enterPair (p : Word × Word) : Word × Word := (enter p.1, enter p.2)

/-- R35, R42: a stored pair as an operand: renormalised on read. -/
def readPair (p : Word × Word) : N (Word × Word) := renorm (enterPair p)

/-- R156, R163: the states of a segment from its entry state: a held run passes the stored pair unchanged. -/
def segStates (hold : Bool) (h0 : Word × Word) (leaves : List Node) : List (Word × Word) × List Ev :=
  if hold then (leaves.map fun _ => h0, leaves.map fun _ => Ev.init)
  else
    let p := (readPair h0).run Ev.init
    let r := scanSegment p.1 leaves
    (r.1, match r.2 with | e :: t => evAdd p.2 e :: t | [] => [])

/-- The states after every position of the first m positions, for one pair, with the conditions of each. -/
def pairStates (k : Core) (o : Op) (segs : List (Seg × Nat)) (carried inject : List Byte) (m ch n : Nat) :
    List (Word × Word) × List Ev :=
  let i := ch * gpN o.desc + n
  let r := segs.foldl (fun (acc : (Word × Word) × List (Word × Word) × List Ev) sg =>
    let (g, len) := sg
    let h0 := match g.entry with
      | 0 => acc.1
      | 1 => storedPair inject i
      | _ => (0, 0)
    let lv := (List.range (min len (m - g.start))).map fun j => leafOf k o g.hold (g.start + j) ch n
    let sc := segStates g.hold h0 (lv.map (·.1))
    (sc.1.getLast?.getD h0, acc.2.1 ++ sc.1, acc.2.2 ++ (List.range sc.2.length).map fun j =>
      evAdd (sc.2.getD j Ev.init) ((lv.map (·.2)).getD j Ev.init))) (storedPair carried i, [], [])
  (r.2.1, r.2.2)

/-- R148 readout, R149: the exact sum of the products, rounded once; a zero sum is -0 when every product is. -/
def readoutPairs (cs : List Word) (hs : List (Word × Word)) : N Word :=
  if cs.any isNan || hs.any pairNan then pure qnan
  else
    let ts := (cs.zip hs).map fun p => svMul (svOf p.1) (svPair p.2)
    rndS (ts.all svNegZero) (ts.foldl (fun s t => s + t.1) 0)

/-- R139: the output of a channel at a position from its states. -/
def gpOut (k : Core) (o : Op) (t ch : Nat) (hs : List (Word × Word)) : N Word := do
  let d := o.desc
  let D := gpD d
  let cs := if gpOp d = 0 then (List.range (gpN d)).map fun n => gpWord k o (gpC d) (t * gpN d + n) else [f32one]
  let y ← readoutPairs cs hs
  let y ← if gpSkip d then (do
      let p ← fmul (gpWord k o (gpDskip d) ch) (gpWord k o (gpU d) (t * D + ch))
      fadd y p) else pure y
  if gpGate d then (do
      let g ← gpFn (gpExpress o) 8 (gpWord k o (gpZ d) (t * D + ch))
      fmul y g) else pure y

/-! Readiness. -/

/-- Position t can be processed. -/
def gpReady (k : Core) (o : Op) (t : Nat) : Ready × Nat :=
  let d := o.desc
  worstReady false
    ((gpInputs d).map (fun i =>
      if i.perPos then srcReady k o i.src (t * i.bytes) i.bytes else if t = 0 then srcReady k o i.src 0 i.bytes else .ok) ++
    [if t = 0 then spOutReady k (gpHRange d).lo (gpHRange d).len else .ok, outReady k (gpY d) (4 * t * gpD d) (4 * gpD d)])

/-- The first position that cannot be processed, with what stands in its way. -/
def gpStop (k : Core) (o : Op) : Option (Nat × Ready × Nat) :=
  (List.range (gpL o.desc)).findSome? fun t => match gpReady k o t with | (.ok, _) => none | r => some (t, r)

def gpPull (k : Core) (o : Op) : Core :=
  (gpInputs o.desc).foldl (fun k i => match i.src.ring with | some r => pullRing k o.id r (i.total o.desc) | none => k) k

/-! Init block (R153, R161). -/

/-- The bytes of the init block that an injection takes, all zero with STE_INIT_PTR 0; `none` where it cannot be read. -/
def initBytes (s : State) (k : Core) (o : Op) : Option (List Byte × Bool) :=
  let n := 8 * gpD o.desc * gpN o.desc
  match o.tok with
  | none => some (List.replicate n 0, false)
  | some (st, num, l) =>
    let x := getStream s st.toNat
    match findChunk x num with
    | none => none
    | some c =>
      if c.initPtr = 0 then some (List.replicate n 0, false)
      else
        match (chunkTemplate s x c).bind fun t => t.stateMap.find? fun e => decide (e.layer.toNat = l.toNat) with
        | none => none
        | some e =>
          let d0 := Config.channelBase x.r.model.toNat l.toNat (groupPosOf k k.bank)
          match vread s (c.initPtr.toNat + e.offset + d0 * gpN o.desc * 8) n with
          | .ok r => some r
          | .error _ => none

/-! Running. -/

def pairWords (p : Word × Word) : List Byte := leBytes 4 p.1.toNat ++ leBytes 4 p.2.toNat

/-- The first m positions: outputs, the final states and the work area's contents, and the conditions. -/
def gpRun (k : Core) (o : Op) (inject : List Byte × Bool) (free : Nat) (m : Nat) : Core × Ev :=
  let d := o.desc
  let D := gpD d
  let N := gpN d
  let segs := segLens (gpL d) ((segWords k o).map segOf)
  let used := (segs.filter fun g => decide (g.1.start < m)).any fun g => decide (g.1.entry = 1)
  let poison := (gpInputs d).any (fun i => srcPoisoned k i.src 0 (if i.perPos then i.bytes * m else i.bytes)) || (used && inject.2)
  let o := { o with poison := o.poison || poison }
  let k := putOp k o
  let carried := srcRead k o (gpH d) 0 (8 * D * N)
  let st := (List.range (D * N)).map fun i => pairStates k o segs carried inject.1 m (i / N) (i % N)
  let outs := (List.range m).map fun t => (List.range D).map fun ch =>
    let hs := (List.range N).map fun n => enterPair (((st.getD (ch * N + n) ([], [])).1).getD t (0, 0))
    let ev := (List.range N).foldl (fun e n => evAdd e (((st.getD (ch * N + n) ([], [])).2).getD t Ev.init)) Ev.init
    let p := (gpOut k o t ch hs).run ev
    (p.1, capEv p.2 p.1)
  let ev := outs.foldl (fun e row => row.foldl (fun e c => evAdd e c.2) e) Ev.init
  let bytes := outs.flatMap fun row => row.flatMap fun c => leBytes 4 c.1.toNat
  let k := match (gpY d).ring with
    | some r => putOp k (toRing k o r seqTag bytes)
    | none => opWrite k o (gpY d).base bytes
  if m = gpL d then
    let hs := st.flatMap fun p => pairWords (p.1.getLast?.getD (0, 0))
    let k := match (gpH d).ring, findOp k o.id with
      | some r, some o => putOp k (toRing k o r seqTag hs)
      | _, _ => opWrite k o (gpH d).base hs
    (opWrite k o ((gpH d).base + 8 * D * N) (leBytes (workBytes d) free), ev)
  else (k, ev)

/-- R141, R228, R280: the GP operation at the head of the queue runs its positions and completes, or halts at the first
that it cannot process. -/
def gpComplete (c : Nat) (s : State) : State :=
  let k := getCore s c
  match headOp k 2 with
  | none => s
  | some o =>
    if o.ended then finishOp c o.id s
    else
      let k := gpPull k o
      let o := (findOp k o.id).getD o
      let inject := (initBytes s k o).getD (leBytes (8 * gpD o.desc * gpN o.desc) (Config.freeBits (s.fresh + 1)), false)
      let run (m : Nat) : State :=
        let r := gpRun k o inject (Config.freeBits s.fresh) m
        modCore (opEv o r.2 { setCore s c r.1 with fresh := s.fresh + 2 }) c fun k => pushAll k o.id
      let halted (s : State) : Op := (findOp (getCore s c) o.id).getD o
      match gpStop k o with
      | some (t, .poisoned, _) => (let s := run t; poisonHalt c (halted s) s)
      | some (t, .raw w r i a, _) => (let s := run t; rawHalt c (halted s) w 2 r i a s)
      | some (_, _, cause) => setCore s c (countStall cause 1 k)
      | none =>
        let s := modCore (run (gpL o.desc)) c fun k => { k with expressCut := 0, ops := k.ops.map fun p => if p.id = o.id then { p with ended := true } else p }
        finishOp c o.id s

/-- R146: a waiting express operation goes ahead of the running one, which loses the cycles of its gate values and
goes on with its results unchanged. -/
def expressInsert (c : Nat) (s : State) : State :=
  let k := getCore s c
  match unitOps k 2 with
  | run :: rest =>
    match rest.find? fun o => gpExpress o with
    | some e =>
      let k := gpPull k e
      if gpExpress run || run.ended || (gpStop k ((findOp k e.id).getD e)).isSome then s
      else
        let d := e.desc
        let e := (findOp k e.id).getD e
        let others := k.ops.filter fun o => decide (o.id ≠ e.id)
        let ops := (others.takeWhile fun o => decide (o.id ≠ run.id)) ++ e :: others.dropWhile fun o => decide (o.id ≠ run.id)
        setCore s c { k with ops := ops, expressCut := k.expressCut + ceilDiv (gpD d) 8 + ceilDiv (gpD d * gpN d) 8 }
    | none => s
  | [] => s

end Sys2Proof.Machine
end

