-- ==== Sys2Proof/Machine/MmuFaults.lean ====
section
/-! DEFINITION. Translation with the TLBs of the dies (R372, R373), the fault table (R375), and the events of a transfer
that meets a fault (R276, R277, R279). -/

namespace Sys2Proof.Machine

/-! TLBs (R372, R373). -/

def tlbFind (s : State) (die page : Nat) : Option DWord :=
  (s.mmu.tlb.find? fun e => decide (e.1.toNat = die ∧ e.2.1 = page)).map (·.2.2)

def inTranslated (va : Nat) : Bool := decide (0x400000000000 ≤ va) && decide (va < 2 ^ 48)

/-- R372: a valid L3 entry is cached; a full TLB loses one entry, which one is not stated. -/
def tlbFill (die page : Nat) (e : DWord) (s : State) : State :=
  if (tlbFind s die page).isSome then s
  else
    let mine := s.mmu.tlb.filter fun x => decide (x.1.toNat = die)
    let p := draw s
    if mine.length < 2048 then { s with mmu.tlb := s.mmu.tlb ++ [(BitVec.ofNat 4 die, page, e)] }
    else
      let out := mine.getD (p.1 % 2048) (0, 0, 0)
      { p.2 with mmu.tlb := p.2.mmu.tlb.erase out ++ [(BitVec.ofNat 4 die, page, e)] }

/-- R373: a translation made by a die: where the tables no longer agree with its TLB, either of the two is used. -/
def dieTranslate (die va : Nat) (write : Bool) (s : State) : Except Nat Place × State :=
  if !inTranslated va then (translate s va write, s)
  else
    let page := va / 65536
    let w := walk s va
    match tlbFind s die page with
    | some e =>
      let p := draw s
      if (match w with | .ok x => decide (x = e) | .error _ => false) then (placeOf e va write, s)
      else if p.1 % 2 = 0 then (placeOf e va write, p.2) else (w >>= fun e => placeOf e va write, p.2)
    | none =>
      match w with
      | .ok e => (placeOf e va write, tlbFill die page e s)
      | .error k => (.error k, s)

/-! The fault table (R375). -/

/-- An outstanding entry that a fault joins: the same page, kind and direction; for KV_POOL_EMPTY the same pool. -/
def faultMatches (va kind : Nat) (write : Bool) (pool : Nat) (e : FaultEntry) : Bool :=
  decide (e.kind.toNat = kind) &&
    if kind = 5 then decide (e.pool.toNat = pool) else decide (e.va.toNat / 65536 = va / 65536) && decide (e.write = write)

def freeFault (s : State) : Option Nat := (List.range 1024).find? fun i => (tabGet s.mmu.faults i).isNone

/-- R375: an operation of a core joins an entry or takes the lowest free one; none when all 1,024 are in use. -/
def joinFault (va kind : Nat) (write : Bool) (pool c op : Nat) (s : State) : Option Nat × State :=
  let w : BitVec 17 × Nat := (BitVec.ofNat 17 c, op)
  match s.mmu.faults.find? fun e => faultMatches va kind write pool e.2 with
  | some e => (some e.1, { s with mmu.faults := tabPut s.mmu.faults e.1 { e.2 with waiters := e.2.waiters ++ [w] } })
  | none =>
    match freeFault s with
    | some i =>
      let e : FaultEntry := { va := BitVec.ofNat 48 va, kind := BitVec.ofNat 3 kind, write := write, pool := BitVec.ofNat 8 pool, waiters := [w] }
      (some i, { s with mmu.faults := tabPut s.mmu.faults i e })
    | none => (none, s)

/-- The detail of PAGE_FAULT and TRANSFER_ABORT (Table 15.2). -/
def faultDetail (pre : List Word) (id : Nat) (pos : List Word) (va : Nat) : List Word :=
  match pre with
  | w :: r => BitVec.ofNat 32 (w.toNat + 2 ^ 16 * id) :: r ++ pos ++ words64 va
  | [] => pos

/-- Table 8.7. -/
def dmaPosition (i : Nat × Nat × Nat × Nat) (off op side cause mask : Nat) : List Word :=
  [BitVec.ofNat 32 (i.1 % 65536 + 2 ^ 16 * (i.2.1 % 65536)), BitVec.ofNat 32 (i.2.2.1 % 65536 + 2 ^ 16 * (i.2.2.2 % 65536)),
   BitVec.ofNat 32 (off % 2 ^ 17 + 2 ^ 17 * (op % 16) + 2 ^ 21 * (side % 4) + 2 ^ 24 * (cause % 16)), BitVec.ofNat 32 (mask % 65536)]

def raiseTransfer (code c : Nat) (o : Op) (id : Nat) (pos : List Word) (va : Nat) (s : State) : State :=
  raise code (opPrefix o).1 (BitVec.ofNat 17 c) (faultDetail (opPrefix o).2 id pos va) s

end Sys2Proof.Machine
end

