-- ==== Sys2Proof/Machine/KvCache.lean ====
section
/-! DEFINITION. The KV table, its directories and pages (R175-R182, R192-R199): reading and writing the structures that
the device keeps in device memory, page allocation and release, and the flush of a staging buffer. -/

namespace Sys2Proof.Machine

/-! The KV table (Table 6.3). -/

structure KvHead where
  magic : Word
  layers : Nat
  heads : Nat
  i8 : Bool
  cap : Nat
  pool : Nat
  length : Nat
  firstPos : Nat
  evict : Nat
  deriving DecidableEq, Repr

def kvHeadOf (bs : List Byte) : KvHead :=
  let w1 := wordAt bs 1
  { magic := wordAt bs 0, layers := fld w1 0 8, heads := fld w1 8 8, i8 := bit w1 16, cap := (wordAt bs 2).toNat
    pool := (wordAt bs 3).toNat, length := natAt bs 16 6, firstPos := natAt bs 24 6, evict := natAt bs 32 8 }

/-- R177: the checks of a header: reserved fields, ranges, and CAP a multiple of the pages of a shard. -/
def kvHeadOk (bs : List Byte) : Bool :=
  let h := kvHeadOf bs
  let shard := if h.i8 then 16 else 8
  decide (h.magic = 0x4B565442) && decide (1 ≤ h.layers) && decide (1 ≤ h.heads) && decide (h.heads ≤ 64) &&
  decide (fld (wordAt bs 1) 17 15 = 0) && decide (1 ≤ h.cap) && decide (h.cap % shard = 0) && decide (h.cap ≤ 1024 * shard) &&
  decide (natAt bs 22 2 = 0) && decide (natAt bs 30 2 = 0) && decide (h.evict % 4096 = 0) && (bs.drop 40).all (· == 0)

/-- Positions of a data page (R175). -/
def pagePos (i8 : Bool) : Nat := if i8 then 256 else 512

def readHead (s : State) (t : Nat) : Option KvHead := (vclean s t 64).map kvHeadOf

def dirAddr (t : Nat) (h : KvHead) (a hd k : Nat) : Nat := t + 64 + ((a * h.heads + hd) * h.cap + k % max 1 h.cap) * 4
def layerAddr (t : Nat) (h : KvHead) (a : Nat) : Nat := t + 64 + h.layers * h.heads * h.cap * 4 + 16 * a

def vnat (s : State) (a n : Nat) : Nat := leNat ((vclean s a n).getD [])

def dirGet (s : State) (t : Nat) (h : KvHead) (a hd k : Nat) : Nat := vnat s (dirAddr t h a hd k) 4
def dirSet (t : Nat) (h : KvHead) (a hd k v : Nat) (s : State) : State := vput s (dirAddr t h a hd k) (leBytes 4 v)

def originOf (s : State) (t : Nat) (h : KvHead) (a : Nat) : Nat := vnat s (layerAddr t h a) 6
def lfirstOf (s : State) (t : Nat) (h : KvHead) (a : Nat) : Nat := vnat s (layerAddr t h a + 8) 6
def setLayer (t : Nat) (h : KvHead) (a origin lfirst : Nat) (s : State) : State :=
  vput s (layerAddr t h a) (leBytes 8 origin ++ leBytes 8 lfirst)

def setLength (t n : Nat) (s : State) : State := vput s (t + 16) (leBytes 8 n)

/-- R177: FIRST_POS is the smallest ORIGIN + LFIRST. -/
def setFirstPos (t : Nat) (h : KvHead) (s : State) : State :=
  let l := (List.range h.layers).map fun a => originOf s t h a + lfirstOf s t h a
  vput s (t + 24) (leBytes 8 (l.min?.getD 0))

/-! Pools and page descriptors (R179). -/

def kvPool (s : State) (i : Nat) : Option (Image × ImgPool) :=
  s.cfg.cur.bind fun g => (g.pools.find? fun p => p.kv && decide (p.index.toNat = i)).map fun p => (g, p)

/-- R333: the descriptors lie at DESC_OFFSET from DATA_BASE. -/
def descAddr (_g : Image) (p : ImgPool) (n : Nat) : Nat := p.dataBase + p.descOffset + 16 * n

structure PageDesc where
  refs : Nat
  host : Bool
  moving : Bool
  addr : Nat
  owner : Nat
  deriving DecidableEq, Repr

def descOf (s : State) (g : Image) (p : ImgPool) (n : Nat) : PageDesc :=
  let bs := memRead s.dram (descAddr g p n) 16
  { refs := natAt bs 0 2, host := bit (wordAt bs 0) 16, moving := bit (wordAt bs 0) 17, addr := natAt bs 4 4, owner := natAt bs 8 2 }

def putDesc (g : Image) (p : ImgPool) (n : Nat) (d : PageDesc) (s : State) : State :=
  let w0 := d.refs + 2 ^ 16 * b2n d.host + 2 ^ 17 * b2n d.moving
  dramWrite s (descAddr g p n) (leBytes 4 w0 ++ leBytes 4 d.addr ++ leBytes 4 d.owner ++ leBytes 4 0) false

def freeDescs (s : State) (g : Image) (p : ImgPool) : List Nat := (List.range p.frames).filter fun n => decide ((descOf s g p n).refs = 0)

def freeFrames (s : State) (g : Image) (p : ImgPool) : List Nat :=
  let used := (List.range p.frames).filterMap fun n => let d := descOf s g p n; if d.refs ≠ 0 ∧ !d.host then some d.addr else none
  (List.range p.frames).filter fun f => decide (f ∉ used)

/-- R179: every descriptor of every KV pool of an image is written 0, which makes every page free. -/
def clearPools (g : Image) (s : State) : State :=
  (g.pools.filter (·.kv)).foldl (fun s p => dramWrite s (descAddr g p 0) (List.replicate (16 * p.frames) 0) false) s

/-- R196: a reference to a page is dropped; at 0 the descriptor becomes free, and with it its frame or its host slot, which is
reported (log entry 32). -/
def dropRef (g : Image) (p : ImgPool) (n : Nat) (s : State) : State :=
  let d := descOf s g p n
  if d.refs = 0 ∨ p.frames ≤ n then s
  else if d.refs = 1 then
    let s := if d.host then { s with evt.freedSlots := s.evt.freedSlots ++ [d.addr] } else s
    putDesc g p n { refs := 0, host := false, moving := false, addr := 0, owner := 0 } s
  else putDesc g p n { d with refs := d.refs - 1 } s

/-- R193, R196: a page named by a directory index is released; the entry is cleared where it still names the page. -/
def releasePage (t : Nat) (h : KvHead) (a hd k n : Nat) (s : State) : State :=
  let s := if dirGet s t h a hd k = n then dirSet t h a hd k 0xFFFFFFFF s else s
  match kvPool s h.pool with
  | some (g, p) => dropRef g p n s
  | none => s

/-- The page numbers k of the retained flushed pages of a (layer, head). -/
def retained (s : State) (x : Stream) (t : Nat) (h : KvHead) (a hd : Nat) : List Nat :=
  let first := lfirstOf s t h a / pagePos h.i8
  let n := tabGetD 0 x.d.kvFlushed (256 * a + hd)
  (List.range (n - first)).map (first + ·)

/-- The pages of a (layer, head) that are present: directory index and page number. -/
def livePages (s : State) (x : Stream) (t : Nat) (h : KvHead) (a hd : Nat) : List (Nat × Nat) :=
  (retained s x t h a hd).filterMap fun k => let n := dirGet s t h a hd k; if n = 0xFFFFFFFF then none else some (k, n)

/-- R193: the pages of a chunk's earlier contexts. -/
def oldPagesOf (c : Chunk) : List (Nat × Nat × Nat × Nat) := c.oldPages ++ c.kvMid.flatMap (·.pages)

/-- R196: every page of a stream is released, and its context is empty. -/
def releaseAll (n : Nat) (s : State) : State :=
  let x := getStream s n
  let t := x.r.kvTable.toNat
  match (if x.d.kvPages then readHead s t else none) with
  | none => modStream s n fun x => { x with d.kvFlushed := [], d.kvStaged := [], d.kvPages := false, d.kvOwners := [], d.buckets := [] }
  | some h =>
    let s := (List.range h.layers).foldl (fun s a => (List.range h.heads).foldl (fun s hd =>
      (livePages s x t h a hd).foldl (fun s p => releasePage t h a hd p.1 p.2 s) s) s) s
    let s := x.d.chunks.foldl (fun s c => (oldPagesOf c).foldl (fun s p => releasePage t h p.1 p.2.1 p.2.2.1 p.2.2.2 s) s) s
    let s := (List.range h.layers).foldl (fun s a => setLayer t h a 0 0 s) s
    let s := setFirstPos t h (setLength t 0 s)
    modStream s n fun x => { x with d.kvFlushed := [], d.kvStaged := [], d.kvPages := false, d.kvOwners := [], d.buckets := [],
                                    d.chunks := x.d.chunks.map fun c => { c with oldPages := [], kvMid := c.kvMid.map fun m => { m with pages := [] } } }

/-- R194: the oldest retained shard of every head of a layer is released, and LFIRST advances by 4,096. -/
def advanceWindow (n : Nat) (t : Nat) (h : KvHead) (a : Nat) (s : State) : State :=
  let x := getStream s n
  let first := lfirstOf s t h a
  let last := (first + 4096) / pagePos h.i8
  let s := (List.range h.heads).foldl (fun s hd =>
    ((livePages s x t h a hd).filter fun p => decide (p.1 < last)).foldl (fun s p => releasePage t h a hd p.1 p.2 s) s) s
  setFirstPos t h (setLayer t h a (originOf s t h a) (first + 4096) s)

/-! Staging (R180). -/

/-- Where a core's staging buffer lies for a (template, layer, head). -/
def stagingAt (model layer head : Nat) : Nat := 64 * (Config.stagingUnit model layer head % 961)

/-- The core that owns a (layer, head) of a stream. -/
def kvOwner (x : Stream) (layer head : Nat) : Option Nat := tabGet x.d.kvOwners (256 * layer + head)

/-- R180: the core holds a staging buffer. -/
def ownsBuffer (s : State) (c : Nat) : Bool := s.streams.any fun e => e.2.d.kvOwners.any fun o => decide (o.2 = c)

/-- R180: an owner for a (layer, head): the first core of the layer's group, from a position that the template gives, that
holds no staging buffer. -/
def pickOwner (s : State) (g : ImgGroup) (model layer head : Nat) : Option Nat :=
  let n := g.coreCount
  ((List.range n).map fun i => g.coreFirst + (Config.ownerPos model layer head + i) % n).find? fun c => !ownsBuffer s c

/-- The attention layers of a template, as indices of its layer table, in order. -/
def attLayers (t : ImgTemplate) : List Nat :=
  (List.range t.layers.length).filter fun i => decide ((t.layers.getD i ImgLayer.init).kind = 1)

/-! A staging buffer filled by a fork (R195). -/

/-- One byte of a staging buffer whose first r positions are taken from `new`; two I4 value codes share a byte. -/
def stagedByte (i8 : Bool) (r off : Nat) (new old : Byte) : Byte :=
  if off < 32768 then (if off / (if i8 then 128 else 64) < r then new else old)
  else if off < 65536 then
    let q := off - 32768
    if i8 then (if 32 * (q / 4096) + q % 32 < r then new else old)
    else
      let p := 32 * (q / 2048) + 2 * (q % 16)
      if p + 1 < r then new else if p < r then (new &&& 0x0F) ||| (old &&& 0xF0) else old
  else if off < 67584 then (if (off - 65536) / 4 < r then new else old)
  else (if (off - 67584) / 4 < r then new else old)

/-- R180: each (layer, head) of a stream has an owning core in the layer's group of the replica that it runs on; staged
positions move with it (log entry 20). -/
def assignOwner (n : Nat) (g : Image) (t : ImgTemplate) (replica : Nat) (s : State) (l : Nat × Nat) : State :=
  let x := getStream s n
  let model := x.r.model.toNat
  match (replicaIn g model replica).bind fun r => r.groups[(attLayers t).getD l.1 0]?.bind fun q => groupIn g q.toNat with
  | none => s
  | some q =>
    let old := kvOwner x l.1 l.2
    if old.any fun c => decide (c ∈ groupCores q) then s
    else match pickOwner s q model l.1 l.2 with
      | none => modStream s n fun x => { x with d.kvOwners := tabDel x.d.kvOwners (256 * l.1 + l.2) }
      | some c =>
        let s := modStream s n fun x => { x with d.kvOwners := tabPut x.d.kvOwners (256 * l.1 + l.2) c }
        let b := stagingAt model l.1 l.2
        match old with
        | none => s
        | some f => (let k := getCore s f; modCore s c fun d => spWrite d b (spRead k b 69632) (spPoisoned k b 69632))

def assignOwners (n : Nat) (g : Image) (t : ImgTemplate) (replica : Nat) (h : KvHead) (s : State) : State :=
  ((List.range h.layers).flatMap fun a => (List.range h.heads).map fun hd => (a, hd)).foldl (assignOwner n g t replica) s

/-- The staged positions of a fork go to the scratchpads of the cores that the stream's replica gives it. -/
def placeStaged (n : Nat) (g : Image) (t : ImgTemplate) (replica : Nat) (s : State) : State :=
  let x := getStream s n
  let model := x.r.model.toNat
  let i8 := match readHead s x.r.kvTable.toNat with
    | some h => h.i8
    | none => false
  let s := match readHead s x.r.kvTable.toNat with
    | some h => assignOwners n g t replica h s
    | none => s
  let s := x.d.kvStaged.foldl (fun s e =>
    let a := e.1 / 256
    match kvOwner (getStream s n) a (e.1 % 256) with
    | none => s
    | some c => modCore s c fun k =>
      let b := stagingAt model a (e.1 % 256)
      let old := spRead k b 69632
      spWrite k b ((List.range 69632).map fun o => stagedByte i8 e.2.1 o (e.2.2.getD o 0) (old.getD o 0)) false) s
  modStream s n fun x => { x with d.kvStaged := [] }

/-! The flush (R181, R182). -/

/-- Positions of a chunk. -/
def chunkPositions (s : State) (x : Stream) (c : Chunk) : Nat :=
  ceilDiv c.frames (max 1 (((chunkTemplate s x c).map (·.framesPerPos)).getD 1))

/-- The context position after a chunk. -/
def chunkEnd (s : State) (x : Stream) (c : Chunk) : Nat :=
  match c.kvNew with
  | some p => chunkPositions s x c - p
  | none => c.kvBase + chunkPositions s x c

/-- A context of a chunk in which a (layer, head) appends: the context carried into it, one that begins and ends in it, or
the stream's own, in that order (R193). -/
inductive KvSlot where
  | old | mid (i : Nat) | live
  deriving DecidableEq, Repr

/-- The contexts of a chunk for attention layer a, with the positions that each holds at the chunk's end, from the layer's
position 0, and the pages flushed of it for a head. -/
def kvContexts (s : State) (x : Stream) (c : Chunk) (t : Nat) (h : KvHead) (a hd : Nat) : List (KvSlot × Nat × Nat) :=
  let l := 256 * a + hd
  let mid (i : Nat) : KvMid := c.kvMid.getD i KvMid.init
  let mids := (List.range c.kvMid.length).filter fun i => decide ((mid i).only = []) || (mid i).only.contains a
  (match tabGet c.oldLayers a with
    | some o => [(KvSlot.old, c.kvBase + (match mids with | i :: _ => (mid i).start | [] => c.kvNew.getD 0) - o.1, tabGetD 0 c.oldFlushed l)]
    | none => []) ++
  mids.map (fun i => (KvSlot.mid i, (mid i).len, tabGetD 0 (mid i).flushed l)) ++
  [(KvSlot.live, chunkEnd s x c - originOf s t h a, tabGetD 0 x.d.kvFlushed l)]

/-- R181: the flush of a (layer, head) that is due: the first chunk that fills a page not yet flushed, the context, and the
page. -/
def dueFlush (s : State) (x : Stream) (t : Nat) (h : KvHead) (a hd : Nat) : Option (Chunk × KvSlot × Nat) :=
  (x.d.chunks.filter fun c => c.released && c.kvReady).findSome? fun c =>
    (kvContexts s x c t h a hd).findSome? fun e => if (e.2.2 + 1) * pagePos h.i8 ≤ e.2.1 then some (c, e.1, e.2.2) else none

/-- R182: PAGE_FAULT or TRANSFER_ABORT of a flush. -/
def raiseFlush (code n layer : Nat) (core : Nat) (num : DWord) (id : Nat) (s : State) : State :=
  raise code (BitVec.ofNat 16 n) (BitVec.ofNat 17 core)
    (faultDetail (evPrefix 3 layer num.toNat) id (dmaPosition (0, 0, 0, 0) 0 0 1 1 0) 0) s

/-- R181, R193: a flushed page joins its context. -/
def noteFlush (n a hd k desc : Nat) (num : DWord) (w : KvSlot) (s : State) : State :=
  let l := 256 * a + hd
  match w with
  | .live => modStream s n fun x => { x with d.kvFlushed := tabPut x.d.kvFlushed l (k + 1), d.kvPages := true }
  | .old => modChunk s n num fun c => { c with oldFlushed := tabPut c.oldFlushed l (k + 1), oldPages := c.oldPages ++ [(a, hd, k, desc)] }
  | .mid i => modChunk s n num fun c => { c with
      kvMid := upd c.kvMid i fun m => { m with flushed := tabPut m.flushed l (k + 1), pages := m.pages ++ [(a, hd, k, desc)] } }

/-- R181: the page goes to the frame, then the descriptor and the directory entry are set. -/
def flushTo (c n : Nat) (t : Nat) (h : KvHead) (g : Image) (p : ImgPool) (a hd k desc frame : Nat) (num : DWord) (w : KvSlot) (s : State) : State :=
  let x := getStream s n
  let kc := getCore s c
  let b := stagingAt x.r.model.toNat a hd
  let s := dramWrite s (p.dataBase + 65536 * frame) (spRead kc b 65536) (spPoisoned kc b 65536)
  let scale := spRead kc (b + 65536) 4096
  let scale := if h.i8 then (List.range 4096).map fun i => if (1024 ≤ i ∧ i < 2048) ∨ 3072 ≤ i then 0 else scale.getD i 0 else scale
  let s := dramWrite s (p.scaleBase + 4096 * frame) scale (spPoisoned kc (b + 65536) 4096)
  let s := putDesc g p desc { refs := 1, host := false, moving := false, addr := frame, owner := x.r.ownerTag.toNat } s
  noteFlush n a hd k desc num w (dirSet t h a hd k desc s)

/-- R181, R182, R194: a full staging buffer of (layer, head) of a stream is flushed by its owning core, or the flush halts
for want of a page or frame. -/
def kvFlush (c n a hd : Nat) (s : State) : State :=
  let kc := getCore s c
  let x := getStream s n
  let t := x.r.kvTable.toNat
  match readHead s t with
  | none => s
  | some h =>
    if h.layers ≤ a ∨ h.heads ≤ hd ∨ kvOwner x a hd ≠ some c then s
    else match dueFlush s x t h a hd with
    | none => s
    | some (ch, w, k) =>
      if kc.flushHalt.isSome then setCore s c (countStall 5 1 kc)
      else
        let s := if w = .live ∧ h.cap < k + 1 - lfirstOf s t h a / pagePos h.i8 then advanceWindow n t h a s else s
        match kvPool s h.pool with
        | none => s
        | some (g, p) =>
          match freeDescs s g p, freeFrames s g p with
          | desc :: _, frame :: _ => flushTo c n t h g p a hd k desc frame ch.num w s
          | _, _ =>
            let j := joinFault 0 5 true h.pool c 16 s
            let s := modCore j.2 c fun k => countStall 5 1 { k with flushHalt := some (j.1.getD 1024, n, a, hd) }
            match j.1 with
            | some f => raiseFlush 0x0301 n ((((templateOf s x).map attLayers).getD []).getD a 0) c ch.num f s
            | none => s

def execKvFlush (core : CoreId) (n : StreamId) (layer head : BitVec 8) (s : State) : Out :=
  withCore core (fun _ s => kvFlush core.toNat n.toNat layer.toNat head.toNat s) s

end Sys2Proof.Machine
end

