-- ==== Sys2Proof/Machine/Attention.lean ====
section
/-! DEFINITION. The attention sequencer (R172-R174, R183-R193, R201): partials of shards, their combination in
canonical order, the finish, and what halts them. -/

namespace Sys2Proof.Machine

/-! The descriptor (Table 6.1). -/

def atOp (d : List Word) : Nat := fld (nth d 0) 0 2
def atCtx (d : List Word) : Nat := fld (nth d 0) 2 2
def atCausal (d : List Word) : Bool := bit (nth d 0) 4
def atBias (d : List Word) : Bool := bit (nth d 0) 5
def atStats (d : List Word) : Bool := bit (nth d 0) 6
def atI8 (d : List Word) : Bool := bit (nth d 0) 7
def atG (d : List Word) : Nat := fld (nth d 0) 8 4
def atRows (d : List Word) : Nat := fld (nth d 1) 0 16
def atLayer (d : List Word) : Nat := fld (nth d 1) 16 8
def atHead (d : List Word) : Nat := fld (nth d 1) 24 8
def atQ (d : List Word) : Nat := fld (nth d 2) 0 17
def atScale (d : List Word) : Word := enter (nth d 3)
def atQpos (d : List Word) : Nat := nth64 d 4 % 2 ^ 48
def atFirst (d : List Word) : Nat := (nth d 6).toNat
def atCount (d : List Word) : Nat := (nth d 7).toNat
def atOut (d : List Word) : Src := srcOf (nth d 8)
def atIn (d : List Word) : Src := srcOf (nth d 9)
def atStatAddr (d : List Word) : Nat := fld (nth d 10) 0 17
def atBiasAddr (d : List Word) : Nat := fld (nth d 11) 0 17
def atPtr (d : List Word) : Nat := nth64 d 12

/-- Query rows times heads. -/
def atQs (d : List Word) : Nat := atG d * atRows d

/-- R174, Table 3.3: the KV table is aligned to 4 KiB (R177), and an addressed array of F32 values to 4 B (log entry 91). -/
def atAligned (d : List Word) : Bool :=
  (decide (atCtx d ≠ 0) || decide (atOp d ≠ 0) || decide (atPtr d % 4096 = 0)) &&
  (decide (atOp d = 0) || (atIn d).ring.isSome || decide ((atIn d).base % 4 = 0)) && ((atOut d).ring.isSome || decide ((atOut d).base % 4 = 0)) &&
  (!(decide (atOp d = 2) && atStats d) || decide (atStatAddr d % 4 = 0)) &&
  (!(decide (atOp d = 0 ∧ atCtx d = 2) && atBias d) || decide (atBiasAddr d % 4 = 0))

def atEncoding (d : List Word) : Bool :=
  decide (atOp d = 3) || decide (atCtx d = 3) || decide (fld (nth d 0) 12 20 ≠ 0) || decide (atG d = 0) || decide (8 < atG d) ||
  decide (atRows d = 0) || decide (65535 < atQs d) || decide (fld (nth d 2) 17 15 ≠ 0) || decide (2 ^ 48 ≤ nth64 d 4) ||
  decide (atCount d = 0) || decide (fld (nth d 8) 22 10 ≠ 0) || decide (fld (nth d 9) 22 10 ≠ 0) ||
  decide (fld (nth d 10) 17 15 ≠ 0) || decide (fld (nth d 11) 17 15 ≠ 0) || decide (nth d 14 ≠ 0) || decide (nth d 15 ≠ 0) || !atAligned d

/-- R201: how many biases the operation reads: those of the longest list among its rows. -/
def atBiasCount (s : State) (d : List Word) : Nat :=
  let num (a n : Nat) : Nat := match vread s a n with | .ok r => leNat r.1 | .error _ => 0
  let offs := num (atPtr d + 16) 8
  if decide (atOp d = 0 ∧ atCtx d = 2) && atBias d then
    ((List.range (atRows d)).map fun r => num (offs + 4 * (atQpos d + r + 1)) 4 - num (offs + 4 * (atQpos d + r)) 4).foldl max 0
  else 0

/-- R186: bytes of a partial record. -/
def recBytes : Nat := 528

def atOutBytes (d : List Word) : Nat :=
  match atOp d with
  | 0 => recBytes * atQs d * atCount d
  | 1 => recBytes * atQs d
  | _ => 512 * atQs d

def atPlan (s : State) (_k : Core) (o : Op) : Plan :=
  let d := o.desc
  let bias := atBiasCount s d
  { ranges := (if atOp d = 0 then [{ lo := atQ d, len := 132 * atQs d, write := false }] else
        addressed (atIn d) { lo := (atIn d).base, len := recBytes * atQs d * atCount d, write := false }) ++
      addressed (atOut d) { lo := (atOut d).base, len := atOutBytes d, write := true } ++
      (if bias = 0 then [] else [{ lo := atBiasAddr d, len := 4 * bias, write := false }]) ++
      (if atOp d = 2 ∧ atStats d then [{ lo := atStatAddr d, len := 8 * atQs d, write := true }] else [])
    reads := if atOp d = 0 then [] else (atIn d).ring.toList
    writes := (atOut d).ring.toList
    regs := []
    tensors := 0
    check := if atEncoding d then some 3 else none }

def execIssueAttention (core : CoreId) (rd ra rb : RegId) (s : State) : Out :=
  issueUnit 3 64 32 takesAny noChains atPlan (fun k _ => k) core rd ra rb s

/-! What stands in the way of an operation. -/

inductive AtStop where
  | fault (kind va : Nat)
  | missing
  | index
  | scale (row block leaf operand cause : Nat)
  | wait (cause : Nat)
  deriving DecidableEq, Repr

abbrev At := Except AtStop

/-- A number of n bytes in device memory. -/
def atNat (s : State) (va n : Nat) : At (Nat × Bool) :=
  match vread s va n with
  | .ok r => .ok (leNat r.1, r.2)
  | .error e => .error (.fault e.1 e.2)

/-! Positions: where the keys and values of each lie. -/

/-- The data and scale bytes of a page: in scratchpad, or in device memory at two addresses. -/
inductive KvPage where
  | sp (base : Nat)
  | mem (data scale : Nat)
  | zero
  deriving DecidableEq, Repr

/-- A physical DRAM address in the die-major window is its own device address (R357). -/
def kvPageOf (s : State) (h : KvHead) (desc : Nat) : At KvPage :=
  match kvPool s h.pool with
  | none => .error .missing
  | some (g, p) =>
    let d := descOf s g p desc
    if p.frames ≤ desc ∨ d.refs = 0 then .error .missing
    else if d.host then .ok (.mem (h.evict + 69632 * d.addr) (h.evict + 69632 * d.addr + 65536))
    else .ok (.mem (p.dataBase + 65536 * d.addr) (p.scaleBase + 4096 * d.addr))

/-- One byte of a page, with its poison mark. -/
def pageByte (s : State) (k : Core) (pg : KvPage) (scale : Bool) (off : Nat) : At (Byte × Bool) :=
  match pg with
  | .sp b => let a := b + (if scale then 65536 else 0) + off; .ok (memGet k.sp a, spPoisoned k a 1)
  | .mem d sc =>
    match vread s ((if scale then sc else d) + off) 1 with
    | .ok r => .ok (r.1.headD 0, r.2)
    | .error e => .error (.fault e.1 e.2)
  | .zero => .ok (0, false)

/-- Keys and values of a position: codes and scales. -/
structure Kv where
  kc : List Int
  ks : List Nat
  vc : List Int
  vs : List Nat
  poison : Bool
  deriving DecidableEq, Repr

/-- Table 6.2, R176: position r of a page. -/
def kvAt (s : State) (k : Core) (i8 : Bool) (pg : KvPage) (r : Nat) : At Kv := do
  let keys ← (List.range (if i8 then 128 else 64)).mapM fun i => pageByte s k pg false ((if i8 then 128 else 64) * r + i)
  let vals ← (List.range 128).mapM fun d => pageByte s k pg false
    (32768 + if i8 then 4096 * (r / 32) + 32 * d + r % 32 else 2048 * (r / 32) + 16 * d + r % 32 / 2)
  let ks ← (List.range 4).mapM fun g => pageByte s k pg true (4 * r + g)
  let vs ← (List.range 4).mapM fun g => pageByte s k pg true (2048 + 4 * r + g)
  let kb := keys.map (·.1)
  return { kc := codesOf (if i8 then 0 else 1) 128 kb, ks := ks.map fun b => b.1.toNat
           vc := vals.map fun b => if i8 then code 8 b.1.toNat else code 4 (b.1.toNat >>> (4 * (r % 2)))
           vs := vs.map fun b => b.1.toNat
           poison := (keys ++ vals ++ ks ++ vs).any (·.2) }

/-! Which positions a query attends (R192, R193, R201). -/

/-- What an operation knows of its context: the number of list positions of a query row, whether it attends a position, the
page and the place of it, its bias, and whether what was read to know it is poisoned. -/
structure Ctxt where
  count : Nat → At (Nat × Bool)
  attends : Nat → Nat → Bool
  place : Nat → Nat → At (KvPage × Nat × Bool)
  bias : Nat → Nat
  poison : Bool

/-- A directory entry, read by the sequencer (R178). -/
def dirEntry (s : State) (t : Nat) (h : KvHead) (a hd k : Nat) : At (Nat × Bool) := atNat s (dirAddr t h a hd k) 4

/-- R178: the page of a page number, or the position is missing. -/
def namedPage (s : State) (h : KvHead) (pn : Nat) : At KvPage := if pn = 0xFFFFFFFF then .error .missing else kvPageOf s h pn

/-- A layer's context as an operation attends it: ORIGIN, LFIRST, the positions of the layer, the pages flushed, and where
the page of a page number stands. -/
structure Held where
  origin : Nat
  lfirst : Nat
  upto : Nat
  flushed : Nat
  page : Nat → At (KvPage × Bool)

/-- R192: the positions that a query row attends; those not yet flushed stand in the owning core's staging buffer. -/
def heldCtx (d : List Word) (own : Option Nat) (poison : Bool) (e : Held) : Ctxt :=
  let P := pagePos (atI8 d)
  { count := fun _ => .ok (e.upto, false)
    attends := fun r i => decide (e.lfirst ≤ i) && decide (i < e.upto) && (!atCausal d || decide (i + e.origin ≤ atQpos d + r))
    place := fun _ i =>
      match (if e.flushed ≤ i / P then own else none) with
      | some b => .ok (.sp b, i % P, false)
      | none => (e.page (i / P)).map fun g => (g.1, i % P, g.2)
    bias := fun _ => 0
    poison := poison }

/-- The context of a layer as the KV table states it. -/
def liveHeld (s : State) (t : Nat) (h : KvHead) (a hd upto flushed : Nat) (origin lfirst : Nat) : Held :=
  { origin := origin, lfirst := lfirst, upto := upto - origin, flushed := flushed
    page := fun p => do
      let e ← dirEntry s t h a hd p
      let g ← namedPage s h e.1
      return (g, e.2) }

/-- A context that lives on in the device's own list of its pages (R193). -/
def listHeld (s : State) (h : KvHead) (pages : List (Nat × Nat × Nat × Nat)) (a hd origin lfirst upto flushed : Nat) : Held :=
  { origin := origin, lfirst := lfirst, upto := upto, flushed := flushed
    page := fun p => match pages.find? fun e => decide (e.1 = a ∧ e.2.1 = hd ∧ e.2.2.1 = p) with
      | some e => (namedPage s h e.2.2.2).map fun g => (g, false)
      | none => .error .missing }

/-- The stream whose KV table an operation names, and the chunk that it works for. -/
def kvStream (s : State) (o : Op) : Option (Nat × Option DWord) :=
  let t := atPtr o.desc
  let named (n : Nat) : Bool := decide ((getStream s n).r.kvTable.toNat = t)
  match o.tok with
  | some (n, num, _) => if named n.toNat then some (n.toNat, some num) else (s.streams.find? fun e => named e.1).map fun e => (e.1, none)
  | none => (s.streams.find? fun e => named e.1).map fun e => (e.1, none)

/-- R193: the contexts of a chunk, one for each of `kvContexts`, with the first and the last context position that a query of
it holds. -/
def heldOf (s : State) (x : Stream) (c : Chunk) (t : Nat) (h : KvHead) (a hd : Nat) (e : KvSlot × Nat × Nat) (origin lfirst : Nat) :
    Held × Nat × Nat :=
  match e.1 with
  | .old => (let l := tabGetD (0, 0) c.oldLayers a
    (listHeld s h c.oldPages a hd l.1 l.2 e.2.1 e.2.2, c.kvBase, l.1 + e.2.1))
  | .mid i => (let m := c.kvMid.getD i KvMid.init
    (listHeld s h m.pages a hd m.origin 0 e.2.1 e.2.2, m.origin, m.origin + e.2.1))
  | .live => (liveHeld s t h a hd (chunkEnd s x c) e.2.2 origin lfirst, if c.kvNew.isSome then 0 else c.kvBase, chunkEnd s x c)

/-- R193: the context of a chunk that holds a query's position, the last of them where none does. -/
def queryContext (d : List Word) (l : List (Held × Nat × Nat)) : Option Held :=
  let holds := l.filter fun e => decide (e.2.1 ≤ atQpos d) && decide (atQpos d < e.2.2)
  match (if holds = [] then l.getLast? else holds[Config.kvContext d holds.length % holds.length]?) with
  | some e => some e.1
  | none => none

/-- The context of a stream (CTX 0), as core c attends it. -/
def pagedCtx (s : State) (c : Nat) (k : Core) (o : Op) : At Ctxt := do
  let d := o.desc
  let a := atLayer d
  let hd := atHead d
  let t := atPtr d
  let hb ← (match vread s t 64 with
    | .ok r => Except.ok r
    | .error e => .error (AtStop.fault e.1 e.2) : At (List Byte × Bool))
  let h := kvHeadOf hb.1
  let og ← atNat s (layerAddr t h a) 6
  let lf ← atNat s (layerAddr t h a + 8) 6
  let poison := hb.2 || og.2 || lf.2
  match kvStream s o with
  | none => return heldCtx d none poison (liveHeld s t h a hd h.length (h.length + 1) og.1 lf.1)
  | some (n, num) =>
    let x := getStream s n
    let own := if kvOwner x a hd = some c then some (stagingAt x.r.model.toNat a hd) else none
    match num.bind fun m => findChunk x m with
    | none => return heldCtx d own poison (liveHeld s t h a hd h.length (tabGetD 0 x.d.kvFlushed (256 * a + hd)) og.1 lf.1)
    | some ch =>
      if !ch.kvReady then .error (.wait 0) else
      let l := kvContexts s x ch t h a hd
      if l.any fun e => decide ((e.2.2 + 1) * pagePos h.i8 ≤ e.2.1) then .error (.wait (if k.flushHalt.isSome then 5 else 0))
      else match queryContext d (l.map fun e => heldOf s x ch t h a hd e og.1 lf.1) with
        | some e => return heldCtx d own poison e
        | none => .error .missing

/-- R201: a set or a graph (CTX 1 and 2). -/
def listCtx (s : State) (o : Op) : At Ctxt := do
  let d := o.desc
  let P := pagePos (atI8 d)
  let base ← atNat s (atPtr d) 8
  let nodes ← atNat s (atPtr d + 8) 4
  let offs ← atNat s (atPtr d + 16) 8
  let index ← atNat s (atPtr d + 24) 8
  let elem (i : Nat) : KvPage × Nat := (.mem (base.1 + 69632 * (i / P)) (base.1 + 69632 * (i / P) + 65536), i % P)
  if atCtx d = 1 then
    return { count := fun _ => .ok (nodes.1, false), attends := fun _ i => decide (i < nodes.1)
             place := fun _ i => .ok ((elem i).1, (elem i).2, false), bias := fun i => i, poison := base.2 || nodes.2 }
  else
    let off (n : Nat) : At (Nat × Bool) := atNat s (offs.1 + 4 * n) 4
    return {
      count := fun r => do
        let a ← off (atQpos d + r)
        let b ← off (atQpos d + r + 1)
        return (b.1 - a.1, a.2 || b.2)
      attends := fun _ _ => true
      place := fun r i => do
        let a ← off (atQpos d + r)
        let x ← atNat s (index.1 + 4 * (a.1 + i)) 4
        if x.1 = 0xFFFFFFFF then return (.zero, 0, a.2 || x.2)
        else if nodes.1 ≤ x.1 then .error .index else return ((elem x.1).1, (elem x.1).2, a.2 || x.2)
      bias := fun i => i
      poison := base.2 || nodes.2 || offs.2 || index.2 }

def contextOf (s : State) (c : Nat) (k : Core) (o : Op) : At Ctxt := if atCtx o.desc = 0 then pagedCtx s c k o else listCtx s o

/-! One block (R183-R185). -/

/-- The running state of a row: m, l and o. -/
structure St where
  m : Word
  l : Word
  o : List Word
  deriving DecidableEq, Repr

def St.start : St := { m := negF32max, l := 0, o := List.replicate 128 0 }
def St.nans : St := { m := qnan, l := qnan, o := List.replicate 128 qnan }

def tiny : Word := 0x2A7E0000

/-- The query row's codes and scales. -/
def queryOf (k : Core) (d : List Word) (q : Nat) : List Int × List Nat :=
  (codesOf 0 128 (spRead k (atQ d + 128 * q) 128), (spRead k (atQ d + 128 * atQs d + 4 * q) 4).map (·.toNat))

/-- R82, R83, R185: the first failing block of a tile of 8 positions of the score product: operand and cause. -/
def scoreFault (q : List Int × List Nat) (tile : List Kv) : Option (Nat × Nat) :=
  if tile = [] then none
  else (List.range 4).findSome? fun g =>
    let a := q.2.getD g 0
    if a = 255 then some (0, 2)
    else if tile.any fun kv => decide (kv.ks.getD g 0 = 255) then some (1, 2)
    else if tile.any fun kv => exponentBad 0 0 a (kv.ks.getD g 0) then some (0, 0) else none

/-- The tiles of 8 positions of a block. -/
def tilesOf8 {α : Type} (l : List α) : List (List α) := (List.range (ceilDiv l.length 8)).map fun i => (l.drop (8 * i)).take 8

/-- One run of 32 positions: codes and scale, by R184 and cvt_i8. -/
def runCodes (ws : List (Option Word)) : N (List Int × Nat) :=
  let act := ws.filterMap id
  if act.all fun w => !flt tiny w then pure (ws.map fun _ => 0, 0)
  else
    let e := deriveE8 (amaxOf act) 127
    do
      let cs ← ws.mapM fun w => match w with
        | some w => quantise w (e8val e) 127
        | none => pure 0
      return (cs, e)

/-- The value product of a head-dimension block: the outputs and whether the window is passed. -/
def valueBlock (items : List (Option (Word × Kv))) (g : Nat) : N (List Word × Bool) := do
  let runs := (List.range 16).map fun t => (items.drop (32 * t)).take 32
  let coded ← runs.mapM fun r => do
    let ws ← r.mapM fun x => match x with
      | some (p, kv) => (do let w ← rnd (f32val p * e8val (kv.vs.getD g 0)); return some w : N (Option Word))
      | none => pure none
    let c ← runCodes ws
    return (r, c)
  let bad := coded.any fun p => decide (156 < p.2.2)
  let outs ← (List.range 32).mapM fun j =>
    let d := 32 * g + j
    let sum : Rat := coded.foldl (fun acc p => acc + e8val p.2.2 *
      (((p.1.zip p.2.1).foldl (fun (z : Int) x => match x.1 with
        | some (_, kv) => z + x.2 * kv.vc.getD d 0
        | none => z) (0 : Int) : Int) : Rat)) 0
    rnd sum
  return (outs, bad)

/-- attend_block on the positions of a block, in position order; `none` where the row does not attend. The Boolean says
that the value product passed its window. A NaN score makes every p of the block NaN, so that its runs are zero blocks (R41, R189). -/
def attendBlock (d : List Word) (k : Core) (q : List Int × List Nat) (st : St) (items : List (Option (Kv × Nat))) : N (St × Bool) := do
  if items.all (·.isNone) then return (st, false)
  let scored ← items.mapM fun x => match x with
    | some (kv, bi) => (do
        let dot ← readOut (blocksSum q.2 kv.ks q.1 kv.kc)
        let v ← fmul dot (atScale d)
        let v ← if atBias d && decide (atCtx d = 2) then fadd v (enter (memWord k.sp (atBiasAddr d + 4 * bi))) else pure v
        return some (v, kv) : N (Option (Word × Kv)))
    | none => pure none
  let act := scored.filterMap id
  let mNew := fmaxw st.m (maxOf (act.map (·.1)))
  if isNan mNew then
    markNan
    return (if isZero st.l then { St.start with m := qnan, l := qnan } else St.nans, false)
  let probs ← scored.mapM fun x => match x with
    | some (v, kv) => (do
        let t ← fsub v mNew
        let p ← fn 1 t
        return some (p, kv) : N (Option (Word × Kv)))
    | none => pure none
  let lBlk ← exactSumF ((probs.filterMap id).map (·.1))
  let blocks ← (List.range 4).mapM fun g => valueBlock probs g
  let oBlk := blocks.flatMap (·.1)
  let bad := blocks.any (·.2)
  if isZero st.l then return ({ m := mNew, l := lBlk, o := oBlk }, bad)
  let dm ← fsub st.m mNew
  let alpha ← fn 1 dm
  let l1 ← fmul st.l alpha
  let l ← fadd l1 lBlk
  let o ← (List.range 128).mapM fun i => do
    let y ← fmul (nth st.o i) alpha
    fadd y (nth oBlk i)
  return ({ m := mNew, l := l, o := o }, bad)

/-- A shard of one query row and head: its partial, its conditions, and whether it read poison. -/
def shardPartial (s : State) (k : Core) (o : Op) (x : Ctxt) (leaf q : Nat) : At (St × Ev × Bool) := do
  let d := o.desc
  let row := q / max 1 (atG d)
  let query := queryOf k d q
  let cnt ← x.count row
  let n := cnt.1
  let biased := atBias d && decide (atCtx d = 2)
  (List.range 8).foldlM (fun (acc : St × Ev × Bool) b => do
    let lo := 4096 * leaf + 512 * b
    let items ← (List.range (min 512 (n - lo))).mapM fun i =>
      if x.attends row (lo + i) then do
        let pl ← x.place row (lo + i)
        let kv ← kvAt s k (atI8 d) pl.1 pl.2.1
        let b := x.bias (lo + i)
        return some ({ kv with poison := kv.poison || pl.2.2 || (biased && spPoisoned k (atBiasAddr d + 4 * b) 4) }, b)
      else pure none
    let kvs := items.filterMap id
    match (tilesOf8 items).findSome? fun t => scoreFault query ((t.filterMap id).map (·.1)) with
    | some (op, cause) => .error (.scale row b leaf op cause)
    | none =>
      if kvs.any fun e => e.1.vs.any (· == 255) then .error (.scale row b leaf 1 2)
      else
        let r := (attendBlock d k query acc.1 items).run acc.2.1
        if r.1.2 then .error (.scale row b leaf 0 0)
        else return (r.1.1, r.2, acc.2.2 || kvs.any fun e => e.1.poison)) (St.start, Ev.init, x.poison || cnt.2)

/-! Combining and finishing (R186-R188). -/

def attnCombine (x y : St) : N St :=
  if isZero x.l then pure y
  else if isZero y.l then pure x
  else do
    let m := fmaxw x.m y.m
    let dx ← fsub x.m m
    let ax ← fn 1 dx
    let dy ← fsub y.m m
    let ay ← fn 1 dy
    let lx ← fmul x.l ax
    let ly ← fmul y.l ay
    let l ← fadd lx ly
    let o ← (List.range 128).mapM fun i => do
      let a ← fmul (nth x.o i) ax
      let b ← fmul (nth y.o i) ay
      fadd a b
    return { m := m, l := l, o := o }

/-- The output and the statistics of a row. -/
def attnFinish (st : St) : N (List Word × Word × Word) :=
  if isZero st.l then do
    countEmpty
    return (List.replicate 128 0, negF32max, 0)
  else do
    let y ← (List.range 128).mapM fun i => fdiv (nth st.o i) st.l
    return (y, st.m, st.l)

def recOf (st : St) : List Byte := leBytes 4 st.m.toNat ++ leBytes 4 st.l.toNat ++ List.replicate 8 0 ++ bytesOfWords st.o

def stOf (bs : List Byte) : St :=
  { m := enter (wordAt bs 0), l := enter (wordAt bs 1), o := (List.range 128).map fun i => enter (wordAt bs (4 + i)) }

/-- The records of each leaf of an operation's IN, by leaf and then by row and head: from scratchpad in that order, or
from a ring by tag. The second component is the first refused tag. -/
def partialsIn (k : Core) (o : Op) : List (List (List Byte)) × Option Nat :=
  let d := o.desc
  match (atIn d).ring with
  | none => ((List.range (atCount d)).map fun j => (List.range (atQs d)).map fun q =>
      spRead k ((atIn d).base + recBytes * (j * atQs d + q)) recBytes, none)
  | some r =>
    let sb := inSlot o r
    let l := (List.range (inTagsOf o r).length).filterMap fun i => ((inTagsOf o r).getD i none).map fun t => (t.toNat, ((inBytes o r).drop (sb * i)).take recBytes)
    let step (acc : List (List (List Byte)) × Option Nat) (e : Nat × List Byte) : List (List (List Byte)) × Option Nat :=
      if acc.2.isSome then acc
      else
        let j := (e.1 + 65536 - atFirst d % 65536) % 65536
        if j < atCount d ∧ (acc.1.getD j []).length < atQs d then (upd acc.1 j (· ++ [e.2]), none) else (acc.1, some e.1)
    l.foldl step (List.replicate (atCount d) [], none)

def partialsFull (d : List Word) (l : List (List (List Byte))) : Bool := l.all fun p => decide (atQs d ≤ p.length)

/-- R187: the node's partials combined in canonical order, for each row and head. -/
def combineAll (d : List Word) (l : List (List (List Byte))) : N (List St) :=
  (List.range (atQs d)).mapM fun q => do
    let r ← canonicalTree attnCombine (l.map fun p => stOf (p.getD q []))
    return r.getD St.start

/-! Completion and halts. -/

/-- Table 3.4 for the attention sequencer: row, block and leaf; all ones where a field names no place. -/
def atPosition (row block leaf operand : Nat) : Nat :=
  row % 65536 + 2 ^ 16 * (block % 65536) + 2 ^ 32 * (leaf % 65536) + 2 ^ 49 * operand + 2 ^ 50

/-- One record to the output: at its address, or in a slot of its own whose tag is its leaf. -/
def putRecord (k : Core) (id i leaf : Nat) (free : Nat) (bs : List Byte) : Core :=
  match findOp k id with
  | none => k
  | some o =>
    match (atOut o.desc).ring with
    | none => opWrite k o ((atOut o.desc).base + recBytes * i) bs
    | some r =>
      let sb := slotBytes (getRing k r)
      putOp k (wholeSlot o r (BitVec.ofNat 16 leaf) ((bs ++ leBytes (sb - bs.length) free).take sb))

def atIdle (c : Nat) (o : Op) (s : State) : State :=
  finishOp c o.id (modCore s c fun k => match findOp k o.id with | some o => putOp k { o with ended := true } | none => k)

def markPoison (k : Core) (id : Nat) (p : Bool) : Core :=
  match findOp k id with
  | some o => putOp k { o with poison := o.poison || p }
  | none => k

/-- R183: the partials of the operation's shards, in shard order, then row and head. -/
def atPartials (s : State) (c : Nat) (k : Core) (o : Op) : At (List (Nat × St × Ev × Bool)) := do
  let d := o.desc
  let x ← contextOf s c k o
  let l ← (List.range (atCount d)).mapM fun j => (List.range (atQs d)).mapM fun q => do
    let p ← shardPartial s k o x (atFirst d + j) q
    return (atFirst d + j, p)
  return l.flatten

def atInputs (k : Core) (o : Op) : Core :=
  match (if atOp o.desc = 0 then none else (atIn o.desc).ring) with
  | some r => pullRing k o.id r (atCount o.desc * atQs o.desc * slotBytes (getRing k r))
  | none => k

/-- R174, R182, R185, R276, R279: what stops a PARTIAL operation. -/
def atStopped (c : Nat) (o : Op) (st : AtStop) (s : State) : State :=
  match st with
  | .wait cause => modCore s c (countStall cause 1)
  | .missing => haltOp c o (raiseTransfer 0x0302 c o 0 (dmaPosition (0, 0, 0, 0) 0 o.id 0 4 0) 0) 0x12 s
  | .index => haltOp c o (raiseTransfer 0x0302 c o 0 (dmaPosition (0, 0, 0, 0) 0 o.id 0 2 0) 0) 0x12 s
  | .scale row b leaf op cause => scaleHalt c o cause (atPosition row b leaf op) s
  | .fault kind va =>
    let j := joinFault va kind false 0 c o.id s
    let s := modCore j.2 c fun k => putOp k { o with suspended := some (j.1.getD 1024), undone := [(0, kind, va, false)] }
    match j.1 with
    | some f => raiseTransfer 0x0301 c o f (dmaPosition (0, 0, 0, 0) 0 o.id 0 0 0) va s
    | none => s

/-- R199: an evicted page is read over the host link, 69,632 B each time that a query attends it. -/
def evictedRead (s : State) (x : Ctxt) (d : List Word) (row i : Nat) : Nat :=
  let P := pagePos (atI8 d)
  if (List.range P).any fun r => x.attends row (i + r) then
    match x.place row i with
    | .ok (.mem a _, _) => (match translate s a false with
      | .ok (true, _) => 69632
      | _ => 0)
    | _ => 0
  else 0

/-- HOST_KV_BYTES of Table 9.9 for one PARTIAL operation of a stream's context. -/
def evictedBytes (s : State) (c : Nat) (k : Core) (o : Op) : Nat :=
  let d := o.desc
  match (if atCtx d = 0 then contextOf s c k o else .error .missing) with
  | .error _ => 0
  | .ok x =>
    let P := pagePos (atI8 d)
    (((List.range (atCount d)).flatMap fun j => (List.range (atRows d)).flatMap fun row => (List.range (4096 / P)).map fun i =>
      evictedRead s x d row (4096 * (atFirst d + j) + P * i))).foldl (· + ·) 0

def countEvicted (o : Op) (n : Nat) (s : State) : State :=
  match o.tok with
  | some (x, _, _) => if n = 0 then s else modStream s x.toNat fun y => { y with c.hostKvBytes := y.c.hostKvBytes + n }
  | none => s

/-- R183: a PARTIAL operation. -/
def runPartial (c : Nat) (o : Op) (s : State) : State :=
  let k := getCore s c
  match atPartials s c k o with
  | .error e => atStopped c o e s
  | .ok l =>
    let ev := l.foldl (fun e p => evAdd e { p.2.2.1 with nonfinite := 0 }) Ev.init
    let free := draw (countEvicted o (evictedBytes s c k o) s)
    let k := markPoison k o.id (l.any (fun p => p.2.2.2) || spPoisoned k (atQ o.desc) (132 * atQs o.desc))
    let k := (List.range l.length).foldl (fun k i =>
      let p := l.getD i (0, St.start, Ev.init, false)
      putRecord k o.id i p.1 free.1 (recOf p.2.1)) k
    atIdle c o (opEv o ev (setCore free.2 c k))

/-- R187, R188: a COMBINE or FINISH operation whose partials are all there. -/
def runCombine (c : Nat) (o : Op) (l : List (List (List Byte))) (s : State) : State :=
  let d := o.desc
  let k := getCore s c
  let k := markPoison k o.id ((atIn d).ring.isNone && spPoisoned k (atIn d).base (recBytes * atQs d * atCount d))
  let r := (combineAll d l).run Ev.init
  let free := draw s
  if atOp d = 1 then
    let k := (List.range r.1.length).foldl (fun k q => putRecord k o.id q (atFirst d) free.1 (recOf (r.1.getD q St.start))) k
    atIdle c o (opEv o { r.2 with nonfinite := 0 } (setCore free.2 c k))
  else
    let f := (r.1.mapM attnFinish).run r.2
    let bytes := f.1.flatMap fun p => bytesOfWords p.1
    let nans := (f.1.map fun p => (p.1.filter isNan).length).foldl (· + ·) 0
    let o' := (findOp k o.id).getD o
    let k := match (atOut d).ring with
      | some rg => putOp k (toRing k o' rg seqTag bytes)
      | none => opWrite k o' (atOut d).base bytes
    let k := if atStats d then opWrite k o' (atStatAddr d) (f.1.flatMap fun p => leBytes 4 p.2.1.toNat ++ leBytes 4 p.2.2.toNat) else k
    atIdle c o (opEv o { f.2 with nonfinite := nans, nan := f.2.nan || decide (0 < nans) } (setCore s c k))

/-- What stands in the way of the operation: its queries or partials by address, its biases, and its outputs. -/
def atReady (s : State) (k : Core) (o : Op) : Ready × Nat :=
  let d := o.desc
  worstReady false [
    if atOp d = 0 then spReady k o (atQ d) (132 * atQs d)
      else if (atIn d).ring.isNone then srcReady k o (atIn d) 0 (recBytes * atQs d * atCount d) else .ok,
    spReady k o (atBiasAddr d) (4 * atBiasCount s d),
    outReady k (atOut d) 0 (atOutBytes d),
    if atOp d = 2 && atStats d then spOutReady k (atStatAddr d) (8 * atQs d) else .ok]

/-- R187: the attention operation at the head of the queue completes, waits, is suspended at a page fault, or halts. -/
def atComplete (c : Nat) (s : State) : State :=
  let k := getCore s c
  match headOp k 3 with
  | none => s
  | some o =>
    if o.ended then finishOp c o.id s
    else if o.suspended.isSome then setCore s c (countStall 5 1 k)
    else
      let d := o.desc
      let k := atInputs k o
      let o := (findOp k o.id).getD o
      let s := setCore s c k
      match atReady s k o with
      | (.poisoned, _) => poisonHalt c o s
      | (.raw w r i a, _) => rawHalt c o w 5 r i a s
      | (.ok, _) =>
        if atOp d = 0 then runPartial c o s
        else
          let p := partialsIn k o
          match p.2 with
          | some t => scaleHalt c o 15 (atPosition 0xFFFF 0xFFFF t 0) s
          | none =>
            if partialsFull d p.1 then runCombine c o p.1 s
            else if ((atIn d).ring.bind (poisonAt o)).isSome then poisonHalt c o s
            else setCore s c (countStall (match ((atIn d).ring.bind fun r => (getRing k r).writer) with
              | some w => if opSuspended k w then 5 else 0
              | none => 0) 1 k)
      | (_, cause) => setCore s c (countStall cause 1 k)

end Sys2Proof.Machine
end

