-- ==== Sys2Proof/Machine/Dma.lean ====
section
/-! DEFINITION. The DMA engine (R249-R280): its descriptor, its requests and tags, index streams, weight chains, faults
in the middle of a transfer; FILL and COPY (R211, R212); and the movement of ring slots between cores. When the engine
acts is in Movement.lean. -/

namespace Sys2Proof.Machine

/-! The descriptor (Table 8.2). -/

def dKind (d : List Word) : Nat := fld (nth d 0) 0 4
def dTtd (d : List Word) : Nat := fld (nth d 0) 4 3
def dGrantEnd (d : List Word) : Bool := bit (nth d 0) 7
def dTagMode (d : List Word) : Nat := fld (nth d 0) 8 2
def dTagDim (d : List Word) : Nat := fld (nth d 0) 10 3
def dTagBase (d : List Word) : Nat := fld (nth d 0) 16 16
def dFixed (d : List Word) : Nat := fld (nth d 1) 0 16
def dReg (d : List Word) : Nat := fld (nth d 1) 16 5
def dRun (d : List Word) : Nat := fld (nth d 2) 0 17
def dN (d : List Word) (i : Nat) : Nat :=
  match i with
  | 1 => fld (nth d 3) 0 16
  | 2 => fld (nth d 3) 16 16
  | 3 => fld (nth d 4) 0 16
  | _ => fld (nth d 4) 16 16
def dSrc (d : List Word) : Nat := fld (nth d 5) 0 4
def dSrcRing (d : List Word) : Nat := fld (nth d 5) 4 4
def dSrcAddr (d : List Word) : Nat := nth64 d 6
def dSrcS (d : List Word) (i : Nat) : Int := (nth d (7 + i)).toInt
def dDst (d : List Word) : Nat := fld (nth d 12) 0 4
def dDstRing (d : List Word) : Nat := fld (nth d 12) 4 4
def dGrant (d : List Word) : Nat := fld (nth d 12) 8 2
def dDstAddr (d : List Word) : Nat := nth64 d 13
def dDstS (d : List Word) (i : Nat) : Int := (nth d (14 + i)).toInt
def dIdx (d : List Word) : Src := srcOf (nth d 19)
def dIdx16 (d : List Word) : Bool := bit (nth d 19) 22
def dShift (d : List Word) : Nat := fld (nth d 19) 23 5

def dRuns (d : List Word) : Nat := dN d 1 * dN d 2 * dN d 3 * dN d 4

/-- The bytes of the transfer. -/
def dTotal (d : List Word) : Nat := dRuns d * dRun d

/-- The scratchpad byte and the core of an address of space 1, 3 or 4. -/
def spAddr (a : Nat) : Nat := a % 2 ^ 17
def spCore (a : Nat) : Nat := a / 2 ^ 32 % 2 ^ 17

/-- R272: the members of a weight chain: core, ring and credits. -/
def chainTable (k : Core) (d : List Word) : List (List Word) :=
  (List.range (dDstAddr d / 2 ^ 32 % 16 + 1)).map fun m => wordsOf 2 (spRead k (spAddr (dDstAddr d) + 8 * m) 8)

def chainMember (w : List Word) : BitVec 17 × BitVec 4 := (BitVec.ofNat 17 (fld (nth w 0) 0 17), BitVec.ofNat 4 (fld (nth w 0) 17 4))

/-! Checks at issue (R258, R260, R272). -/

def spaceForm (sp a : Nat) : Bool :=
  match sp with
  | 0 => decide (a < 2 ^ 48)
  | 1 => decide (a < 2 ^ 17)
  | 2 => decide (a = 0)
  | 3 => decide (a % 2 ^ 32 < 2 ^ 17) && decide (a / 2 ^ 32 < 2 ^ 17)
  | 4 => decide (a % 2 ^ 32 < 2 ^ 17) && decide (a / 2 ^ 32 < 16)
  | _ => false

/-- Table 8.4. -/
def pairOk (src dst kind : Nat) : Bool :=
  match src with
  | 0 => decide (dst ∈ [0, 1, 2, 4]) && decide (kind ≤ 1)
  | 1 | 2 => decide (dst ∈ [0, 3, 4]) && (decide (kind = 0) || (decide (kind = 2) && decide (dst ≠ 4)))
  | 3 => decide (dst ∈ [1, 2]) && decide (kind ≤ 1)
  | _ => false

/-- Bytes of one step of dimension n. -/
def stepBytes (d : List Word) (n : Nat) : Nat := ((List.range (n - 1)).map fun i => dN d (i + 1)).foldl (· * ·) (dRun d)

/-- The slot size of the destination: of the local ring, or of the first member's. -/
def dstSlot (s : State) (k : Core) (d : List Word) (members : List (BitVec 17 × BitVec 4)) : Nat :=
  if dDst d = 2 then slotBytes (getRing k (dDstRing d))
  else match members with
    | m :: _ => slotBytes (getRing (getCore s m.1.toNat) m.2.toNat)
    | [] => 64

/-- The lowest and highest addresses of a strided side. -/
def dExtent (d : List Word) (base : Nat) (st : List Word → Nat → Int) : Int × Int :=
  [1, 2, 3, 4].foldl (fun p i => let e := ((dN d i - 1 : Nat) : Int) * st d i; (p.1 + min 0 e, p.2 + max 0 e)) ((base : Int), (base : Int) + dRun d)

/-- The side of a transfer that the index stream addresses: 0 none, 1 source, 2 destination. -/
def indexed (d : List Word) : Nat := dKind d

def stridesOk (d : List Word) (st : List Word → Nat → Int) : Bool := [1, 2, 3, 4].all fun i => decide (st d i % 4 = 0)

def dmaEncoding (s : State) (k : Core) (d : List Word) : Bool :=
  let ms := if dDst d = 4 then chainTable k d else []
  let localSide (sp a : Nat) (st : List Word → Nat → Int) : Bool :=
    decide (sp = 1) && (let e := dExtent d a st; decide (e.1 < 0) || decide ((spBytes : Int) < e.2))
  decide (2 < dKind d) || decide (3 < dTtd d) || decide (2 < dTagMode d) ||
  (if dTagMode d = 1 then decide (dTagDim d = 0) || decide (4 < dTagDim d) else decide (dTagDim d ≠ 0)) ||
  decide (fld (nth d 0) 13 3 ≠ 0) || decide (fld (nth d 1) 21 11 ≠ 0) || decide (fld (nth d 2) 17 15 ≠ 0) ||
  decide (fld (nth d 5) 8 24 ≠ 0) || decide (fld (nth d 12) 10 22 ≠ 0) || decide (fld (nth d 19) 28 4 ≠ 0) ||
  !((List.range 9).all fun i => decide (nth d (23 + i) = 0)) ||
  !pairOk (dSrc d) (dDst d) (dKind d) || !spaceForm (dSrc d) (dSrcAddr d) || !spaceForm (dDst d) (dDstAddr d) ||
  !([1, 2, 3, 4].all fun i => decide (1 ≤ dN d i)) ||
  decide (dRun d < 4) || decide (65536 < dRun d) || decide (dRun d % 4 ≠ 0) ||
  (decide (dSrc d = 1 ∨ dSrc d = 3) && decide (dSrcAddr d % 4 ≠ 0)) ||
  (decide (dDst d = 1 ∨ dDst d = 3 ∨ dDst d = 4) && decide (dDstAddr d % 4 ≠ 0)) ||
  (decide (indexed d ≠ 0) && (dIdx d).ring.isNone && decide ((dIdx d).base % 4 ≠ 0)) ||
  (decide (dSrc d ≠ 2 ∧ indexed d ≠ 1) && !stridesOk d dSrcS) ||
  (decide (dDst d ≠ 2 ∧ dDst d ≠ 4 ∧ indexed d ≠ 2) && !stridesOk d dDstS) ||
  localSide (dSrc d) (dSrcAddr d) dSrcS || localSide (dDst d) (dDstAddr d) dDstS ||
  (decide (dSrc d = 2) && (let x := getRing k (dSrcRing d); !x.en || x.fwd)) ||
  (decide (dDst d = 2) && !(getRing k (dDstRing d)).en) ||
  (decide (indexed d ≠ 0) && match (dIdx d).ring with
    | some r => !(getRing k r).en || (getRing k r).fwd
    | none => false) ||
  (decide (dTtd d = 0 ∨ dTtd d = 3) && decide (dDst d ≠ 2 ∧ dDst d ≠ 4)) ||
  (decide (dTagMode d = 1) && decide (dDst d = 2 ∨ dDst d = 4) && decide (stepBytes d (dTagDim d) % dstSlot s k d (ms.map chainMember) ≠ 0)) ||
  (decide (dTagMode d = 2) && decide (dKind d = 0)) || (dGrantEnd d && decide (dDst d ≠ 3)) ||
  (ms.any fun w => decide (fld (nth w 0) 21 11 ≠ 0) || decide (fld (nth w 1) 12 20 ≠ 0) || decide (fld (nth w 1) 0 12 = 0) ||
    decide (2048 < fld (nth w 1) 0 12) || !coreExists s (chainMember w).1)

/-- The local destination addresses ascend in transfer order. -/
def dAscending (d : List Word) : Bool :=
  ([1, 2, 3, 4].foldl (fun (p : Bool × Int) i =>
    (p.1 && (decide (dN d i = 1) || decide (p.2 ≤ dDstS d i)), ((dN d i - 1 : Nat) : Int) * dDstS d i + p.2)) (true, (dRun d : Int))).1

def dmaPlan (s : State) (k : Core) (o : Op) : Plan :=
  let d := o.desc
  let side (sp a : Nat) (st : List Word → Nat → Int) (w : Bool) : List Range :=
    if sp = 1 then (let e := dExtent d a st; [{ lo := e.1.toNat, len := (e.2 - e.1).toNat, write := w }]) else []
  { ranges := side (dSrc d) (dSrcAddr d) dSrcS false ++ side (dDst d) (dDstAddr d) dDstS true ++
      (if indexed d = 0 then [] else addressed (dIdx d) { lo := (dIdx d).base, len := dRuns d * (if dIdx16 d then 2 else 4), write := false }) ++
      (if dDst d = 4 then [{ lo := spAddr (dDstAddr d), len := 8 * (dDstAddr d / 2 ^ 32 % 16 + 1), write := false }] else [])
    reads := (if dSrc d = 2 then [dSrcRing d] else []) ++ (if indexed d = 0 then [] else (dIdx d).ring.toList)
    writes := if dDst d = 2 then [dDstRing d] else []
    regs := if dTtd d = 1 ∨ dTtd d = 3 then [dReg d] else []
    tensors := 0
    check := if dmaEncoding s k d then some 3 else none
    asc := if dAscending d then side (dDst d) (dDstAddr d) dDstS true else [] }

/-! Positions, runs and requests (R254, R259, R264). -/

/-- The indices of a run, dimension 1 innermost. -/
def runIndex (d : List Word) (r : Nat) : Nat × Nat × Nat × Nat :=
  (r % dN d 1, r / dN d 1 % dN d 2, r / (dN d 1 * dN d 2) % dN d 3, r / (dN d 1 * dN d 2 * dN d 3))

def runAddr (d : List Word) (base : Nat) (st : List Word → Nat → Int) (r : Nat) : Int :=
  let i := runIndex d r
  (base : Int) + i.1 * st d 1 + i.2.1 * st d 2 + i.2.2.1 * st d 3 + i.2.2.2 * st d 4

/-- The index of a run, as the index stream gives it. -/
def idxBytes (d : List Word) : Nat := if dIdx16 d then 2 else 4

def idxValue (k : Core) (o : Op) (r : Nat) : Nat := leNat (srcRead k o (dIdx o.desc) (r * idxBytes o.desc) (idxBytes o.desc))

def isNull (d : List Word) (x : Nat) : Bool := decide (x = if dIdx16 d then 0xFFFF else 0xFFFFFFFF)

/-- R264. -/
def idxAddr (d : List Word) (base x : Nat) : Int :=
  (base + x / 2 ^ dShift d * (nth d 20).toNat + x % 2 ^ dShift d * (nth d 21).toNat : Nat)

/-- The source and destination addresses of the byte at position p. -/
def srcAt (k : Core) (o : Op) (p : Nat) : Int :=
  let d := o.desc
  let r := p / dRun d
  (if indexed d = 1 then idxAddr d (dSrcAddr d % 2 ^ (if dSrc d = 3 then 32 else 48)) (idxValue k o r)
    else runAddr d (dSrcAddr d % 2 ^ (if dSrc d = 3 then 32 else 48)) dSrcS r) + (p % dRun d : Nat)

def dstAt (k : Core) (o : Op) (p : Nat) : Int :=
  let d := o.desc
  let r := p / dRun d
  (if indexed d = 2 then idxAddr d (dDstAddr d % 2 ^ (if dDst d = 3 then 32 else 48)) (idxValue k o r)
    else runAddr d (dDstAddr d % 2 ^ (if dDst d = 3 then 32 else 48)) dDstS r) + (p % dRun d : Nat)

/-- Bytes to the next 256 B boundary. -/
def to256 (a : Int) : Nat := 256 - (a % 256).toNat

/-- R254: the length of the request that begins at position p. -/
def reqLen (s : State) (k : Core) (o : Op) (p : Nat) : Nat :=
  let d := o.desc
  let rest := dRun d - p % dRun d
  let null := decide (indexed d = 1) && isNull d (idxValue k o (p / dRun d))
  let src := match dSrc d with
    | 1 => rest
    | 2 => (let sb := slotBytes (getRing k (dSrcRing d)); sb - p % sb)
    | _ => if null then rest else to256 (srcAt k o p)
  let dst := match dDst d with
    | 0 | 3 => to256 (dstAt k o p)
    | 1 => rest
    | 2 => (let sb := dstSlot s k d o.members; sb - p % sb)
    | _ => (let sb := dstSlot s k d o.members; min (sb - p % sb) (256 - p % sb % 256))
  max 1 (min rest (min src dst))

/-- R262: the tag of the slot with a sequence number. -/
def dmaTag (s : State) (k : Core) (o : Op) (q : Nat) : Half :=
  let d := o.desc
  let sb := dstSlot s k d o.members
  match dTagMode d with
  | 0 => BitVec.ofNat 16 (dTagBase d + q)
  | 1 => BitVec.ofNat 16 (dTagBase d + q % max 1 (stepBytes d (dTagDim d) / sb))
  | _ => BitVec.ofNat 16 (idxValue k o (q * sb / dRun d))

/-- The position of the next request to send. -/
def nextPos (o : Op) : Option Nat :=
  match o.replay with
  | p :: _ => some p
  | [] => if o.pos < dTotal o.desc then some o.pos else none

def passPos (o : Op) (n : Nat) : Op :=
  match o.replay with
  | _ :: r => { o with replay := r }
  | [] => { o with pos := o.pos + n }

/-- The run at a position has the null index. -/
def nullRun (k : Core) (o : Op) (p : Nat) : Bool := decide (indexed o.desc ≠ 0) && isNull o.desc (idxValue k o (p / dRun o.desc))

/-- The indices of the run at a position are there. -/
def idxReady (k : Core) (o : Op) (p : Nat) : Ready :=
  let d := o.desc
  if indexed d = 0 then .ok else srcReady k o (dIdx d) (p / dRun d * idxBytes d) (idxBytes d)

/-! Time-to-dry (R267-R269). -/

def dryOf (fill bytes : Nat) : Nat := if fill = 0 then 0 else if bytes = 0 then 0xFFFF else min 0xFFFF (fill * 25 / bytes)

/-- R268: a ring of the core itself. -/
def ringDry (s : State) (x : Ring) : Nat := dryOf (ringFill x) (rollWindow (now s) x).lastBytes

/-- R268: the target of a forward ring, as last reported. -/
def forwardDry (x : Ring) : Nat := dryOf x.farFilled x.farBytes

def timeToDry (s : State) (k : Core) (o : Op) : Nat :=
  let d := o.desc
  let ring := if dDst d = 4 then (o.farDry.map fun e => dryOf e.1 e.2).foldl min 0xFFFF else ringDry s (getRing k (dDstRing d))
  let left := (nth o.regs (dReg d) - BitVec.ofNat 32 (now s)).toInt
  let dl := min 0xFFFF ((max 0 left).toNat / 128)
  match dTtd d with
  | 0 => ring
  | 1 => dl
  | 2 => dFixed d
  | _ => min ring dl

def dryAt (s : State) (t : Nat) : BitVec 24 := BitVec.ofNat 24 (now s / 128 + t)

/-! Landing in device-virtual memory. -/

/-- R23, R152: the layer has not been completed, so its state writes are still held back. -/
def layerOpen (s : State) (n : Nat) (num : DWord) (l : Nat) : Bool :=
  match findChunk (getStream s n) num with
  | some c => !(layerOf c l).complete
  | none => false

/-- R69, R152: the layer whose state section an address of the operation's stream lies in holds its writes back until
it is judged. -/
def inStateBlock (s : State) (o : Op) (a : Nat) : Bool :=
  match o.tok with
  | none => false
  | some (n, num, _) =>
    let x := getStream s n.toNat
    match findChunk x num with
    | none => false
    | some c =>
      let b := x.r.statePtr.toNat
      let len := ((chunkTemplate s x c).map (·.blockBytes)).getD 0
      (decide (b ≠ 0) && decide (b ≤ a) && decide (a < b + len)) ||
        (match x.d.movingTo with
          | some m => decide (m.toNat ≤ a) && decide (a < m.toNat + len)
          | none => false)

/-- R428: a write to the home package's result ranges of a chunk that this package runs a part of goes home with its report;
none where the address is no such place. -/
def farWrite (o : Op) (a : Nat) (bs : List Byte) (s : State) : Option State :=
  o.tok.bind fun t => (findChunk (getStream s t.1.toNat) t.2.1).bind fun c =>
    if c.home.isSome && c.farOut.any fun r => decide (r.1 ≤ a) && decide (a + bs.length ≤ r.1 + r.2) then
      some (modChunk s t.1.toNat c.num fun c => { c with result := c.result ++ [(a, bs)] })
    else none

/-- A device-virtual write lands. -/
def landWrite (o : Op) (a : Nat) (pl : Place) (bs : List Byte) (poison : Bool) (s : State) : State :=
  match o.tok with
  | some (n, num, l) =>
    if inStateBlock s o a && (layerOpen s n.toNat num l.toNat) then
      modLayer s n.toNat num l.toNat fun w => { w with stateWrites := w.stateWrites ++ [(a, bs, poison)] }
    else writePlace s pl bs poison
  | none => writePlace s pl bs poison

/-- R276: a request or a null run meets a fault; the operation keeps its position. -/
def noteFault (c id p kind va : Nat) (w : Bool) (s : State) : State :=
  modCore s c fun k => match findOp k id with
    | some o => putOp k { o with undone := o.undone ++ [(p, kind, va, w)] }
    | none => k

/-! Delivery (R261, R273). -/

/-- R261: the mark of a local write range stands at the lowest line not yet finished. -/
def dmaMark (k : Core) (id : Nat) : Core :=
  match findOp k id with
  | none => k
  | some o =>
    let open' := (k.reqs.filter fun q => decide (q.op = id)).map (·.idx) ++ o.undone.map (·.1) ++ o.replay ++
      (if o.pos < dTotal o.desc then [o.pos] else [])
    match (if dDst o.desc = 1 then open'.min? else none) with
    | some p => { k with sb := k.sb.map fun e => if e.write ∧ e.asc ∧ e.op = id then { e with mark := max e.mark ((dstAt k o p).toNat / 32 * 32) } else e }
    | none => k

/-- Bytes set at an offset of a slot's bytes. -/
def splice (bs : List Byte) (off : Nat) (xs : List Byte) : List Byte := bs.take off ++ xs ++ bs.drop (off + xs.length)

/-- A whole chain slot leaves for the first member. -/
def chainMsg (c : Nat) (o : Op) (tag : Half) (bs : List Byte) (poison : Bool) (dry : BitVec 24) : List Msg :=
  match o.members with
  | m :: rest => [Msg.chain (BitVec.ofNat 17 c) m.1 m.2 tag bs poison false o.serial 0 rest dry]
  | [] => []

/-- The bytes of the transfer that slot q of a destination of slots of `sb` bytes takes. -/
def slotPart (d : List Word) (sb q : Nat) : Nat := min sb (dTotal d - q * sb)

/-- R279: the reasons for a halt that waits for the requests in flight: a cause of Table 8.7; 16 a poison slot; 17 and 18 a
raw read or write inside a ring. -/
def haltAt (k : Core) (o : Op) (cause p : Nat) : Core := putOp k { o with halting := o.halting.orElse fun _ => some (cause, p) }

/-- The ring, slot and address of a raw access, as one number. -/
def rawCode (v : Nat × Nat × Nat) : Nat := v.1 + 16 * (v.2.1 + 2048 * v.2.2)

/-- The bytes of a request, or of a zeroed run, reach their destination. -/
def deliverTo (c id p : Nat) (bs : List Byte) (poison : Bool) (dry : BitVec 24) (s : State) : State :=
  let k := getCore s c
  match findOp k id with
  | none => s
  | some o =>
    let d := o.desc
    let poison := poison || o.poison
    match dDst d with
    | 1 =>
      let a := (dstAt k o p).toNat
      match rawViolation k false true a bs.length with
      | some v => setCore s c (haltAt k o 18 (rawCode v))
      | none => setCore s c (dmaMark (spWrite k a bs poison) id)
    | 2 =>
      let x := getRing k (dDstRing d)
      let sb := slotBytes x
      let q := p / sb
      match tabGet o.slotFill q with
      | none => s
      | some (i, n) =>
        let k := spWrite k (slotAddr x i + p % sb) bs poison
        let k := putOp k { o with slotFill := tabPut o.slotFill q (i, n + bs.length) }
        setCore s c (if n + bs.length = sb then setRing k (dDstRing d) (modSlot x i fun t => { t with state := .full }) else k)
    | 4 =>
      let sb := dstSlot s k d o.members
      let q := p / sb
      let e := tabGetD (0, false, List.replicate sb 0) o.chainFill q
      let n := e.1 + bs.length
      let e' := (n, e.2.1 || poison, splice e.2.2 (p % sb) bs)
      let m := slotPart d sb q
      if n = m then
        let x := drawBytes s (sb - m)
        let s := setCore x.2 c (putOp k { o with chainFill := tabPut o.chainFill q (n, e'.2.1, []) })
        { s with mesh := s.mesh ++ chainMsg c o (dmaTag s k o q) (e'.2.2.take m ++ x.1) e'.2.1 dry }
      else setCore s c (putOp k { o with chainFill := tabPut o.chainFill q e' })
    | 0 =>
      let a := (dstAt k o p).toNat
      match farWrite o a bs s with
      | some s => s
      | none => match dieTranslate (coreDie s c) a true s with
        | (.error kind, s) => noteFault c id p kind a true s
        | (.ok pl, s) => landWrite o a pl bs poison s
    | _ => s

/-- R265: the committed slots of the index ring are taken as far as the next request needs them; each is read, and its
release follows, once the requests of its last index have been sent. -/
def pullIndex : Nat → Core → Nat → Nat → Nat → Core
  | 0, k, _, _, _ => k
  | f + 1, k, id, r, need =>
    match findOp k id with
    | none => k
    | some o =>
      let x := getRing k r
      let ahead := (inTagsOf o r).length - o.idxRead
      match ((filledSlots x).filter fun q => decide (q.state = .committed))[ahead]? with
      | none => k
      | some q =>
        if (inBytes o r).length < need ∧ (poisonAt o r).isNone ∧ x.reader = some id then
          let n := slotBytes x
          let a := slotAddr x q.idx
          let tag := if q.poison then none else some (tagAt k a)
          pullIndex f (putOp k { o with
            inBuf := tabPut o.inBuf r (inBytes o r ++ spRead k a n)
            inTags := (o.inTags.filter fun e => decide (e.1 ≠ r)) ++ [(r, n, inTagsOf o r ++ [tag])]
            poison := o.poison || (!q.poison && spPoisoned k a n) }) id r need
        else k

/-- The first committed slot of a ring has been read. -/
def readFirst (k : Core) (r : Nat) : Core :=
  match (filledSlots (getRing k r)).find? fun q => decide (q.state = .committed) with
  | some q => setRing k r (modSlot (getRing k r) q.idx fun s => { s with state := .read })
  | none => k

/-- R265: index slots whose last index has been used up to position p are read; all that were taken, at the end. -/
def releaseIndex (k : Core) (id p : Nat) : Core :=
  match findOp k id with
  | none => k
  | some o =>
    match (if indexed o.desc = 0 then none else (dIdx o.desc).ring) with
    | none => k
    | some r =>
      let used := if p < dTotal o.desc then p / dRun o.desc * idxBytes o.desc / max 1 (inSlot o r) else (inTagsOf o r).length
      let k := (List.range (used - o.idxRead)).foldl (fun k _ => readFirst k r) k
      putOp k { o with idxRead := max o.idxRead used }

/-! The halt (R279). -/

/-- The requests from a position on, as far as their indices are known; null runs make none. -/
def requestsFrom : Nat → State → Core → Op → Nat → List (Nat × Nat)
  | 0, _, _, _, _ => []
  | f + 1, s, k, o, p =>
    if p < dTotal o.desc ∧ idxReady k o p = .ok then
      let n := reqLen s k o p
      (if nullRun k o p then [] else [(p, n)]) ++ requestsFrom f s k o (p + n)
    else []

/-- The null runs of a GATHER from a position on, as far as their indices are known. -/
def nullsFrom : Nat → State → Core → Op → Nat → List (Nat × Nat)
  | 0, _, _, _, _ => []
  | f + 1, s, k, o, p =>
    if p < dTotal o.desc ∧ indexed o.desc = 1 ∧ idxReady k o p = .ok then
      let n := reqLen s k o p
      (if nullRun k o p then [(p, n)] else []) ++ nullsFrom f s k o (p + n)
    else []

/-- The index that a request follows is in range, so that a SCATTER has a place for it. -/
def placed (k : Core) (o : Op) (p : Nat) : Bool :=
  decide (indexed o.desc ≠ 2) || decide (idxValue k o (p / dRun o.desc) < (nth o.desc 22).toNat)

/-- R279: addressed destination bytes that were not delivered are X. -/
def unstateRest (c : Nat) (o : Op) (s : State) : State :=
  if dDst o.desc = 0 ∨ dDst o.desc = 1 then
    let k := getCore s c
    let late := (o.undone.map (·.1) ++ o.replay).map fun p => (p, reqLen s k o p)
    let rest := requestsFrom (dTotal o.desc) s k o o.pos ++ nullsFrom (dTotal o.desc) s k o o.pos
    ((late ++ rest).filter fun e => placed k o e.1).foldl (fun s e =>
      let x := drawBytes s e.2
      let a := (dstAt k o e.1).toNat
      if dDst o.desc = 1 then modCore x.2 c fun k => spWrite k a x.1 o.poison else vput x.2 a x.1) s
  else s

/-- The chain members that are owed a poison slot and whose credit is there. -/
def owedReady (o : Op) : List Nat := o.owed.filter fun m => decide (0 < o.counters.getD m 0)

/-- R279: each member of a chain receives one poison slot under one credit; the rest wait for theirs. -/
def sendOwed (c : Nat) (o : Op) (s : State) : State :=
  let k := getCore s c
  let ready := owedReady o
  let msgs := ready.filterMap fun m => o.members[m]?.map fun x =>
    Msg.chain (BitVec.ofNat 17 c) x.1 x.2 (assoc 0 o.nextTags 16) [] false true o.serial m [] (dryAt s 0)
  let o' := { o with owed := o.owed.filter fun m => decide (m ∉ ready), counters := ready.foldl (fun l m => upd l m (· - 1)) o.counters }
  let k := if o'.owed = [] then { k with ops := k.ops.filter fun p => decide (p.id ≠ o.id) }
    else if (findOp k o.id).isSome then putOp k o' else { k with ops := k.ops ++ [o'] }
  { setCore s c k with mesh := s.mesh ++ msgs }

/-- R277: bit n is set when request n + 1 after the first undelivered one was delivered. -/
def doneMask (s : State) (k : Core) (o : Op) (p : Nat) : Nat :=
  let after := ((requestsFrom (dTotal o.desc) s k o p).map (·.1)).drop 1
  ((List.range 15).filter fun n => match after[n]? with
    | some q => decide (q < o.pos) && decide (q ∉ o.undone.map (·.1)) && decide (q ∉ o.replay)
    | none => false).foldl (fun m n => m + 2 ^ n) 0

def dmaPos (s : State) (k : Core) (o : Op) (p side cause : Nat) : List Word :=
  dmaPosition (runIndex o.desc (p / dRun o.desc)) (p % dRun o.desc) o.id side cause (doneMask s k o p)

/-- R274: the credits of chain slots that were begun and not sent. -/
def unsentSlots (s : State) (k : Core) (o : Op) : Nat :=
  let sb := dstSlot s k o.desc o.members
  (o.chainFill.filter fun e => decide (e.2.1 < slotPart o.desc sb e.1)).length

/-- R262, R279: the operation with the tag that a poison slot in its destination ring would carry: that of the next slot. -/
def withPoisonTag (s : State) (k : Core) (o : Op) : Op :=
  if dDst o.desc = 2 then { o with nextTags := tabPut o.nextTags (dDstRing o.desc) (dmaTag s k o o.slotFill.length) } else o

/-- R279: TRANSFER_ABORT, and the operation halts. `id` and `va` belong to the fault that the host aborted. -/
def dmaHalt (c : Nat) (o : Op) (cause p side id va : Nat) (s : State) : State :=
  let k := getCore s c
  let pos := dmaPos s k o p side cause
  let sb := dstSlot s k o.desc o.members
  let tag := dmaTag s k o (o.chainFill.filter fun e => decide (slotPart o.desc sb e.1 ≤ e.2.1)).length
  let n := unsentSlots s k o
  let s := haltOp c (withPoisonTag s k o) (raiseTransfer 0x0302 c o id pos va) 0x12 (unstateRest c o s)
  if dDst o.desc = 4 then
    sendOwed c { o with owed := List.range o.members.length, ended := true, counters := o.counters.map (· + n)
                        nextTags := tabPut o.nextTags 16 tag, undone := [], replay := [], halting := none } s
  else s

/-- R277: the first request in transfer order that was not delivered. -/
def firstUndone (o : Op) : Option (Nat × Nat × Nat × Bool) :=
  o.undone.foldl (fun m u => match m with
    | none => some u
    | some v => if u.1 < v.1 then some u else some v) none

/-- R223: the slots that the operation was within when it ends are released. -/
def endReads (k : Core) (o : Op) : Core := releaseIndex k o.id (dTotal o.desc)

/-- R276, R279, R280: with no request in flight, a transfer that met a fault raises PAGE_FAULT and is suspended; one that
met a cause without resume, a poison slot or a raw access halts. -/
def settleDma (c id : Nat) (s : State) : State :=
  let k := getCore s c
  match findOp k id with
  | none => s
  | some o =>
    let s' := setCore s c (endReads k o)
    if k.reqs.any fun q => decide (q.op = id) then s
    else match o.halting with
      | some (16, _) => poisonHalt c (withPoisonTag s k o) s'
      | some (17, v) => rawHalt c (withPoisonTag s k o) false 7 (v % 16) (v / 16 % 2048) (v / 32768) s'
      | some (18, v) => rawHalt c (withPoisonTag s k o) true 7 (v % 16) (v / 16 % 2048) (v / 32768) s'
      | some (cause, p) =>
        let first := match firstUndone o with | some u => min p u.1 | none => p
        dmaHalt c o cause first (if cause = 3 ∧ dDst o.desc = 3 then 1 else 0) 0 0 s'
      | none =>
        match firstUndone o with
        | none => s
        | some (p, kind, va, w) =>
          if o.suspended.isSome then s
          else
            let j := joinFault va kind w 0 c id s
            let s := modCore j.2 c fun k => putOp k { o with suspended := some (j.1.getD 1024) }
            match j.1 with
            | some f => raiseTransfer 0x0301 c o f (dmaPos s k o p (b2n w) 0) va s
            | none => s

/-! Sending (R253, R255, R271, R274). -/

def freeTag (k : Core) : Option Nat := (List.range 16).find? fun t => !(k.reqs.any fun q => decide (q.tag = t))

/-- What sending a request comes to: it was sent, the engine waits for a cause, or the operation halts. -/
inductive Send where
  | go (s : State)
  | wait (cause : Nat)
  | halt (cause p : Nat)

/-- A remote range of space 3 lies in powered banks of a core that is there (R279). -/
def remoteOk (s : State) (core : Nat) (a : Int) (n : Nat) : Bool :=
  coreExists s (BitVec.ofNat 17 core) && decide (0 ≤ a) && powered (getCore s core) a.toNat n

/-- The bytes of a local source, with their poison mark. -/
def localSource (k : Core) (o : Op) (p n : Nat) : List Byte × Bool :=
  if dSrc o.desc = 2 then (((inBytes o (dSrcRing o.desc)).drop p).take n, o.poison)
  else
    let a := (srcAt k o p).toNat
    (spRead k a n, o.poison || spPoisoned k a n)

/-- The destination slot of a request is there (R261, R274). -/
def takeSlot (s : State) (k : Core) (o : Op) (p : Nat) : Option (Core × Op) :=
  let d := o.desc
  if dDst d = 2 then
    let q := p / slotBytes (getRing k (dDstRing d))
    if (tabGet o.slotFill q).isSome then some (k, o)
    else
      (allocSlot (getRing k (dDstRing d)) { Slot.init with tag := dmaTag s k o q }).map fun (y, i) =>
        let o := { o with slotFill := tabPut o.slotFill q (i, 0) }
        (putOp (setRing k (dDstRing d) y) o, o)
  else if dDst d = 4 then
    let sb := dstSlot s k d o.members
    let q := p / sb
    if (tabGet o.chainFill q).isSome then some (k, o)
    else if o.counters.all fun n => decide (0 < n) then
      let o := { o with counters := o.counters.map (· - 1), chainFill := tabPut o.chainFill q (0, false, List.replicate sb 0) }
      some (putOp k o, o)
    else none
  else some (k, o)

/-- What a wait, a poison slot or a raw read comes to; none when the data is there. -/
def sendStop (p : Nat) (r : Ready) : Option Send :=
  match r with
  | .ok => none
  | .poisoned => some (.halt 16 p)
  | .raw _ a b e => some (.halt 17 (rawCode (a, b, e)))
  | r => some (.wait (waitCause r))

/-- R276: a suspended operation of the core writes to the same remote core under a grant. -/
def heldByFault (k : Core) (o : Op) : Bool :=
  decide (dDst o.desc = 3) && (unitOps k 4).any fun x => decide (x.id ≠ o.id) && x.suspended.isSome && decide (dDst x.desc = 3) &&
    decide (spCore (dDstAddr x.desc) = spCore (dDstAddr o.desc))

/-- The transfer up to a position fills its destination slot, or is whole. A piece of a slot before its last may be
acknowledged at any time; the last is acknowledged once the slot has landed (log entry 92). -/
def lastPiece (s : State) (k : Core) (o : Op) (e : Nat) : Bool :=
  decide (e % dstSlot s k o.desc o.members = 0) || decide (dTotal o.desc ≤ e)

/-- A request takes a tag, and is sent. -/
def sendTagged (c : Nat) (k : Core) (o : Op) (p n t : Nat) (s : State) : State :=
  let d := o.desc
  let read := decide (dSrc d = 0 ∨ dSrc d = 3)
  let b := if read then ([], false) else localSource k o p n
  let dry := dryAt s (timeToDry s k o)
  let sent := decide (dDst d ≠ 4) || read || lastPiece s k o (p + n)
  let q : DmaReq := { tag := t, op := o.id, idx := p, len := n, data := b.1, state := if sent then .sent else .landed, isWrite := !read, poison := b.2, dry := dry }
  let o := { passPos o n with poison := o.poison || b.2 }
  let s := setCore s c { putOp k o with reqs := k.reqs ++ [q] }
  match dDst d with
  | 3 => { s with mesh := s.mesh ++ [Msg.write (BitVec.ofNat 17 c) (BitVec.ofNat 17 (spCore (dDstAddr d))) (dstAt k o p).toNat b.1 b.2 (some t)] }
  | 4 => if read then s else deliverTo c o.id p b.1 b.2 dry s
  | _ => s

/-- One request of an operation, or one null run. -/
def sendReq (c : Nat) (k : Core) (o : Op) (p : Nat) (s : State) : Send :=
  let d := o.desc
  match sendStop p (idxReady k o p) with
  | some r => r
  | none =>
    let null := nullRun k o p
    if decide (indexed d ≠ 0) && !null && decide ((nth d 22).toNat ≤ idxValue k o (p / dRun d)) then .halt 2 p
    else
      let n := if null && decide (indexed d = 2) then dRun d - p % dRun d else reqLen s k o p
      let sa := srcAt k o p
      let da := dstAt k o p
      let src := if null && decide (dSrc d ≠ 2) then Ready.ok
        else match dSrc d with
          | 1 => spReady k o sa.toNat n
          | 2 => srcReady k o { ring := some (dSrcRing d), base := 0 } p n
          | _ => Ready.ok
      match sendStop p src with
      | some r => r
      | none =>
        if null && decide (indexed d = 2) then .go (setCore s c (putOp k (passPos o n)))
        else if (decide (dSrc d = 3) && !null && !remoteOk s (spCore (dSrcAddr d)) sa n) ||
            (decide (dDst d = 3) && !remoteOk s (spCore (dDstAddr d)) da n) then .halt 3 p
        else if heldByFault k o then .wait 5
        else if decide (dDst d = 3) && !grantCovers k (spCore (dDstAddr d)) da.toNat n then .wait 1
        else match takeSlot s k o p with
          | none => .wait 1
          | some (k', o) =>
            if null then .go (deliverTo c o.id p (List.replicate n 0) false (dryAt s (timeToDry s k' o)) (setCore s c (putOp k' (passPos o n))))
            else match freeTag k' with
              | none => .wait 4
              | some t => .go (sendTagged c k' o p n t s)

/-- R253: the oldest operation that still has requests to send. -/
def sender (k : Core) : Option Op :=
  (unitOps k 4).find? fun o => o.suspended.isNone && o.halting.isNone && o.undone.isEmpty && o.owed.isEmpty && (nextPos o).isSome

/-- R232: a read range is free once nothing of it can be read again: with the last request sent, unless a fault of a
request in flight could have it sent again. -/
def freeReads (k : Core) (id : Nat) : Core :=
  match findOp k id with
  | none => k
  | some o =>
    let flight := k.reqs.any fun q => decide (q.op = id)
    if (nextPos o).isSome || !o.undone.isEmpty then k
    else if !flight then freeEntries k id
    else if dSrc o.desc = 0 ∨ dDst o.desc = 0 then k
    else freeDone k id fun e => !e.write

/-- The rings that the operation consumes, as far as its next request needs them. -/
def dmaPull (k : Core) (o : Op) (p n : Nat) : Core :=
  let d := o.desc
  let k := if indexed d = 0 then k else match (dIdx d).ring with
    | some r => pullIndex (getRing k r).slots.length k o.id r ((p / dRun d + 1) * idxBytes d)
    | none => k
  if dSrc d = 2 then pullRing k o.id (dSrcRing d) (p + n) else k

/-- The oldest operation with requests to send and the position of the next, its rings taken as far as that needs them. -/
def opSender (s : State) (k : Core) : Option (Core × Op × Nat) :=
  (sender k).map fun o =>
    let p := (nextPos o).getD 0
    let k := dmaPull k o p 0
    let o := (findOp k o.id).getD o
    let k := dmaPull k o p (if nullRun k o p && decide (indexed o.desc = 2) then dRun o.desc - p % dRun o.desc else reqLen s k o p)
    (k, (findOp k o.id).getD o, p)

/-! Forwarding (R225, R254, R267). -/

/-- The slot that a forward ring sends next. -/
def fwdSlot (x : Ring) : Option Slot :=
  if x.en && x.fwd then (filledSlots x).find? fun q => decide (q.state = .committed) else none

/-- R253: a forward ring with a committed slot and a credit; a slot that has begun to go has spent its credit. -/
def fwdReady (x : Ring) : Bool := (fwdSlot x).isSome && (decide (0 < x.fwdSent) || decide (0 < x.credits.toNat))

/-- R252: a forward ring that lacks a credit. -/
def fwdLacks (x : Ring) : Bool := (fwdSlot x).isSome && !fwdReady x

/-- R253: the forward ring whose next request has the smallest time-to-dry, the lowest of equals. -/
def fwdSender (k : Core) : Option Nat :=
  ((List.range 16).filter fun r => fwdReady (getRing k r)).foldl (fun m r => match m with
    | none => some r
    | some b => if forwardDry (getRing k r) < forwardDry (getRing k b) then some r else some b) none

/-- What the engine does with a sender: it goes on, or the sender waits for a stall cause (8 where there is none). -/
abbrev Act := Except (State × Nat) State

/-- R225, R254: one request of a forward ring's oldest slot. With the last, the slot leaves and is released. -/
def sendForward (c r : Nat) (s : State) : Act :=
  let k := getCore s c
  let x := getRing k r
  match fwdSlot x, freeTag k with
  | none, _ => .error (s, 8)
  | some _, none => .error (s, 4)
  | some q, some t =>
    let sb := slotBytes x
    let p := x.fwdSent
    let n := min 256 (sb - p)
    let last := decide (sb ≤ p + n)
    let a := slotAddr x q.idx
    let poison := spPoisoned k a sb
    let dry := dryAt s (forwardDry x)
    let req : DmaReq := { tag := t, op := 16 + r, idx := p, len := n, data := [], state := if last then .sent else .landed, isWrite := true, poison := poison, dry := dry }
    let y := { x with credits := if p = 0 then x.credits - 1 else x.credits, fwdSent := if last then 0 else p + n }
    let s := setCore s c { setRing k r y with reqs := k.reqs ++ [req] }
    .ok (if last then releaseAt c r q.idx { s with mesh := s.mesh ++
        [Msg.slot (BitVec.ofNat 17 c) x.fwdCore (BitVec.ofNat 4 r) x.fwdRing (tagAt k a) (spRead k a sb) poison q.poison dry] }
      else s)

/-! Responses and acknowledgements (R255, R276). -/

def findReq (k : Core) (tag : Nat) : Option DmaReq := k.reqs.find? fun q => decide (q.tag = tag)
def dropReq (tag : Nat) (k : Core) : Core := { k with reqs := k.reqs.filter fun q => decide (q.tag ≠ tag) }

/-- The request is not delivered: its operation keeps it. -/
def faultReq (c : Nat) (q : DmaReq) (kind va : Nat) (w : Bool) (s : State) : State :=
  noteFault c q.op q.idx kind va w (modCore s c (dropReq q.tag))

/-- R366: a DMA read of poisoned DRAM names its granule. -/
def readPoison (c : Nat) (o : Op) (pl : Place) (s : State) : State :=
  match o.tok with
  | some (n, num, l) => poisonChunk n.toNat num 4 l.toNat (BitVec.ofNat 17 c) (if pl.1 then 0 else pl.2 / 64 * 64) s
  | none => s

/-- The response of a read. R273: that of a chain goes to its first member at once; any other waits in the tag buffer for
a movement cycle, behind those that returned before it (R249, R251). -/
def gotData (c : Nat) (o : Op) (q : DmaReq) (bs : List Byte) (poison : Bool) (s : State) : State :=
  let s' := modCore s c (dropReq q.tag)
  if dDst o.desc = 4 then deliverTo c o.id q.idx bs poison q.dry s'
  else modCore s' c fun k => { k with reqs := k.reqs ++ [{ q with data := bs, poison := poison, state := .returned }] }

/-- R255, R373: the response of a read; `bad` for a host read that completed with an error (R383). -/
def respond (c tag : Nat) (bad : Bool) (s : State) : State :=
  let k := getCore s c
  match findReq k tag with
  | none => s
  | some q =>
    match findOp k q.op with
    | none => if q.op < 16 then setCore s c (dropReq tag k) else s
    | some o =>
      if q.isWrite || decide (q.state ≠ .sent) then s
      else
        let a := (srcAt k o q.idx).toNat
        let s := if dSrc o.desc = 3 then
            if bad then s
            else
              let far := getCore s (spCore (dSrcAddr o.desc))
              gotData c o q (spRead far a q.len) (spPoisoned far a q.len) s
          else
            match dieTranslate (coreDie s c) a false s with
            | (.error kind, s) => if bad then s else faultReq c q kind a false s
            | (.ok pl, s) =>
              if bad then
                if pl.1 then
                  let x := drawBytes s q.len
                  readPoison c o pl (gotData c o q x.1 true { x.2 with hub.aerErrors := x.2.hub.aerErrors + 1 })
                else s
              else
                let b := readPlace s pl q.len
                let s := gotData c o q b.1 b.2 s
                if b.2 then readPoison c o pl s else s
        settleDma c q.op s

/-- R251, R255: returned data leaves its tag buffer: into the scratchpad, or on to device-virtual memory under the same tag. -/
def passReturned (c : Nat) (q : DmaReq) (s : State) : State :=
  match findOp (getCore s c) q.op with
  | none => modCore s c (dropReq q.tag)
  | some o =>
    if dDst o.desc = 0 then
      modCore s c fun k => { k with reqs := k.reqs.map fun r => if r.tag = q.tag then { r with isWrite := true, state := .sent } else r }
    else settleDma c q.op (deliverTo c o.id q.idx q.data q.poison q.dry (modCore s c (dropReq q.tag)))

/-- R255: the destination acknowledges that a write has landed, or the MMU refuses it. -/
def acknowledge (c tag : Nat) (s : State) : State :=
  let k := getCore s c
  match findReq k tag with
  | none => s
  | some q =>
    if !q.isWrite then s
    else if 16 ≤ q.op then (if q.state = .landed then setCore s c (dropReq tag k) else s)
    else match findOp k q.op with
      | none => setCore s c (dropReq tag k)
      | some o =>
        let s := match dDst o.desc with
          | 0 =>
            let a := (dstAt k o q.idx).toNat
            match farWrite o a q.data s with
            | some s => modCore s c (dropReq tag)
            | none => match dieTranslate (coreDie s c) a true s with
              | (.error kind, s) => faultReq c q kind a true s
              | (.ok pl, s) => landWrite o a pl q.data q.poison (modCore s c (dropReq tag))
          | _ => if q.state = .landed then modCore s c (dropReq tag) else s
        settleDma c q.op (modCore s c fun k => freeReads k q.op)

/-! The engine (R251-R253). -/

/-- One request, or one null run, of the oldest operation. -/
def actOp (c : Nat) (s : State) : Act :=
  match opSender s (getCore s c) with
  | none => .error (s, 8)
  | some (k, o, p) =>
    match sendReq c k o p s with
    | .go s => .ok (settleDma c o.id (modCore s c fun k =>
        freeReads (releaseIndex k o.id (((findOp k o.id).bind nextPos).getD (dTotal o.desc))) o.id))
    | .wait cause => .error (setCore s c k, cause)
    | .halt cause p => .ok (settleDma c o.id (setCore s c (haltAt k o cause p)))

/-- R253: a forward ring is chosen before the operation when its time-to-dry is not greater. -/
def fwdFirst (s : State) (k : Core) (r : Nat) : Bool :=
  match opSender s k with
  | none => true
  | some (k', o, _) => decide (forwardDry (getRing k r) ≤ timeToDry s k' o)

/-- The second act, where the first waits. -/
def orElseAct (a b : State → Act) (s : State) : Except (State × List Nat) State :=
  match a s with
  | .ok s => .ok s
  | .error (s, x) => match b s with
    | .ok s => .ok s
    | .error (s, y) => .error (s, [x, y])

/-- R246: of the causes that a requester waits for, the first. -/
def firstCause (l : List Nat) : Option Nat := [5, 7, 6, 0, 1, 4, 2, 3].find? fun x => l.contains x

/-- R252: the cause for which the engine is stalled, if it has work and cannot act; `waits` are those of its senders. -/
def dmaStallCause (k : Core) (waits : List Nat) : Option Nat :=
  let lack := (List.range 16).any (fun r => fwdLacks (getRing k r)) || (unitOps k 4).any fun o => !o.owed.isEmpty
  match firstCause (waits ++ if lack then [1] else []) with
  | some x => some x
  | none => if k.reqs.isEmpty && (unitOps k 4).any (·.suspended.isSome) then some 5 else none

/-- R251, R253: one act of a movement cycle: returned data first, oldest first; then poison slots owed to chains; then the
sender with the smallest time-to-dry. -/
def dmaStep (c : Nat) (s : State) : Except State State :=
  let k := getCore s c
  match k.reqs.find? fun q => decide (q.state = .returned) with
  | some q => .ok (passReturned c q s)
  | none =>
    match (unitOps k 4).find? fun o => !(owedReady o).isEmpty with
    | some o => .ok (sendOwed c o s)
    | none =>
      let r := match fwdSender k with
        | none => orElseAct (actOp c) (fun s => .error (s, 8)) s
        | some r => if fwdFirst s k r then orElseAct (sendForward c r) (actOp c) s else orElseAct (actOp c) (sendForward c r) s
      match r with
      | .ok s => .ok s
      | .error (s, waits) =>
        let k := getCore s c
        .error (match dmaStallCause k waits with
          | some x => setCore s c (countStall x 1 k)
          | none => s)

/-! Issue and completion (R256, R263, R272). -/

/-- R272, R274: the chain table and its credits are read at issue. -/
def startDma (k : Core) (o : Op) : Core :=
  if dDst o.desc = 4 then
    let t := chainTable k o.desc
    match findOp k o.id with
    | some p => putOp k { p with members := t.map chainMember, counters := t.map fun w => fld (nth w 1) 0 12, farDry := t.map fun _ => (0, 0) }
    | none => k
  else k

/-- R221: the ring slot being written when the transfer ends goes as it is; the bytes not written are X. -/
def endSlots (c : Nat) (o : Op) (s : State) : State :=
  let k := getCore s c
  let sb := dstSlot s k o.desc o.members
  let part := dTotal o.desc % sb
  match (if dDst o.desc = 2 ∧ part ≠ 0 then tabGet o.slotFill (dTotal o.desc / sb) else none) with
  | none => s
  | some (i, _) =>
    let x := drawBytes s (sb - part)
    let r := getRing k (dDstRing o.desc)
    setCore x.2 c (setRing (spWrite k (slotAddr r i + part) x.1 o.poison) (dDstRing o.desc) (modSlot r i fun t => { t with state := .full }))

/-- Every request of the operation has been sent and has freed its tag. -/
def dmaDone (k : Core) (o : Op) : Bool :=
  decide (o.unit = 4) && (nextPos o).isNone && o.undone.isEmpty && o.halting.isNone && o.owed.isEmpty && o.suspended.isNone &&
    !(k.reqs.any fun q => decide (q.op = o.id))

/-- R256, R263: the operation completes, and ends its grant if asked. -/
def dmaComplete (c id : Nat) (s : State) : State :=
  let k := getCore s c
  match findOp k id with
  | none => s
  | some o =>
    if dmaDone k o then
      let s := opPoisoned c o (modCore (endSlots c o s) c fun k => endOp (endReads k o) o.id)
      if dGrantEnd o.desc then endGrant c (spCore (dDstAddr o.desc)) (dGrant o.desc) s else s
    else s

/-! Slots that arrive (R226, R269, R270, R273-R275). -/

/-- R226, R275: a slot arrives at a ring, or is discarded with RING_OVERRUN. -/
def slotArrives (c r : Nat) (sl : Slot) (tag : Half) (bs : List Byte) (poison : Bool) (sender : CoreId) (s : State) : State :=
  let k := getCore s c
  let x := getRing k r
  match (if x.en then allocSlot x sl else none) with
  | some (y, i) => dropLate c tag (commitAt c r i tag (setCore s c (spWrite (setRing k r y) (slotAddr y i) (bs.take (slotBytes y)) poison)))
  | none =>
    let i := (x.head.toNat + x.slots.length) % max 1 x.nslots.toNat
    raise 0x0202 noStream (BitVec.ofNat 17 c) (evPrefix 4 0xFF 0 ++ ringDetail r i 8 (slotAddr x i) sender.toNat) s

/-- The write request whose slot is the oldest one of its sender under way has landed. -/
def slotLanded (op : Nat) (k : Core) : Core :=
  match k.reqs.find? fun q => decide (q.op = op) && q.isWrite && decide (q.state = .sent) with
  | some q => { k with reqs := k.reqs.map fun r => if r.tag = q.tag then { r with state := .landed } else r }
  | none => k

/-- R269: an earlier DRY, by the signed difference of 24 bits. -/
def dryBefore (a b : BitVec 24) : Bool := decide ((a - b).toInt < 0)

/-- R269: the DRY of a message. A remote store is no request and has none; it counts as dry now (log entry 93). -/
def msgDry (s : State) (m : Msg) : BitVec 24 :=
  match m with
  | .slot _ _ _ _ _ _ _ _ d => d
  | .chain _ _ _ _ _ _ _ _ _ _ d => d
  | .write src _ _ _ _ (some t) => ((findReq (getCore s src.toNat) t).map (·.dry)).getD (dryAt s 0)
  | _ => dryAt s 0

/-- The oldest message of each source, in order of arrival. -/
def msgHeads (p : Msg → Bool) (ms : List Msg) : List Msg :=
  ms.foldl (fun l m => if p m && !(l.any fun x => decide (msgSrc x = msgSrc m)) then l ++ [m] else l) []

/-- How often the oldest message of a source to a core has been passed over. -/
def passCount (s : State) (c src : Nat) : Nat := ((s.passed.find? fun e => decide (e.1 = c ∧ e.2.1 = src)).map (·.2.2)).getD 0

def setPass (c src n : Nat) (s : State) : State :=
  let rest := s.passed.filter fun e => decide (¬ (e.1 = c ∧ e.2.1 = src))
  { s with passed := if n = 0 then rest else rest ++ [(c, src, n)] }

/-- R270: a candidate that 32 grants have passed over is starved. -/
def starve (c src : Nat) (s : State) : State :=
  if 32 ≤ passCount s c src ∧ (c, src) ∉ s.starvedArb then { s with starvedArb := s.starvedArb ++ [(c, src)] } else s

/-- R269, R270: the candidate that is granted: a starved one, the oldest first, else the one with the earliest DRY, the
first to arrive among equals. -/
def grantOf (s : State) (c : Nat) (hs : List Msg) : Option Msg :=
  match hs.find? fun m => decide ((c, (msgSrc m).toNat) ∈ s.starvedArb) with
  | some m => some m
  | none => hs.foldl (fun b m => match b with
    | none => some m
    | some x => if dryBefore (msgDry s m) (msgDry s x) then some m else some x) none

/-- A message to a core is granted; those it goes ahead of have been passed over once more. -/
def grantMsg (c : Nat) (p : Msg → Bool) (s : State) : Option (Msg × State) :=
  let hs := msgHeads (fun m => p m && decide ((msgDst m).toNat = c)) s.mesh
  (grantOf s c hs).bind fun m =>
    (takeMsg (fun x => p x && decide (msgDst x = msgDst m) && decide (msgSrc x = msgSrc m)) s.mesh).map fun r =>
      let src := (msgSrc m).toNat
      let s := setPass c src 0 { s with mesh := r.2, starvedArb := s.starvedArb.filter fun e => decide (e ≠ (c, src)) }
      (r.1, (hs.filter fun x => decide (msgSrc x ≠ msgSrc m)).foldl (fun s x =>
        let n := (msgSrc x).toNat
        starve c n (setPass c n (passCount s c n + 1) s)) s)

/-- R270: a candidate passed over by 32 grants is starved and goes before all others, the oldest first. -/
def execArbiterStarved (core source : CoreId) (s : State) : Out := .next (starve core.toNat source.toNat s)

/-- R268: the 3,200 ns window of device time that is open ends; a ring's count of it becomes B. -/
def execRingDryWindowEnd (core : CoreId) (ring : BitVec 4) (s : State) : Out :=
  withCore core (fun _ s =>
    let s := advanceTo s ((now s / 3200 + 1) * 3200)
    modCore s core.toNat fun k => setRing k ring.toNat (rollWindow (now s) (getRing k ring.toNat))) s

/-- R223: the oldest slot of a ring that its consumer has read and that no token matched: one that a token matched is
the program's to release. -/
def readSlot (s : State) (r : Nat) (k : Core) : Option Slot :=
  let held := if ((coreGroup s k k.bank).map fun g => decide (g.inRing.toNat = r)).getD false then k.taken.filterMap (·.slot) else []
  (getRing k r).slots.find? fun q => decide (q.state = .read) && decide (q.idx ∉ held)

/-! FILL and COPY (R211, R212). -/

def fcDst (d : List Word) : Nat := fld (nth d 0) 0 17
def fcSrc (d : List Word) : Nat := fld (nth d 1) 0 17
def fcLen (d : List Word) : Nat := fld (nth d 2) 0 18

def fcEncoding (copy : Bool) (k : Core) (d : List Word) : Bool :=
  decide (fld (nth d 0) 17 15 ≠ 0) || decide (fld (nth d 1) 17 15 ≠ 0) || decide (fld (nth d 2) 18 14 ≠ 0) ||
  decide (fcDst d % 4 ≠ 0) || decide (fcSrc d % 4 ≠ 0) || decide (fcLen d % 4 ≠ 0) || decide (fcLen d < 4) || decide (131072 < fcLen d) ||
  !powered k (fcDst d) (fcLen d) ||
  (if copy then decide (nth d 3 ≠ 0) || !powered k (fcSrc d) (fcLen d) || overlaps (fcSrc d) (fcLen d) (fcDst d) (fcLen d)
   else decide (fcSrc d ≠ 0))

def fcPlan (copy : Bool) (_s : State) (k : Core) (o : Op) : Plan :=
  let d := o.desc
  let w : Range := { lo := fcDst d, len := fcLen d, write := true }
  { ranges := [w] ++ (if copy then [{ lo := fcSrc d, len := fcLen d, write := false }] else [])
    reads := [], writes := [], regs := [], tensors := 0
    check := if fcEncoding copy k d then some 3 else none
    asc := [w] }

def execIssueFill (core : CoreId) (rd ra rb : RegId) (s : State) : Out :=
  issueUnit 5 16 16 takesAny noChains (fcPlan false) (fun k _ => k) core rd ra rb s

def execIssueCopy (core : CoreId) (rd ra rb : RegId) (s : State) : Out :=
  issueUnit 6 16 16 takesAny noChains (fcPlan true) (fun k _ => k) core rd ra rb s

/-- The bytes that a FILL or COPY moves before the first byte inside a ring that it may not touch, and that byte; a read
comes before the write of the same byte. -/
def fcStop (k : Core) (copy : Bool) (d : List Word) : Option (Nat × Bool × Nat × Nat × Nat) :=
  let rd := (if copy then rawViolation k false false (fcSrc d) (fcLen d) else none).map fun v => (v.2.2 - fcSrc d, false, v)
  let wr := (rawViolation k false true (fcDst d) (fcLen d)).map fun v => (v.2.2 - fcDst d, true, v)
  match rd, wr with
  | some a, some b => if a.1 ≤ b.1 then some a else some b
  | some a, none => some a
  | none, b => b

/-- R211, R212, R228: a FILL or COPY completes, or halts at the first byte inside a ring that it may not touch. -/
def fcComplete (c id : Nat) (s : State) : State :=
  let k := getCore s c
  match findOp k id with
  | none => s
  | some o =>
    let d := o.desc
    let n := fcLen d
    let copy := decide (o.unit = 6)
    if !(copy || decide (o.unit = 5)) then s
    else match (if copy then blocker k o.id (fcSrc d) n else none) with
      | some e => setCore s c (countStall (if opSuspended k e.op then 5 else 2) 1 k)
      | none =>
        let o := { o with poison := copy && spPoisoned k (fcSrc d) n }
        let bytes := if copy then spRead k (fcSrc d) n else (List.replicate (n / 4) (leBytes 4 (nth d 3).toNat)).flatten
        match fcStop k copy d with
        | some (m, w, r, i, a) => rawHalt c o w 9 r i a (setCore s c (putOp (spWrite k (fcDst d) (bytes.take m) o.poison) o))
        | none => opPoisoned c o (setCore s c (endOp (putOp (spWrite k (fcDst d) bytes o.poison) o) o.id))

end Sys2Proof.Machine
end

