-- ==== Sys2Proof/Machine/Movement.lean ====
section
/-! DEFINITION. Compute cycles and movement cycles of a core (R19, R249-R252): the DMA engine acts only while no compute
operation of its core can progress. The events of the engines, of the DMA engine and of the rings, after each of which
the engine goes on. -/

namespace Sys2Proof.Machine

/-! Compute cycles (R249). -/

/-- The ME's next tile can drain, or its operation halt. -/
def meGoes (c : Nat) (s : State) : Bool :=
  match meBegin c s with
  | none => false
  | some (s, id) =>
    let k := getCore s c
    match findOp k id with
    | none => false
    | some o => (meFault s k o).isSome || (let r := (meReady k o).2.1; decide (r = .ok) || r.halts)

def ecGoes (k : Core) : Bool :=
  match headOp k 1 with
  | none => false
  | some o =>
    if o.ended then false
    else
      let k := ecPull k o
      match firstStop k ((findOp k o.id).getD o) with
      | some (_, _, _, .ready r _) => r.halts
      | _ => true

def gpGoes (k : Core) : Bool :=
  match headOp k 2 with
  | none => false
  | some o =>
    if o.ended then false
    else
      let k := gpPull k o
      match gpStop k ((findOp k o.id).getD o) with
      | some (_, r, _) => r.halts
      | none => true

def atGoes (s : State) (k : Core) : Bool :=
  match headOp k 3 with
  | none => false
  | some o =>
    if o.ended || o.suspended.isSome then false
    else
      let k := atInputs k o
      let o := (findOp k o.id).getD o
      match atReady s k o with
      | (.ok, _) => decide (atOp o.desc = 0) || (let p := partialsIn k o
          p.2.isSome || partialsFull o.desc p.1 || ((atIn o.desc).ring.bind (poisonAt o)).isSome)
      | (r, _) => r.halts

/-- R249: a compute operation of the core is executing and is not stalled. -/
def computing (c : Nat) (s : State) : Bool :=
  let k := getCore s c
  k.ops.any (fun o => decide (o.unit.toNat < 4)) && (meGoes c s || ecGoes k || gpGoes k || atGoes s k)

/-- The engine goes on while it can act and no compute operation can progress. -/
def dmaLoop : Nat → Nat → State → State
  | 0, _, s => s
  | f + 1, c, s =>
    if computing c s then s
    else match dmaStep c s with
      | .ok s => dmaLoop f c s
      | .error s => s

def dmaRun (c : Nat) (s : State) : State := dmaLoop 4096 c s

/-- R249: with no command waiting, the DMA engines of all cores have their movement cycles. -/
def moveAll (s : State) : State := (s.cores.map (·.1)).foldl (fun s c => dmaRun c s) s

def dmaRunOut (c : Nat) (r : Out) : Out :=
  match r with
  | .next s => .next (dmaRun c s)
  | r => r

/-- An event of a core, after which its DMA engine goes on. -/
def coreEvent (core : CoreId) (f : Nat → State → State) (s : State) : Out :=
  withCore core (fun _ s => dmaRun core.toNat (f core.toNat s)) s

/-! The engines. -/

def execMeTileDrain (core : CoreId) (s : State) : Out := coreEvent core meTileDrain s
def execMeOperationComplete (core : CoreId) (s : State) : Out := coreEvent core meComplete s
def execMeOperationHalt (core : CoreId) (s : State) : Out := coreEvent core meHalt s
def execEcOperationComplete (core : CoreId) (s : State) : Out := coreEvent core ecComplete s
def execEcOperationHalt (core : CoreId) (s : State) : Out := coreEvent core ecHalt s
def execGpOperationComplete (core : CoreId) (s : State) : Out := coreEvent core gpComplete s
def execExpressGateInsert (core : CoreId) (s : State) : Out := coreEvent core expressInsert s
def execAttentionOperationComplete (core : CoreId) (s : State) : Out := coreEvent core atComplete s
def execFillCopyComplete (core : CoreId) (id : BitVec 4) (s : State) : Out := coreEvent core (fun c => fcComplete c id.toNat) s

/-! The DMA engine. -/

def execIssueDma (core : CoreId) (rd ra rb : RegId) (s : State) : Out :=
  dmaRunOut core.toNat (issueUnit 4 128 32 takesAny noChains dmaPlan startDma core rd ra rb s)

/-- R255: the response of a read arrives. R493: it restarts a gated island. -/
def execDmaResponseReturn (core : CoreId) (tag : BitVec 4) (s : State) : Out :=
  coreEvent core (fun c s => respond c tag.toNat false (modCore s c restart)) s

/-- R383: a host-memory read that completes with an error delivers poisoned data. -/
def execHostReadError (core : CoreId) (tag : BitVec 4) (s : State) : Out :=
  coreEvent core (fun c s => respond c tag.toNat true (modCore s c restart)) s

/-- R255: the acknowledgement of a write. -/
def execDmaWriteAck (core : CoreId) (tag : BitVec 4) (s : State) : Out := coreEvent core (fun c => acknowledge c tag.toNat) s

/-- R256: the operation completes once all of its requests have freed their tags; a layer that waited for its state write
(R23, R24) is settled. -/
def execDmaOperationComplete (core : CoreId) (id : BitVec 4) (s : State) : Out :=
  coreEvent core (fun c s =>
    let tok := (findOp (getCore s c) id.toNat).bind (·.tok)
    let s := dmaComplete c id.toNat s
    match tok with
    | some (n, num, layer) => settleLayer n.toNat layer.toNat num s
    | none => s) s

/-! Slots (R221-R226, R269, R273). -/

/-- R221: the oldest slot whose last byte has been written is committed. -/
def execRingSlotCommit (core : CoreId) (ring : BitVec 4) (s : State) : Out :=
  coreEvent core (fun c s =>
    match (getRing (getCore s c) ring.toNat).slots.find? fun q => decide (q.state = .full) with
    | some q => dropLate c q.tag (commitAt c ring.toNat q.idx q.tag s)
    | none => s) s

/-- R223: the oldest slot that its consumer has read is released, and the engines of the core that wrote it and of its own
core go on. -/
def readSlotReleased (c r : Nat) (s : State) : State :=
  match readSlot s r (getCore s c) with
  | some q => ((q.chain.map (·.1)).toList ++ (q.srcCore.map (·.1)).toList).foldl (fun s w => dmaRun w.toNat s) (dmaRun c (releaseAt c r q.idx s))
  | none => s

/-- R225, R269: a forwarded slot arrives. -/
def execRingForwardArrival (core : CoreId) (ring : BitVec 4) (s : State) : Out :=
  coreEvent core (fun c s =>
    match grantMsg c (fun m => match m with | .slot _ _ _ r .. => decide (r = ring) | _ => false) s with
    | some (.slot src _ sr _ tag bs p bad _, s) =>
      modCore (slotArrives c ring.toNat { Slot.init with poison := bad, srcCore := some (src, sr) } tag bs p src s)
        src.toNat (slotLanded (16 + sr.toNat))
    | _ => s) s

/-- R273, R275: a chain slot is written into a member's ring and passed on to the next member. -/
def execChainSlotArrival (core : CoreId) (ring : BitVec 4) (s : State) : Out :=
  coreEvent core (fun c s =>
    match grantMsg c (fun m => match m with | .chain _ _ r .. => decide (r = ring) | _ => false) s with
    | some (.chain src _ _ tag bs p bad op m rest dry, s) =>
      let s := slotArrives c ring.toNat { Slot.init with poison := bad, chain := some (src, op, m) } tag bs p src s
      match rest with
      | x :: r => { s with mesh := s.mesh ++ [Msg.chain src x.1 x.2 tag bs p bad op (m + 1) r dry] }
      | [] => modCore s src.toNat fun k => match k.ops.find? fun o => decide (o.serial = op) with
        | some o => slotLanded o.id k
        | none => k
    | _ => s) s

end Sys2Proof.Machine
end

