-- ==== Sys2Proof/Machine/HostQueue.lean ====
section
/-! DEFINITION. What the host can reach (R451, R467, R494), the queues and their doorbells (R387-R391), completions (R393),
progress entries (R406) and interrupts (R404). -/

namespace Sys2Proof.Machine

/-! Accesses of the host. -/

/-- The function answers memory requests: the link is up, no reset is held, and the function is not in D3hot. -/
def hostOn (s : State) : Bool := s.hub.linkUp && !s.hub.resetLow && !s.pwr.hot

/-- R451: in safe halt BAR0 discards writes. -/
def writesOn (s : State) : Bool := hostOn s && !s.hub.halted

/-- R12: a held low word is discarded by any BAR0 write but that of its high word. -/
def dropHeld (s : State) : State := { s with hub.heldLow := none }

/-- A BAR0 write of the host. -/
def hostWrite (f : State → State) (s : State) : Out := .next (if writesOn s then f (dropHeld s) else s)

/-- The host writes its own memory. -/
def hostStores (cells : List Host.Cell) (s : State) : State :=
  { s with hostMem := cells.foldl (fun m c => memSet m c.1 c.2) s.hostMem }

/-! Queues (R387, R388, R391). -/

def getQ (s : State) (n : Nat) : Queue := vget Queue.init s.que.q n
def modQ (s : State) (n : Nat) (f : Queue → Queue) : State := { s with que.q := vmod Queue.init s.que.q n f }

def setBit4 (v : BitVec 4) (n : Nat) : BitVec 4 := v ||| BitVec.ofNat 4 (2 ^ n)

/-- A bad doorbell or a discarded write of pair n. -/
def queErr (n : Nat) (s : State) : State := { s with que.err := setBit4 s.que.err n }

/-- R388: a tail beyond the queue's size, or past the head, is a bad doorbell. -/
def cmdDoorbell (n : Nat) (v : Word) (s : State) : State :=
  let q := getQ s n
  let size := 2 ^ q.cmdSize.toNat
  let t := fld v 0 12
  let held := (q.tail.toNat + size - q.head.toNat) % size
  let added := (t + size - q.tail.toNat) % size
  if size ≤ t ∨ size ≤ held + added then queErr n s else modQ s n fun q => { q with tail := BitVec.ofNat 12 t }

/-- R388: a head past the device's tail is a bad doorbell. -/
def headOk (size head tail new : Nat) : Bool :=
  decide (new < size) && decide ((new + size - head) % size ≤ (tail + size - head) % size)

def cplDoorbell (n : Nat) (v : Word) (s : State) : State :=
  let q := getQ s n
  if headOk (2 ^ q.cplSize.toNat) q.cplHead.toNat q.cplTail.toNat (fld v 0 12)
  then modQ s n fun q => { q with cplHead := BitVec.ofNat 12 (fld v 0 12) } else queErr n s

def evDoorbell (v : Word) (s : State) : State :=
  let q := s.que
  if headOk (2 ^ q.evSize.toNat) q.evHead.toNat q.evTail.toNat (fld v 0 14) then
    { s with que.evHead := BitVec.ofNat 14 (fld v 0 14), que.evUnread := q.evUnread && decide (fld v 0 14 ≠ q.evTail.toNat) }
  else { s with que.evqErr := true }

/-- A queue is enabled with a size of Table 12.5; a size changes only while EN is 0; and EN is not set before READY (R382). -/
def enOk (s : State) (en : Bool) (size : BitVec 4) (v : Word) (most : Nat) : Bool :=
  (!en || decide (fld v 1 4 = size.toNat)) && (!bit v 0 || (s.hub.ready && decide (4 ≤ fld v 1 4) && decide (fld v 1 4 ≤ most)))

def cmdCtrl (n : Nat) (v : Word) (s : State) : State :=
  let q := getQ s n
  if enOk s q.cmdEn q.cmdSize v 12 then
    modQ s n fun q =>
      let q := if bit v 0 && !q.cmdEn then { q with head := 0, tail := 0 } else q
      { q with cmdEn := bit v 0, cmdSize := BitVec.ofNat 4 (fld v 1 4) }
  else queErr n s

def cplCtrl (n : Nat) (v : Word) (s : State) : State :=
  let q := getQ s n
  if enOk s q.cplEn q.cplSize v 12 then
    modQ s n fun q =>
      let q := if bit v 0 && !q.cplEn then { q with cplHead := 0, cplTail := 0, cplPhase := true, unsignalled := 0, oldest := none } else q
      { q with cplEn := bit v 0, cplSize := BitVec.ofNat 4 (fld v 1 4), count := BitVec.ofNat 8 (fld v 8 8), waitUs := BitVec.ofNat 16 (fld v 16 16) }
  else queErr n s

def evCtrl (v : Word) (s : State) : State :=
  let q := s.que
  if enOk s q.evEn q.evSize v 14 then
    let s := if bit v 0 && !q.evEn then { s with que.evHead := 0, que.evTail := 0, que.evPhase := true, que.evUnread := false } else s
    { s with que.evEn := bit v 0, que.evSize := BitVec.ofNat 4 (fld v 1 4) }
  else { s with que.evqErr := true }

/-- R387: a base changes only while EN is 0; its low 12 bits are reserved. -/
def baseOf (v : DWord) : DWord := BitVec.ofNat 64 (v.toNat / 4096 * 4096)

def cmdBase (n : Nat) (v : DWord) (s : State) : State :=
  let q := getQ s n
  if q.cmdEn && decide (baseOf v ≠ q.cmdBase) then queErr n s else modQ s n fun q => { q with cmdBase := baseOf v }
def cplBase (n : Nat) (v : DWord) (s : State) : State :=
  let q := getQ s n
  if q.cplEn && decide (baseOf v ≠ q.cplBase) then queErr n s else modQ s n fun q => { q with cplBase := baseOf v }
def evBase (v : DWord) (s : State) : State :=
  if s.que.evEn && decide (baseOf v ≠ s.que.evBase) then { s with que.evqErr := true } else { s with que.evBase := baseOf v }

/-- R388: a write of QUE_CMDn_TAIL, after what the host wrote in its memory. -/
def execCommandQueueDoorbell (q : BitVec 2) (value : Word) (written : List Host.Cell) (s : State) : Out :=
  hostWrite (cmdDoorbell q.toNat value) (hostStores written s)

def execCompletionQueueDoorbell (q : BitVec 2) (value : Word) (s : State) : Out := hostWrite (cplDoorbell q.toNat value) s

def execEventQueueDoorbell (value : Word) (s : State) : Out := hostWrite (evDoorbell value) s

/-- R391: a write of a queue's CTRL register: command queues 0-3, completion queues 4-7, the event queue 8. -/
def execQueueEnableWrite (which : BitVec 4) (value : Word) (s : State) : Out :=
  hostWrite (fun s =>
    let w := which.toNat
    if w < 4 then cmdCtrl w value s else if w < 8 then cplCtrl (w - 4) value s else if w = 8 then evCtrl value s else s) s

/-! Progress entries (R406). -/

def cmdW (c : HostCmd) (i : Nat) : Word := nth c.words i
def cmdOp (c : HostCmd) : Nat := fld (cmdW c 0) 0 8
def cmdId (c : HostCmd) : Half := BitVec.ofNat 16 (fld (cmdW c 0) 16 16)
def cmdStream (c : HostCmd) : Nat := fld (cmdW c 2) 0 12
def cmdAddr (c : HostCmd) (i : Nat) : Nat := nth64 c.words i

def getPrg (s : State) (i : Nat) : Prg := vget Prg.init s.prg i
def modPrg (s : State) (i : Nat) (f : Prg → Prg) : State := { s with prg := vmod Prg.init s.prg i f }

def freePrg (s : State) : Option Nat := (List.range 16).find? fun i => !(getPrg s i).active

def prgPct (p : Prg) : Nat := if p.total = 0 then 0 else 100 * p.doneUnits.toNat / p.total.toNat

/-- R406: a long command takes a progress entry. -/
def takePrg (slot : Nat) (c : HostCmd) (total : Nat) (s : State) : State :=
  modPrg s slot fun _ => { cmdId := cmdId c, queue := c.queue, opcode := BitVec.ofNat 8 (cmdOp c), active := true,
                           doneUnits := 0, total := BitVec.ofNat 32 total, tens := 0 }

/-- R404: vector 6 fires when PCT passes a multiple of 10. -/
def notePct (slot pct : Nat) (s : State) : State :=
  let old := (getPrg s slot).tens
  let s := modPrg s slot fun p => { p with tens := pct / 10 }
  if old < pct / 10 then fireVector 6 s else s

def setDone (slot n : Nat) (s : State) : State :=
  let s := modPrg s slot fun p => { p with doneUnits := BitVec.ofNat 32 n }
  notePct slot (prgPct (getPrg s slot)) s

/-! Completions (R391, R393, R394). -/

/-- A command's completion waits to be written. -/
def complete (q : BitVec 2) (id : Half) (status cause : Nat) (result : List Word) (slot : Option Nat) (s : State) : State :=
  modQ s q.toNat fun x => { x with held := x.held ++
    [{ cmdId := id, status := BitVec.ofNat 8 status, cause := BitVec.ofNat 8 cause, result := result, slot := slot }] }

/-- The completion of a command that is not long. -/
def reply (c : HostCmd) (status cause : Nat) (result : List Word) (s : State) : State :=
  complete c.queue (cmdId c) status cause result none s

/-- Completion codes of Table 12.8. -/
def stSuccess : Nat := 0
def stBadField : Nat := 2
def stState : Nat := 4
def stBusy : Nat := 5
def stReject : Nat := 6
def stAborted : Nat := 7
def stNoResource : Nat := 8
def stHostFault : Nat := 9
def stMismatch : Nat := 10
def stAuth : Nat := 11
def stFault : Nat := 12

def findLong (s : State) (slot : Nat) : Option LongCmd := s.long.find? fun l => decide (l.slot = slot)

def modLong (s : State) (slot : Nat) (f : LongCmd → LongCmd) : State :=
  { s with long := s.long.map fun l => if l.slot = slot then f l else l }

/-- A long command ends; its entry stays ACTIVE until the completion is written. -/
def finishLong (slot status cause : Nat) (result : List Word) (s : State) : State :=
  match findLong s slot with
  | none => s
  | some l =>
    let s := if status = stSuccess then setDone slot (getPrg s slot).total.toNat s else s
    complete l.cmd.queue (cmdId l.cmd) status cause result (some slot) { s with long := s.long.filter fun l => decide (l.slot ≠ slot) }

/-- The long command in progress with an opcode. -/
def longOf (s : State) (op : Nat) : Option LongCmd := s.long.find? fun l => decide (cmdOp l.cmd = op)

/-- R390: the streams that a command names. -/
def namedStreams (c : HostCmd) : List Nat :=
  if cmdOp c ∈ [0x20, 0x21, 0x28, 0x29, 0x30] then [cmdStream c]
  else if cmdOp c = 0x2A then [cmdStream c, fld (cmdW c 3) 0 12] else []

/-- R390: a command in progress names the stream. -/
def streamBusy (s : State) (n : Nat) : Bool := s.long.any fun l => (namedStreams l.cmd).contains n

/-- Table 12.7. -/
def cplEntry (n : Nat) (q : Queue) (c : Cpl) : List Word :=
  [BitVec.ofNat 32 (c.cmdId.toNat + 2 ^ 16 * c.status.toNat + 2 ^ 24 * n + 2 ^ 31 * b2n q.cplPhase), q.head.zeroExtend 32,
   c.cause.zeroExtend 32, 0] ++ (c.result ++ List.replicate (4 - c.result.length) 0) ++ List.replicate 8 0

/-- R406: the entry of the command is free once its completion has been written. -/
def releasePrg (slot : Option Nat) (s : State) : State :=
  match slot with
  | some i => modPrg s i fun p => { p with active := false }
  | none => s

/-- R404: a completion vector fires. -/
def signalCpl (n : Nat) (s : State) : State := fireVector (1 + n) (modQ s n fun q => { q with unsignalled := 0, oldest := none })

/-- R391, R393, R404: the oldest completion of a queue is written, discarded while EN is 0, or held while the queue is full. -/
def writeCompletion (n : Nat) (s : State) : State :=
  let q := getQ s n
  match q.held with
  | [] => s
  | c :: rest =>
    if !q.cplEn then
      releasePrg c.slot { modQ s n (fun q => { q with held := rest }) with que.cplLost := setBit4 s.que.cplLost n }
    else
      let t := (q.cplTail.toNat + 1) % 2 ^ q.cplSize.toNat
      if t = q.cplHead.toNat then s
      else
        let s := vput s (q.cplBase.toNat + 64 * q.cplTail.toNat) (bytesOfWords (cplEntry n q c))
        let s := modQ s n fun q => { q with held := rest, cplTail := BitVec.ofNat 12 t, cplPhase := xor q.cplPhase (decide (t = 0)),
                                            unsignalled := q.unsignalled + 1, oldest := q.oldest.orElse fun _ => some s.clk.time }
        let s := releasePrg c.slot s
        if q.count.toNat ≤ q.unsignalled + 1 then signalCpl n s else s

/-! Interrupt timers (R404). -/

/-- WAIT_US after the oldest unsignalled completion. -/
def execCompletionCoalesceExpiry (q : BitVec 2) (s : State) : Out :=
  let x := getQ s q.toNat
  match (if agentsOn s then x.oldest else none) with
  | none => .next s
  | some t => .next (signalCpl q.toNat (advanceTo s (t.toNat + 1000 * x.waitUs.toNat)))

/-- For classes below STREAM, at most once per ms while unread entries exist. -/
def execEventBatchExpiry (s : State) : Out :=
  if agentsOn s && s.que.evUnread && decide (s.que.evHead ≠ s.que.evTail) then
    let s := match s.que.evBatched with
      | some t => advanceTo s (t.toNat + 1000000)
      | none => s
    .next (fireVector 0 { s with que.evBatched := some s.clk.time })
  else .next s

def resVector (n : Nat) : Nat := 8 + n % 56

/-- A result has been posted for a stream: its vector fires, or waits for the hold-off to end. -/
def resultIrq (n : Nat) (s : State) : State :=
  if bit (tabGetD 0 s.que.resIrqEn (n / 32)) (n % 32) then
    let v := resVector n
    match tabGet s.que.resFired v with
    | some t =>
      if now s < t.toNat + 1000 * s.que.holdoffUs.toNat then { s with que.resPending := ins v s.que.resPending }
      else let f := tabPut s.que.resFired v s.clk.time
           fireVector v { s with que.resFired := f }
    | none =>
      let f := tabPut s.que.resFired v s.clk.time
      fireVector v { s with que.resFired := f }
  else s

def execResultHoldoffExpiry (vector : BitVec 6) (s : State) : Out :=
  let v := vector.toNat
  if agentsOn s && s.que.resPending.contains v then
    let t := (tabGetD 0 s.que.resFired v).toNat
    let s := advanceTo s (t + 1000 * s.que.holdoffUs.toNat)
    let f := tabPut s.que.resFired v s.clk.time
    .next (fireVector v { s with que.resFired := f, que.resPending := del v s.que.resPending })
  else .next s

end Sys2Proof.Machine
end

