-- ==== Sys2Proof/Machine/Nvm.lean ====
section
/-! DEFINITION. The NVM: the Bay record (R452-R457), the configuration journal (R458-R463), and the hold-up sequence
(R464). -/

namespace Sys2Proof.Machine

/-! CRC-32 of Table 13.6 (log entry 11). -/

def crcBit (c : Word) : Word := if c.getLsbD 0 then (c >>> 1) ^^^ 0xEDB88320 else c >>> 1

def crcByte (c : Word) (b : Byte) : Word :=
  crcBit (crcBit (crcBit (crcBit (crcBit (crcBit (crcBit (crcBit (c ^^^ b.zeroExtend 32))))))))

def crc32 (bs : List Byte) : Word := (bs.foldl crcByte 0xFFFFFFFF) ^^^ 0xFFFFFFFF

/-! The Bay record. -/

/-- Table 15.4. -/
def bayWords (r : Record) (seq : Word) : List Word :=
  let ws := [BitVec.ofNat 32 (r.code.toNat + 2 ^ 16 * r.cls.toNat + 2 ^ 19 * b2n r.summary + 2 ^ 20 * b2n r.injected + 2 ^ 21 * b2n r.holdup),
    seq, r.start, r.stream.zeroExtend 32, r.core.zeroExtend 32] ++ words64 r.time.toNat ++ r.detail.take 8
  ws ++ [crc32 (bytesOfWords ws)]

def bayValid (ws : List Word) : Bool := decide (ws.length = 16) && decide (crc32 (bytesOfWords (ws.take 15)) = nth ws 15)

/-- R457: NVM_DEGRADED. -/
def nvmDegraded (bad0 bad1 journal : Bool) (s : State) : State :=
  raisePlain 0x0A03 [0, 0, BitVec.ofNat 32 (b2n bad0 + 2 * b2n bad1 + 16 * b2n journal)] s

/-- R453, R457: an entry is written to the copies that can be written; it leaves the buffer once it is durable. -/
def bayWrite (ok0 ok1 : Bool) (s : State) : State :=
  let b := s.bay
  match b.buffer with
  | [] => s
  | r :: rest =>
    let w0 := !b.bad0 && ok0
    let w1 := !b.bad1 && ok1
    let idx := b.nextSeq.toNat % 1048576
    let ws := bayWords r b.nextSeq
    let b' : Bay := if w0 || w1 then
        { b with buffer := rest, nextSeq := b.nextSeq + 1, seq := b.nextSeq, head := BitVec.ofNat 20 (idx + 1),
                 wrapped := b.wrapped || decide (idx = 1048575),
                 copy0 := if w0 then tabPut b.copy0 idx ws else b.copy0, copy1 := if w1 then tabPut b.copy1 idx ws else b.copy1 }
      else b
    let bad0 := b.bad0 || !ok0
    let bad1 := b.bad1 || !ok1
    let s := bayRefill { s with bay := { b' with bad0 := bad0, bad1 := bad1 } }
    if bad0 ≠ b.bad0 ∨ bad1 ≠ b.bad1 then nvmDegraded bad0 bad1 false s else s

/-- R505: THERM_TRIP_N goes low once the THERMAL_TRIP entry has been written, or when it can be written nowhere. -/
def tripPin (r : Record) (s : State) : State :=
  if r.code = 0x0902 ∧ !r.injected then { s with hub.thermTripN := false } else s

def execBayEntryWrite (ok0 ok1 : Bool) (s : State) : Out :=
  if s.bay.opened && !s.hub.holdUp && !s.hub.resetLow then
    match s.bay.buffer with
    | r :: _ => .next (bayWrite ok0 ok1 (tripPin r s))
    | [] => .next s
  else .next s

/-! Reading the Bay record (R456). -/

/-- An entry from a copy whose CRC is valid, ND0 first. -/
def bayRead (idx : Nat) (b : Bay) : Bool × Bool × List Word :=
  match (tabGet b.copy0 idx).filter bayValid, (tabGet b.copy1 idx).filter bayValid with
  | some ws, _ => (true, false, ws)
  | none, some ws => (true, true, ws)
  | none, none => (false, false, List.replicate 16 0)

def bbxIndex (v : Word) (s : State) : State :=
  let r := bayRead (fld v 0 20) s.bay
  { s with bay.readIndex := BitVec.ofNat 20 (fld v 0 20), bay.readValid := r.1, bay.readCopy := r.2.1, bay.readData := r.2.2 }

/-- R451: accepted in safe halt as well. -/
def execBbxReadIndexWrite (value : Word) (s : State) : Out := .next (if hostOn s then bbxIndex value (dropHeld s) else s)

/-- R456: HD1 serves the management bus from power-good onward. -/
def mgmtOn (s : State) : Bool := s.hub.powerGood && !s.hub.resetLow

def execMgmtBayIndexWrite (value : Word) (s : State) : Out :=
  if mgmtOn s then
    let r := bayRead (fld value 0 20) s.bay
    .next { s with bay.mgmtIndex := BitVec.ofNat 20 (fld value 0 20), bay.mgmtValid := r.1, bay.mgmtCopy := r.2.1, bay.mgmtData := r.2.2 }
  else .next s

/-- R454: the head of a copy: the valid entry whose BAY_SEQ is highest, compared modulo 2^32. -/
def bayHead (t : Table (List Word)) : Option (Nat × Word) :=
  (t.filter fun e => bayValid e.2).foldl (fun (m : Option (Nat × Word)) e =>
    let q := nth e.2 1
    match m with
    | none => some (e.1, q)
    | some p => if (q - p.2).toNat < 2 ^ 31 then some (e.1, q) else some p) none

/-- The later of the heads of the two copies. -/
def bayHeads (b : Bay) : Option (Nat × Word) :=
  match bayHead b.copy0, bayHead b.copy1 with
  | some a, some c => if (c.2 - a.2).toNat < 2 ^ 31 then some c else some a
  | some a, none => some a
  | none, c => c

/-- R456: before the firmware runs, HD1 finds the head itself on the first read of it. -/
def execMgmtHeadSearch (s : State) : Out :=
  if mgmtOn s && !s.hub.fwRunning && s.bay.mgmtHead.isNone then
    let h := bayHeads s.bay
    .next { s with bay.mgmtHead := some (match h with
      | some (i, q) => (BitVec.ofNat 20 (i + 1), q)
      | none => (0, 0)) }
  else .next s

/-! The journal. -/

def jSetting : Half := 1
def jTemplate : Half := 2
def jCalibration : Half := 3
def jAdapter : Half := 4
def jLaserWear : Half := 5
def jDramWear : Half := 6
def jStartLog : Half := 7
def jRollback : Half := 8
def jOverride : Half := 9
def jImage : Half := 10

def jrec (type : Half) (key : Nat) (payload : List Byte) : JRec :=
  { type := type, delete := false, key := BitVec.ofNat 64 key, payload := payload }

/-- R459, R460: bytes of a record, and of a transaction with its COMMIT record. -/
def jrecBytes (r : JRec) : Nat := alignUp (32 + r.payload.length) 64
def txnBytes (t : Txn) : Nat := (t.recs.map jrecBytes).foldl (· + ·) 64
def txnsBytes (l : List Txn) : Nat := (l.map txnBytes).foldl (· + ·) 0

/-- R460: the records in force, by transaction: those that no later record of the same key follows. -/
def inForce (l : List Txn) : List Txn :=
  (l.foldr (fun t (acc : List (Half × DWord) × List Txn) =>
    let r := t.recs.foldr (fun r (a : List (Half × DWord) × List JRec) =>
      if a.1.contains (r.type, r.key) then a
      else ((r.type, r.key) :: a.1, if r.delete then a.2 else r :: a.2)) (acc.1, [])
    (r.1, if r.2 = [] then acc.2 else { t with recs := r.2 } :: acc.2)) ([], [])).2

/-- The journal as the device uses it. -/
def journal (s : State) : List Txn := if s.jnl.bad0 then s.jnl.copy1 else s.jnl.copy0

def liveBytes (l : List Txn) : Nat := txnsBytes (inForce l)

/-- The record in force under a key. -/
def jnlGet (s : State) (type : Half) (key : Nat) : Option JRec :=
  ((inForce (journal s)).flatMap (·.recs)).find? fun r => decide (r.type = type ∧ r.key = BitVec.ofNat 64 key)

def jnlAll (s : State) (type : Half) : List JRec := ((inForce (journal s)).flatMap (·.recs)).filter fun r => decide (r.type = type)

/-- R460, R463: records are queued as one transaction; none where the journal cannot hold them. -/
def journalPut (recs : List JRec) (s : State) : Option (DWord × State) :=
  let seq := ((s.jnl.queue.getLast?).map (·.seq)).getD s.jnl.seq + 1
  let t : Txn := { seq := seq, recs := recs }
  if s.jnl.suspended || decide (96 * 1048576 < liveBytes (journal s ++ s.jnl.queue ++ [t])) then none
  else some (seq, { s with jnl.queue := s.jnl.queue ++ [t] })

/-- Records that the device writes for itself; what the journal refuses is not written. -/
def journalNote (recs : List JRec) (s : State) : State :=
  if recs = [] then s else ((journalPut recs s).map (·.2)).getD s

/-- R462: compaction starts at 96 MiB. -/
def compactIfDue (s : State) : State :=
  if s.jnl.fill.toNat < 96 * 1048576 ∨ s.jnl.compacting then s else { s with jnl.compacting := true, jnl.pct := 0, jnl.copied := 0 }

/-- R460, R457, R463: the oldest queued transaction commits on the copies that can be written. -/
def commitTxn (ok0 ok1 : Bool) (s : State) : State :=
  let j := s.jnl
  match j.queue with
  | [] => s
  | t :: rest =>
    if j.compacting && decide (128 * 1048576 < j.fill.toNat + txnBytes t) then { s with jnl.full := true }
    else
      let w0 := !j.bad0 && ok0
      let w1 := !j.bad1 && ok1
      let bad0 := j.bad0 || !ok0
      let bad1 := j.bad1 || !ok1
      let j' : Jnl := if w0 || w1 then
          { j with queue := rest, seq := t.seq, commits := satAdd j.commits 1, fill := BitVec.ofNat 28 (j.fill.toNat + txnBytes t),
                   copy0 := if w0 then j.copy0 ++ [t] else j.copy0, copy1 := if w1 then j.copy1 ++ [t] else j.copy1, full := false }
        else j
      let s := { s with jnl := { j' with bad0 := bad0, bad1 := bad1 } }
      let s := if bad0 ≠ j.bad0 ∨ bad1 ≠ j.bad1 then nvmDegraded bad0 bad1 true s else s
      compactIfDue s

/-- R462: the records that compaction keeps: those in force, but only the 64 newest START_LOG records. -/
def compacted (l : List Txn) : List Txn :=
  let live := inForce l
  let logs := ((live.flatMap (·.recs)).filter fun r => decide (r.type = jStartLog)).map (·.key.toNat)
  let keep (r : JRec) : Bool := decide (r.type ≠ jStartLog) || decide ((logs.filter fun k => decide (r.key.toNat < k)).length < 64)
  (live.map fun t => { t with recs := t.recs.filter keep }).filter fun t => decide (t.recs ≠ [])

/-- R462, Table 16.2: the new half takes over, in both copies. -/
def switchHalves (s : State) : State :=
  let l := compacted (journal s)
  { s with jnl := { s.jnl with
      copy0 := if s.jnl.bad0 && !s.jnl.suspended then s.jnl.copy0 else l
      copy1 := if s.jnl.bad1 && !s.jnl.suspended then s.jnl.copy1 else l
      bad0 := s.jnl.bad0 && !s.jnl.suspended, bad1 := s.jnl.bad1 && !s.jnl.suspended
      gen := s.jnl.gen + 1, fill := BitVec.ofNat 28 (64 + txnsBytes l), compacting := false, pct := 100, suspended := false, full := false } }

/-! The hold-up sequence (R464, Table 15.9). -/

/-- The buffer is written to both copies, as far as the board's hold-up lasts. -/
def drainBay : Nat → State → State
  | 0, s => s
  | f + 1, s =>
    if s.bay.buffer = [] ∨ !s.bay.opened ∨ (s.bay.bad0 ∧ s.bay.bad1) then s
    else drainBay f (bayWrite true true { s with bay.buffer := s.bay.buffer.map fun r => { r with holdup := true } })

/-- POWER_FAIL goes behind every record already held; waiting records enter behind it as entries leave. -/
def powerFailRecord (s : State) : State :=
  let p := newRecord 0x0903 5 false false noStream noCore [0, 0, BitVec.ofNat 32 s.bay.buffer.length] s
  let r := { p.1 with holdup := true }
  let s := countClass 5 { p.2 with bay.buffer := p.2.bay.buffer ++ [r] }
  let s := if s.que.evEn && evqRoom s.que then writeEventEntry r s else s
  s

/-- `writes`: how many buffered entries become durable. -/
def holdUp (writes : Nat) (s : State) : State :=
  if s.hub.holdUp then s
  else
    let s := powerFailRecord s
    let s := drainBay writes s
    let s := { s with bay.waitingIn := [] }
    let s := match s.jnl.queue with
      | t :: _ => if txnBytes t ≤ 32768 then commitTxn true true s else { s with jnl.torn0 := s.jnl.torn0 + 1 }
      | [] => s
    let s := safeHalt false s
    { s with hub.holdUp := true, jnl.queue := [], jnl.compacting := false, cfg.persist := false
             evt.handling := none, evt.preempted := [], evt.waiting := [] }

/-- R464: PWR_FAIL_N low for at least 1 us. -/
def execPwrFailNFall (lowNs : Nat) (s : State) : Out :=
  .next (if lowNs < 1000 ∨ s.hub.resetLow then s else holdUp (s.bay.buffer.length + s.bay.waitingIn.length + 1) s)

/-- R491: a rail out of its limits in D0: the same sequence, with no guarantee for the buffered entries. -/
def execRailOutOfLimits (_rail : BitVec 5) (s : State) : Out :=
  if s.hub.resetLow || s.pwr.hot then .next s
  else
    let d := draw s
    .next (holdUp (d.1 % (s.bay.buffer.length + s.bay.waitingIn.length + 2)) d.2)

end Sys2Proof.Machine
end

