-- ==== Sys2Proof/Machine/Mmu.lean ====
section
/-! DEFINITION. Translation commands (R372-R376), the BAR2 aperture (R377, R378), protection of DRAM and the scrubs
(R363-R369). -/

namespace Sys2Proof.Machine

/-! Invalidation (R373). -/

/-- The TLB entries that an invalidation names. -/
def invalidated (m : Mmu) (page : Nat) : Bool :=
  decide (m.invalPages = 0) || (decide (m.invalVa.toNat / 65536 ≤ page) && decide (page < m.invalVa.toNat / 65536 + m.invalPages.toNat))

def invalCtrl (v : Word) (s : State) : State :=
  { s with mmu.invalPages := BitVec.ofNat 16 (fld v 0 16), mmu.invalGo := s.mmu.invalGo || bit v 31 }

def execMmuInvalGo (value : Word) (s : State) : Out := hostWrite (invalCtrl value) s

def execMmuInvalidationDone (s : State) : Out :=
  .next (if s.mmu.invalGo && agentsOn s then
    { s with mmu.tlb := s.mmu.tlb.filter (fun e => !invalidated s.mmu e.2.1), mmu.invalGo := false } else s)

/-- R372: a walk by a die ends: its TLB is filled, or the walk reports a kind. -/
def execMmuWalkComplete (die : BitVec 4) (va : BitVec 48) (write : Bool) (s : State) : Out :=
  if !agentsOn s || s.pwr.hot || !inTranslated va.toNat || 12 ≤ die.toNat then .next s
  else match walk s va.toNat with
    | .ok e =>
      let s := tlbFill die.toNat (va.toNat / 65536) e s
      .next { s with mmu.walkFault := match placeOf e va.toNat write with
        | .ok _ => none
        | .error k => some (die, va, BitVec.ofNat 3 k) }
    | .error k => .next { s with mmu.walkFault := some (die, va, BitVec.ofNat 3 k) }

/-! Resume and abort (R376). -/

/-- R182, R278: a waiter goes on. -/
def resumeWaiter (id : Nat) (w : BitVec 17 × Nat) (s : State) : State :=
  let c := w.1.toNat
  if w.2 = 16 then modCore s c fun k => { k with flushHalt := none }
  else match (findOp (getCore s c) w.2).filter (fun o => decide (o.suspended = some id)) with
    | none => s
    | some o =>
      let again := (o.undone.map (·.1) ++ o.replay).foldl (fun l p => ins p l) []
      let o := { o with suspended := none, undone := [], replay := if o.unit = 4 then again else [] }
      let s := modCore s c fun k => putOp k o
      if o.unit = 4 then dmaRun c s else s

/-- The layer of the placement that an attention layer of a stream is. -/
def placedLayer (s : State) (x : Stream) (a : Nat) : Nat := (((templateOf s x).map attLayers).getD []).getD a 0

/-- R182: the chunk whose append filled the page. -/
def flushOwner (s : State) (n a hd : Nat) : Option Chunk :=
  let x := getStream s n
  match readHead s x.r.kvTable.toNat with
  | none => none
  | some h => (dueFlush s x x.r.kvTable.toNat h a hd).map (·.1)

/-- R182, R279: a waiter halts. -/
def abortWaiter (id : Nat) (e : FaultEntry) (w : BitVec 17 × Nat) (s : State) : State :=
  let c := w.1.toNat
  let k := getCore s c
  if w.2 = 16 then
    match k.flushHalt with
    | none => s
    | some (_, n, a, hd) =>
      let s := setCore s c { k with flushHalt := none }
      match flushOwner s n a hd with
      | none => s
      | some ch => faultChunk n ch.num 0x12 (raiseFlush 0x0302 n (placedLayer s (getStream s n) a) c ch.num id s)
  else match (findOp k w.2).filter (fun o => decide (o.suspended = some id)) with
    | none => s
    | some o =>
      if o.unit = 4 then
        match (o.undone.map (·.1)).min? with
        | some p =>
          let u := (o.undone.find? fun u => decide (u.1 = p)).getD (p, 0, e.va.toNat, e.write)
          dmaRun c (dmaHalt c o 0 p (b2n u.2.2.2) id u.2.2.1 s)
        | none => s
      else haltOp c o (raiseTransfer 0x0302 c o id (dmaPosition (0, 0, 0, 0) 0 o.id 0 0 0) e.va.toNat) 0x12 s

/-- R375: an operation that waits for a free entry: core and operation, in ascending core order. -/
def waitsForEntry (s : State) : Option (Nat × Nat) :=
  s.cores.findSome? fun e =>
    if (e.2.flushHalt.map (·.1)) = some 1024 then some (e.1, 16)
    else (e.2.ops.find? fun o => decide (o.suspended = some 1024)).map fun o => (e.1, o.id)

/-- It takes the entry and raises its PAGE_FAULT. -/
def takeEntry (c op : Nat) (s : State) : State :=
  let k := getCore s c
  if op = 16 then
    match k.flushHalt with
    | none => s
    | some (_, n, a, hd) =>
      let pool := ((readHead s (getStream s n).r.kvTable.toNat).map (·.pool)).getD 0
      let j := joinFault 0 5 true pool c 16 s
      match j.1, flushOwner s n a hd with
      | some f, some ch =>
        raiseFlush 0x0301 n (placedLayer s (getStream s n) a) c ch.num f (modCore j.2 c fun k => { k with flushHalt := some (f, n, a, hd) })
      | _, _ => s
  else match findOp k op with
    | none => s
    | some o =>
      match (o.undone.map (·.1)).min?.bind fun p => o.undone.find? fun u => decide (u.1 = p) with
      | none => s
      | some (p, kind, va, w) =>
        let j := joinFault va kind w 0 c op s
        match j.1 with
        | some f =>
          let s := modCore j.2 c fun k => putOp k { o with suspended := some f }
          let pos := if o.unit = 4 then dmaPos s k o p (b2n w) 0 else dmaPosition (0, 0, 0, 0) 0 o.id 0 0 0
          raiseTransfer 0x0301 c o f pos va s
        | none => s

def entriesTaken : Nat → State → State
  | 0, s => s
  | f + 1, s =>
    match (if (freeFault s).isSome then waitsForEntry s else none) with
    | some w => entriesTaken f (takeEntry w.1 w.2 s)
    | none => s

/-- R376: a write of MMU_RESUME. -/
def resumeWrite (v : Word) (s : State) : State :=
  let id := fld v 0 10
  if fld v 10 6 ≠ 0 ∨ fld v 17 15 ≠ 0 then { s with mmu.badResume := true }
  else match tabGet s.mmu.faults id with
    | none => { s with mmu.badResume := true }
    | some e =>
      let s := { s with mmu.faults := tabDel s.mmu.faults id }
      let s := e.waiters.foldl (fun s w => if bit v 16 then abortWaiter id e w s else resumeWaiter id w s) s
      entriesTaken 1024 s

def execMmuResume (value : Word) (s : State) : Out := hostWrite (resumeWrite value) s

/-- The same register with ACTION 1. -/
def execMmuAbort (value : Word) (s : State) : Out := hostWrite (resumeWrite value) s

/-! BAR2 (R377, R378). -/

def aperBase (v : DWord) (s : State) : State := { s with mmu.aperBase := BitVec.ofNat 64 (v.toNat % 2 ^ 48 / 65536 * 65536) }

/-- The whole register at once, which clears its latch (R12). -/
def execMmuAperBaseWrite (value : DWord) (s : State) : Out :=
  hostWrite (fun s => aperBase value { s with hub.latches := tabDel s.hub.latches 0xC028 }) s

/-- R367, R377: bytes beyond the present DRAM read 0; a poisoned granule completes with a poisoned TLP. -/
def bar2Read (off len : Nat) (s : State) : State :=
  let a := s.mmu.aperBase.toNat + off
  let miss := !((List.range len).all fun i => dramPresent s (a + i))
  let bytes := (List.range len).map fun i => if dramPresent s (a + i) then memGet s.dram (a + i) else 0
  let poison := dramPoisoned s a len
  let s := { s with hub.busData := bytes, hub.busPoison := poison, mmu.aperMiss := s.mmu.aperMiss || miss }
  if poison then { s with hub.aerErrors := s.hub.aerErrors + 1, mmu.poisonCount := satAdd s.mmu.poisonCount 1 } else s

def execBar2Read (off : BitVec 34) (len : Nat) (s : State) : Out := .next (if hostOn s then bar2Read off.toNat len s else s)

def bar2Write (off : Nat) (bs : List Byte) (s : State) : State :=
  let a := s.mmu.aperBase.toNat + off
  let n := ((List.range bs.length).takeWhile fun i => dramPresent s (a + i)).length
  let s := dramWrite s a (bs.take n) false
  if n < bs.length then { s with mmu.aperMiss := true } else s

def execBar2Write (off : BitVec 34) (bytes : List Byte) (s : State) : Out := .next (if hostOn s then bar2Write off.toNat bytes s else s)

/-! Reads of a granule (R363, R364). -/

/-- R363: what a codeword's error makes of its read: bits corrected, wrong data, uncorrectable. -/
inductive CwFate where
  | clean | corrected (bits : Nat) | miscorrected | detected | passed
  deriving DecidableEq, Repr

def cwFate (e : CwError) : CwFate :=
  if e.bits = 0 then .clean
  else if e.bits ≤ 2 then .corrected e.bits
  else if e.bits = 3 then .detected
  else if e.verdict = 0 then .miscorrected else if e.verdict = 1 then .detected else .passed

def countCe (a bits : Nat) (s : State) : State :=
  let die := a / dieBytes
  let life := tabPut s.mmu.lifeCe die (tabGetD 0 s.mmu.lifeCe die + 1)
  raisePlain 0x0304 ([0, 0] ++ words64 a ++ [BitVec.ofNat 32 bits]) { s with mmu.ce := satAdd s.mmu.ce 1, mmu.lifeCe := life }

/-- One codeword of a granule; corrected data is written back, wrong data is what later reads find. -/
def readCodeword (a : Nat) (e : CwError) (s : State) : State :=
  match cwFate e with
  | .clean | .detected => s
  | .corrected n => countCe a n s
  | .miscorrected =>
    let d := draw s
    countCe a (1 + d.1 % 2) { d.2 with dram := memWrite d.2.dram a (leBytes 8 e.wrong.toNat) }
  | .passed => { s with dram := memWrite s.dram a (leBytes 8 e.wrong.toNat) }

/-- R364: the granule becomes poisoned and DRAM_UE is raised. -/
def uncorrectable (a : Nat) (s : State) : State :=
  let die := a / dieBytes
  let life := tabPut s.mmu.lifeUe die (tabGetD 0 s.mmu.lifeUe die + 1)
  raisePlain 0x0305 ([0, 0] ++ words64 a)
    { s with poison := ins (a / 64) s.poison, mmu.ue := satAdd s.mmu.ue 1, mmu.lastUe := BitVec.ofNat 48 a, mmu.lifeUe := life }

/-- The granule that holds an address is read, with the errors that its eight codewords hold. -/
def readGranule (addr : Nat) (errors : List CwError) (s : State) : State :=
  let a := addr / 64 * 64
  let es := errors.take 8
  if s.poison.contains (a / 64) then s
  else
    let s := (List.range es.length).foldl (fun s i => readCodeword (a + 8 * i) (es.getD i ⟨0, 0, 0⟩) s) s
    if es.any fun e => decide (cwFate e = .detected) then uncorrectable a s else s

def ceOf (errors : List CwError) : Nat :=
  ((errors.take 8).filter fun e => match cwFate e with | .corrected _ | .miscorrected => true | _ => false).length

/-- DRAM is out of self-refresh and no reset is held. -/
def dramOn (s : State) : Bool := !s.hub.resetLow && !s.pwr.hot

def execDramRead (addr : BitVec 38) (errors : List CwError) (s : State) : Out :=
  .next (if dramOn s && dramPresent s addr.toNat then readGranule addr.toNat errors s else s)

/-! Scrubs (R368, R369). -/

def patrolAt (s : State) (die : Nat) : Nat := tabGetD 0 s.mmu.patrol die

/-- R368: the patrol reads its next granule; the passes counted are those of the least advanced die. -/
def patrolStep (die : Nat) (errors : List CwError) (s : State) : State :=
  let p := patrolAt s die
  let s := readGranule (die * dieBytes + p % dieBytes) errors s
  let t := tabPut s.mmu.patrol die (p + 64)
  let s := { s with mmu.patrol := t }
  let least := ((presentDies s).map (patrolAt s)).min?.getD 0
  let life := tabPut s.mmu.lifePasses die (tabGetD 0 s.mmu.lifePasses die + 1)
  let s := if (p + 64) % dieBytes = 0 then { s with mmu.lifePasses := life } else s
  { s with mmu.passes := BitVec.ofNat 32 (min 0xFFFFFFFF (least / dieBytes)) }

def execPatrolScrubRead (die : BitVec 4) (errors : List CwError) (s : State) : Out :=
  .next (if dramOn s && agentsOn s && s.mmu.scrubEn && (longOf s 0x38).isNone && (presentDies s).contains die.toNat
    then patrolStep die.toNat errors s else s)

/-- The dies, the offset and the length of a SCRUB command. -/
def scrubDies (s : State) (c : HostCmd) : List Nat := (presentDies s).filter fun d => bit (cmdW c 2) d
def scrubOff (c : HostCmd) : Nat := cmdAddr c 4
def scrubLen (c : HostCmd) : Nat := cmdAddr c 6

/-- R369, R402: the demand pass reads its next granule on a die. -/
def demandStep (die : Nat) (errors : List CwError) (s : State) : State :=
  match longOf s 0x38 with
  | none => s
  | some l =>
    let p := tabGetD 0 l.dieCursor die
    if !(scrubDies s l.cmd).contains die || decide (scrubLen l.cmd ≤ p) then s
    else
      let a := die * dieBytes + scrubOff l.cmd + p
      let fresh := !s.poison.contains (a / 64)
      let ue := fresh && (errors.take 8).any fun e => decide (cwFate e = .detected)
      let s := readGranule a errors s
      let cur := tabPut l.dieCursor die (p + 64)
      let l := { l with dieCursor := cur, count := l.count + (if fresh then ceOf errors else 0), count2 := l.count2 + b2n ue }
      let s := modLong s l.slot fun _ => l
      let least := ((scrubDies s l.cmd).map fun d => tabGetD 0 cur d).min?.getD 0
      let total := ((scrubDies s l.cmd).map fun d => tabGetD 0 cur d).foldl (· + ·) 0
      let s := setDone l.slot (total / 4096) s
      if scrubLen l.cmd ≤ least then
        finishLong l.slot stSuccess 0 [BitVec.ofNat 32 l.count, BitVec.ofNat 32 l.count2] s
      else s

end Sys2Proof.Machine
end

