-- ==== Sys2Proof/Machine/Image.lean ====
section
/-! DEFINITION. Policy writes (R319, R320), the image's layout (R326-R336), its verification (R337-R345), and the
full load that applies it (R339). -/

namespace Sys2Proof.Machine

/-! Policy registers (Table 9.8). -/

/-- R319, R320: a 32-bit THM_ register as a write leaves it; none where a field is out of range. -/
def thmPut (off : Nat) (v : Word) (t : Thm) : Option Thm :=
  let f (lo n least most : Nat) (g : Nat → Thm) : Option Thm :=
    let x := fld v lo n
    if least ≤ x ∧ x ≤ most then some (g x) else none
  if off = 0x00 then some { t with rebalEn := bit v 0, coolPlace := bit v 1 }
  else if off = 0x04 then f 0 8 10 95 fun x => { t with utilMax := BitVec.ofNat 8 x }
  else if off = 0x08 then f 0 8 50 100 fun x => { t with guard := BitVec.ofNat 8 x }
  else if off = 0x0C then some { t with ratio := BitVec.ofNat 16 (fld v 0 16) }
  else if off = 0x10 then
    if 1 ≤ fld v 8 8 ∧ fld v 8 8 ≤ 50 then
      f 0 8 0 64 fun x => { t with maxMoves := BitVec.ofNat 8 x, hyst := BitVec.ofNat 8 (fld v 8 8) }
    else none
  else if off = 0x14 then f 0 9 160 320 fun x => { t with clkFloor := BitVec.ofNat 9 x }
  else if off = 0x18 then f 0 8 10 95 fun x => { t with linkMax := BitVec.ofNat 8 x }
  else if off = 0x1C then f 0 7 0 64 fun x => { t with expressMax := BitVec.ofNat 7 x }
  else if 0x20 ≤ off ∧ off < 0x30 ∧ off % 4 = 0 then
    let n := (off - 0x20) / 4
    if 2 ≤ fld v 8 8 ∧ fld v 8 8 ≤ 64 then
      f 0 8 5 75 fun x => { t with cuRatio := vset t.cuRatio n (BitVec.ofNat 8 x), lagLimit := vset t.lagLimit n (BitVec.ofNat 8 (fld v 8 8)) }
    else none
  else some t

/-- R320, R342: a write out of range is discarded with CFG_REJECT; a write of RATIO is pending for the chunks released before it. -/
def thmWrite (off : Nat) (v : Word) (s : State) : State :=
  match thmPut off v s.thm with
  | none => cfgReject 0x0E (0x5000 + off) noStream s
  | some t =>
    if off = 0x0C then
      let old := if s.thm.ratioAt = some s.clk.time then s.thm.ratioOld else s.thm.ratio
      { s with thm := { t with ratioOld := old, ratioAt := some s.clk.time }, cfg.satMark := some s.thm.releases }
    else { s with thm := t }

/-- R342: the RATIO that a release now takes: the one from before a write at the same device time. -/
def ratioNow (s : State) : Half := if s.thm.ratioAt = some s.clk.time then s.thm.ratioOld else s.thm.ratio

/-- THM_TELEM. -/
def telemWrite (v : DWord) (s : State) : State :=
  { s with thm.telEn := v.getLsbD 0, thm.telAddr := BitVec.ofNat 64 (v.toNat / 4096 * 4096) }

/-! Header and section table (R326, R327). -/

def allZero (bs : List Byte) : Bool := bs.all (· == 0)

/-- Bytes lo to lo + n - 1 of a string. -/
def cut (bs : List Byte) (lo n : Nat) : List Byte := (bs.drop lo).take n

/-- A string cut into records of one size. -/
def records (size : Nat) (bs : List Byte) : List (List Byte) := (List.range (bs.length / size)).map fun i => cut bs (size * i) size

def distinct (l : List Nat) : Bool := decide l.Nodup

def parseSection (e : List Byte) : ImgSection :=
  { type := BitVec.ofNat 16 (natAt e 0 2), optional := bit (wordAt e 0) 16, offset := natAt e 8 8, length := natAt e 16 8, digest := cut e 32 64 }

def sectionEntries (bs : List Byte) : List (List Byte) := records 96 (cut bs 256 (96 * natAt bs 6 2))

/-- R327: sections on 4 KiB boundaries behind the signature, within the image, none over another. -/
def sectionsOk (bs : List Byte) : Bool :=
  let es := sectionEntries bs
  let ts := es.map parseSection
  es.all (fun e => decide (fld (wordAt e 0) 17 15 = 0) && allZero (cut e 4 4) && allZero (cut e 24 8)) &&
  ts.all (fun t => decide (t.offset % 4096 = 0) && decide (natAt bs 80 4 + 3309 ≤ t.offset) && decide (t.offset + t.length ≤ natAt bs 16 8)) &&
  decide (ts.Pairwise fun a b => ¬ (a.offset < b.offset + b.length ∧ b.offset < a.offset + a.length))

/-- The chunk-context area (R516). -/
def ctxBytes : Nat := 67108864

/-- Step 1 of Table 10.6; `n` is the command's BYTES. -/
def headerOk (bs : List Byte) (n : Nat) : Bool :=
  let count := natAt bs 6 2
  decide (256 ≤ bs.length) && decide (natAt bs 0 4 = 0x58445559) && decide (natAt bs 4 2 = 1) && decide (1 ≤ count) && decide (count ≤ 1024) &&
  decide (fld (wordAt bs 2) 1 31 = 0) && decide (natAt bs 16 8 ≤ n) && decide (natAt bs 24 8 % 65536 = 0) &&
  decide (natAt bs 16 8 ≤ natAt bs 32 8) && decide (fld (wordAt bs 11) 10 22 = 0) && decide (natAt bs 80 4 = 256 + 96 * count) &&
  decide (natAt bs 84 4 % 4096 = 0) && decide (natAt bs 84 4 + ctxBytes ≤ natAt bs 32 8) && allZero (cut bs 88 168) && sectionsOk bs

/-! Records (R329-R336). -/

def parseGroup (e : List Byte) : ImgGroup :=
  { group := BitVec.ofNat 16 (natAt e 0 2), compat := bit (wordAt e 0) 16, hazardEvent := bit (wordAt e 0) 17
    bankPwr := BitVec.ofNat 8 (natAt e 4 1), bankZero := BitVec.ofNat 8 (natAt e 5 1), inRing := BitVec.ofNat 5 (fld (wordAt e 1) 16 5)
    outRings := (List.range 4).map fun i => BitVec.ofNat 5 (fld (wordAt e 2) (5 * i) 5)
    program := natAt e 12 4, coreFirst := natAt e 16 4, coreCount := natAt e 20 4
    rings := (List.range 16).map fun i => ringRecord (wordsOf 4 (cut e (32 + 16 * i) 16)) }

def parseReplica (e : List Byte) : ImgReplica :=
  let n := natAt e 4 2
  { replica := BitVec.ofNat 16 (natAt e 0 2), template := BitVec.ofNat 16 (natAt e 2 2), die := BitVec.ofNat 4 (fld (wordAt e 1) 16 4)
    groups := (List.range n).map fun i => BitVec.ofNat 16 (natAt e (8 + 2 * i) 2)
    buckets := (List.range 11).map fun i => BitVec.ofNat 16 (natAt e (8 + 2 * n + 2 * i) 2) }

def parsePreload (e : List Byte) : Preload :=
  { group := BitVec.ofNat 16 (natAt e 0 2), dst := fld (wordAt e 1) 0 17, sect := natAt e 8 4, offset := natAt e 12 4
    length := fld (wordAt e 4) 0 18, stride := natAt e 20 4 }

def parsePool (e : List Byte) : ImgPool :=
  { kv := decide (natAt e 0 1 = 1), index := BitVec.ofNat 8 (natAt e 1 1), dataBase := natAt e 8 8, frames := natAt e 16 4
    frameBytes := natAt e 20 4, scaleBase := natAt e 24 8, descOffset := natAt e 4 4 }

def parseLayer (e : List Byte) : ImgLayer :=
  { kind := BitVec.ofNat 2 (fld (wordAt e 0) 0 2), kvHeads := BitVec.ofNat 8 (natAt e 1 1), kvFmt := bit (wordAt e 0) 16
    wOff := natAt e 4 4, wLen := natAt e 8 4, wDigest := cut e 16 16 }

def parseState (e : List Byte) : ImgState :=
  { layer := BitVec.ofNat 16 (natAt e 0 2), op := BitVec.ofNat 4 (fld (wordAt e 0) 16 4), gapMode := BitVec.ofNat 2 (fld (wordAt e 0) 20 2)
    d := natAt e 4 2, n := natAt e 6 1, offset := natAt e 8 4 }

def parseTemplate (tbl : List Byte) (secs : List ImgSection) (e : List Byte) : ImgTemplate :=
  let w := natAt e 40 4
  { template := BitVec.ofNat 16 (natAt e 0 2), expressCap := bit (wordAt e 0) 16, f := natAt e 4 2, framesPerPos := natAt e 6 2
    framePayload := natAt e 8 2, resultBytes := natAt e 10 2
    layers := (records 32 (cut tbl (natAt e 20 4) (32 * natAt e 12 2))).map parseLayer
    stateMap := (records 16 (cut tbl (natAt e 16 4) (16 * natAt e 14 2))).map parseState
    blockBytes := natAt e 24 4, wDeclNs := natAt e 28 4, lDeclUs := natAt e 32 4
    statePool := BitVec.ofNat 8 (natAt e 36 1), kvPool := BitVec.ofNat 8 (natAt e 37 1), weights := w
    masters := if natAt e 44 4 = 0xFFFFFFFF then none else some (natAt e 44 4)
    modelDigest := (secs.getD w ImgSection.init).digest }

def parseMigration (e : List Byte) : Migration :=
  { template := BitVec.ofNat 16 (natAt e 0 2), layer := BitVec.ofNat 16 (natAt e 2 2), oldLayer := BitVec.ofNat 16 (natAt e 4 2)
    resize := decide (fld (wordAt e 1) 16 2 = 1) }

def parseWave (e : List Byte) : Wave :=
  { wave := BitVec.ofNat 16 (natAt e 0 2), timeUs := natAt e 4 4
    groups := (List.range (natAt e 2 2)).map fun i => BitVec.ofNat 16 (natAt e (8 + 2 * i) 2) }

/-- Records of variable size: `size` gives a record's bytes from the string that begins with it. -/
def splitBy (size : List Byte → Nat) : Nat → List Byte → Option (List (List Byte))
  | 0, bs => if bs = [] then some [] else none
  | f + 1, bs =>
    if bs = [] then some []
    else if bs.length < 8 ∨ bs.length < size bs then none
    else (splitBy size f (bs.drop (size bs))).map (bs.take (size bs) :: ·)

def replicaSize (bs : List Byte) : Nat := alignUp (8 + 2 * natAt bs 4 2 + 22) 8
def waveSize (bs : List Byte) : Nat := alignUp (8 + 2 * natAt bs 2 2) 4

/-- R334: the template records stand at the start of their section, ahead of the first table that one of them names. -/
def templateRecords : Nat → List Byte → Nat → Nat → List (List Byte)
  | 0, _, _, _ => []
  | f + 1, tbl, off, limit =>
    if limit < off + 64 then []
    else
      let e := cut tbl off 64
      let low (count at' : Nat) (m : Nat) : Nat := if count = 0 then m else min at' m
      e :: templateRecords f tbl (off + 64) (low (natAt e 12 2) (natAt e 20 4) (low (natAt e 14 2) (natAt e 16 4) limit))

/-- The bytes of the first section of a type. -/
def typeBytes (bs : List Byte) (secs : List ImgSection) (type : Nat) : List Byte :=
  match secs.find? fun t => decide (t.type.toNat = type) with
  | some t => cut bs t.offset t.length
  | none => []

def templateEntries (bs : List Byte) (secs : List ImgSection) : List (List Byte) :=
  let tbl := typeBytes bs secs 9
  templateRecords (tbl.length / 64) tbl 0 tbl.length

/-- Table 10.1 to 10.5 as read from the image's bytes. -/
def parseImage (bs : List Byte) : Image :=
  let secs := (sectionEntries bs).map parseSection
  let sec (n : Nat) : List Byte := typeBytes bs secs n
  { base := natAt bs 24 8, bytes := natAt bs 16 8, range := natAt bs 32 8, applyPolicy := bit (wordAt bs 2) 0
    secVersion := wordAt bs 3, minCores := natAt bs 40 4, spadKib := BitVec.ofNat 8 (natAt bs 44 1)
    on4096 := bit (wordAt bs 11) 8, on3072 := bit (wordAt bs 11) 9, imageId := cut bs 48 32
    sigOffset := natAt bs 80 4, ctxOffset := natAt bs 84 4, sections := secs
    groups := (records 288 (sec 2)).map parseGroup
    replicas := ((splitBy replicaSize (sec 3).length (sec 3)).getD []).map parseReplica
    preloads := (records 24 (sec 4)).map parsePreload
    routes := (records 4 (sec 5)).map fun e =>
      (BitVec.ofNat 4 (fld (wordAt e 0) 0 4), BitVec.ofNat 4 (fld (wordAt e 0) 4 4), BitVec.ofNat 4 (fld (wordAt e 0) 8 4))
    pools := (records 32 (sec 6)).map parsePool
    templates := (templateEntries bs secs).map (parseTemplate (sec 9) secs)
    policy := wordsOf 16 (sec 10)
    migrations := (records 16 (sec 11)).map parseMigration
    waves := ((splitBy waveSize (sec 12).length (sec 12)).getD []).map parseWave }

/-! Step 7 of Table 10.6. -/

def groupNumber (g : Image) (n : Half) : Bool := (groupIn g n.toNat).isSome

def ringField (r : BitVec 5) : Bool := decide (r.toNat < 16) || decide (r.toNat = 31)

/-- The sixteen rings of a group's cores. -/
def groupRings (x : ImgGroup) : Vector Ring 16 := Vector.ofFn fun (i : Fin 16) => x.rings.getD i.val Ring.init

def groupOk (s : State) (prog : Nat) (e : List Byte) (x : ImgGroup) : Bool :=
  decide (fld (wordAt e 0) 18 14 = 0) && decide (fld (wordAt e 1) 21 11 = 0) && decide (fld (wordAt e 2) 20 12 = 0) && allZero (cut e 24 8) &&
  decide (1 ≤ x.coreCount) && decide (x.coreFirst + x.coreCount ≤ s.hub.coreCount.toNat) &&
  decide (coreDie s x.coreFirst = coreDie s (x.coreFirst + x.coreCount - 1)) &&
  ringField x.inRing && x.outRings.all ringField && decide (x.program % 64 = 0) && decide (x.program < prog) &&
  (List.range 16).all (fun r =>
    let w := wordsOf 4 (cut e (32 + 16 * r) 16)
    !bit (nth w 0) 20 || (decide (nth w 2 = 0) && ringRecordOk s { Core.init with pwr := x.bankPwr, rings := groupRings x } r w))

def replicaOk (g : Image) (x : ImgReplica) : Bool :=
  (templateIn g x.template.toNat).isSome && decide (x.die.toNat < 12) && x.groups.all (groupNumber g) &&
  x.buckets.all fun b => decide (b = 0xFFFF) || groupNumber g b

def preloadOk (g : Image) (e : List Byte) (p : Preload) : Bool :=
  decide (fld (wordAt e 0) 16 16 = 0) && decide (fld (wordAt e 1) 17 15 = 0) && decide (fld (wordAt e 4) 18 14 = 0) &&
  decide (p.length % 4 = 0) && decide (p.dst + p.length ≤ spBytes) &&
  match groupIn g p.group.toNat, g.sections[p.sect]? with
  | some x, some t => decide (p.offset + (x.coreCount - 1) * p.stride + p.length ≤ t.length)
  | _, _ => false

def poolOk (s : State) (g : Image) (e : List Byte) (p : ImgPool) : Bool :=
  let clear (a n : Nat) : Bool := !overlaps g.base g.range a n
  decide (natAt e 0 1 ≤ 1) && decide (natAt e 2 2 = 0) && decide (p.frameBytes = if p.kv then 65536 else 4096) &&
  clear p.dataBase (p.frames * p.frameBytes) && (!p.kv || (clear p.scaleBase (4096 * p.frames) && clear (descAddr g p 0) (16 * p.frames))) &&
  (decide (p.frames = 0) || dramPresent s p.dataBase)

def layerOk (bs : List Byte) (w : ImgSection) (x : ImgLayer) : Bool :=
  decide (x.kind.toNat ≤ 2) && decide (x.wOff + x.wLen ≤ w.length) &&
  decide ((Config.shake256 64 (cut bs (w.offset + x.wOff) x.wLen)).take 16 = x.wDigest)

def stateOk (t : ImgTemplate) (e : List Byte) (x : ImgState) : Bool :=
  decide (fld (wordAt e 0) 22 10 = 0) && decide (fld (wordAt e 1) 24 8 = 0) && allZero (cut e 12 4) &&
  decide (x.op.toNat ≤ 1) && decide (x.gapMode.toNat ≤ 2) && decide (1 ≤ x.d) && decide (1 ≤ x.n) && decide (x.n ≤ 64) &&
  decide (x.op = 1 → x.n = 1) && decide (x.offset % 256 = 0) && decide (x.layer.toNat < t.layers.length)

/-- R152: the end of the last section, in whole 4 KiB. -/
def mapBytes (t : ImgTemplate) : Nat := alignUp ((t.stateMap.map fun x => x.offset + 8 * x.d * x.n).max?.getD 0) 4096

def templateOk (bs : List Byte) (g : Image) (e : List Byte) (t : ImgTemplate) : Bool :=
  let tbl := typeBytes bs g.sections 9
  let pool (kv : Bool) (i : Byte) : Bool := g.pools.any fun p => decide (p.kv = kv) && decide (p.index = i)
  decide (fld (wordAt e 0) 17 15 = 0) && decide (fld (wordAt e 9) 16 16 = 0) && allZero (cut e 48 16) &&
  decide (1 ≤ t.f) && decide (1 ≤ t.framesPerPos) &&
  decide (natAt e 16 4 + 16 * natAt e 14 2 ≤ tbl.length) && decide (natAt e 20 4 + 32 * natAt e 12 2 ≤ tbl.length) &&
  (records 16 (cut tbl (natAt e 16 4) (16 * natAt e 14 2))).all (fun m => stateOk t m (parseState m)) &&
  decide (t.blockBytes = mapBytes t) && (decide (t.stateMap = []) || pool false t.statePool) &&
  (decide (t.kvPool = 0xFF) || pool true t.kvPool) &&
  decide ((g.sections[t.weights]?.map (·.type)) = some 7) &&
  (match t.masters with
    | none => true
    | some m => decide ((g.sections[m]?.map (·.type)) = some 8)) &&
  t.layers.all (layerOk bs (g.sections.getD t.weights ImgSection.init))

def findState (t : ImgTemplate) (layer : Nat) : Option ImgState := t.stateMap.find? fun x => decide (x.layer.toNat = layer)

def migrationOk (s : State) (g : Image) (e : List Byte) (m : Migration) : Bool :=
  decide (fld (wordAt e 1) 18 14 = 0) && decide (fld (wordAt e 1) 16 2 ≤ 1) && allZero (cut e 8 8) &&
  match (templateIn g m.template.toNat).bind fun t => findState t m.layer.toNat,
      (s.cfg.cur.bind fun o => templateIn o m.template.toNat).bind fun t => findState t m.oldLayer.toNat with
  | some a, some b => m.resize || decide (a.d = b.d ∧ a.n = b.n)
  | some _, none => s.cfg.cur.isNone
  | none, _ => false

/-- R328: how often each section type stands in an image. -/
def sectionCountsOk (secs : List ImgSection) : Bool :=
  let n (t : Nat) : Nat := (secs.filter fun x => decide (x.type.toNat = t)).length
  decide (n 1 = 1 ∧ n 2 = 1 ∧ n 3 = 1 ∧ n 4 = 1 ∧ n 5 ≤ 1 ∧ n 6 = 1 ∧ 1 ≤ n 7 ∧ n 9 = 1 ∧ n 10 = 1 ∧ n 11 ≤ 1 ∧ n 12 ≤ 1) &&
  secs.all fun x => x.optional || (decide (1 ≤ x.type.toNat) && decide (x.type.toNat ≤ 12))

def sizesOk (bs : List Byte) (secs : List ImgSection) : Bool :=
  let l (t : Nat) : Nat := (typeBytes bs secs t).length
  decide (l 2 % 288 = 0 ∧ l 4 % 24 = 0 ∧ l 5 % 4 = 0 ∧ l 6 % 32 = 0 ∧ l 10 = 64 ∧ l 11 % 16 = 0) &&
  (splitBy replicaSize (l 3) (typeBytes bs secs 3)).isSome && (splitBy waveSize (l 12) (typeBytes bs secs 12)).isSome

/-- Step 7 of Table 10.6. -/
def recordsOk (s : State) (bs : List Byte) (g : Image) : Bool :=
  let sec (n : Nat) : List Byte := typeBytes bs g.sections n
  let each {α : Type} (n size : Nat) (parse : List Byte → α) (ok : List Byte → α → Bool) : Bool :=
    (records size (sec n)).all fun e => ok e (parse e)
  sectionCountsOk g.sections && sizesOk bs g.sections &&
  each 2 288 parseGroup (groupOk s (sec 1).length) && g.replicas.all (replicaOk g) && each 4 24 parsePreload (preloadOk g) &&
  g.routes.all (fun r => decide (r.2.2 ≠ r.1) && decide (r.2.2 ≠ r.2.1) && decide (r.1.toNat < 12 ∧ r.2.1.toNat < 12 ∧ r.2.2.toNat < 12)) &&
  (records 4 (sec 5)).all (fun e => decide (fld (wordAt e 0) 12 20 = 0)) && each 6 32 parsePool (poolOk s g) &&
  (templateEntries bs g.sections).all (fun e => templateOk bs g e (parseTemplate (sec 9) g.sections e)) &&
  each 11 16 parseMigration (migrationOk s g) &&
  decide (g.waves.map (·.wave.toNat) = (List.range g.waves.length).map (· + 1)) && g.waves.all (fun w => w.groups.all (groupNumber g)) &&
  distinct (g.groups.map (·.group.toNat)) && distinct (g.templates.map (·.template.toNat)) &&
  distinct (g.replicas.map fun r => 65536 * r.template.toNat + r.replica.toNat) &&
  decide (g.groups.Pairwise fun a b => ¬ (a.coreFirst < b.coreFirst + b.coreCount ∧ b.coreFirst < a.coreFirst + a.coreCount))

/-! Steps 2 to 6 and 8. -/

/-- R476: the keys that a signature may verify with. -/
def imageKeys (s : State) : List (List Byte) :=
  let l := s.sec.slots.toList
  if l.any (·.programmed) then (l.filter fun x => x.programmed && !x.revoked).map (·.key) else [Config.vendorKey]

/-- R477: the IMAGE counter in force. -/
def imgCounter (s : State) : Nat := max s.sec.imgCounter.toNat s.sec.imgFloor

/-- The ranges of a pool. -/
def poolRanges (g : Image) (p : ImgPool) : List (Nat × Nat) :=
  (p.dataBase, p.frames * p.frameBytes) :: if p.kv then [(p.scaleBase, 4096 * p.frames), (descAddr g p 0, 16 * p.frames)] else []

/-- Step 5: the range lies in DRAM, clear of the pools in force and of the running image. -/
def rangeOk5 (s : State) (g : Image) : Bool :=
  (List.range ((g.base % dieBytes + g.range + dieBytes - 1) / dieBytes)).all (fun i => (presentDies s).contains (g.base / dieBytes + i)) &&
  match s.cfg.cur with
  | none => true
  | some o => !overlaps g.base g.range o.base o.range && (o.pools.flatMap (poolRanges o)).all fun p => !overlaps g.base g.range p.1 p.2

/-- The group that holds a core. -/
def groupAt (g : Image) (c : Nat) : Option ImgGroup := g.groups.find? fun x => decide (x.coreFirst ≤ c) && decide (c < x.coreFirst + x.coreCount)

def layoutOf (g : Image) : Nat × List Byte :=
  match g.sections.find? fun t => decide (t.type.toNat = 6) with
  | some t => (t.length, t.digest)
  | none => (0, [])

/-- R341: STATIC content. -/
def staticSame (s : State) (a b : Image) : Bool :=
  (List.range s.hub.coreCount.toNat).all (fun c => decide (((groupAt a c).map (·.compat)).getD false = ((groupAt b c).map (·.compat)).getD false)) &&
  decide (layoutOf a = layoutOf b) && decide (a.pools = b.pools)

/-- The ring ranges and preload destinations of a group. -/
def groupRanges (g : Image) (x : ImgGroup) : List (Nat × Nat) :=
  ((x.rings.filter (·.en)).map fun r => (r.base.toNat, ringBytes r)) ++
    (g.preloads.filter fun p => decide (p.group = x.group)).map fun p => (p.dst, p.length)

/-- R345: on one core, the new group fits beside what the old image holds there. -/
def fitsBeside (old new : Image) (c : Nat) : Bool :=
  match groupAt new c with
  | none => true
  | some x =>
    match groupAt old c with
    | none => decide (x.bankPwr = 0)
    | some y => decide (x.bankPwr &&& y.bankPwr = x.bankPwr) &&
        (groupRanges new x).all fun a => (groupRanges old y).all fun b => !overlaps a.1 a.2 b.1 b.2

def sideBySide (s : State) (old new : Image) : Bool := (List.range s.hub.coreCount.toNat).all (fitsBeside old new)

def blockOf (g : Option Image) (x : Stream) : Nat := ((g.bind fun i => templateIn i x.r.model.toNat).map (·.blockBytes)).getD 0

/-- Step 8 of Table 10.6 (R345). -/
def switchCheck (s : State) (g : Image) : Nat :=
  let live := (s.streams.map (·.2)).filter fun x => decide (x.state ≠ .free)
  let differs := match s.cfg.cur with
    | some o => !staticSame s o g
    | none => false
  if differs then 0x09
  else if live.any fun x => (templateIn g x.r.model.toNat).isNone ||
      (decide (x.r.placement ≠ 0xFFFF) && (replicaIn g x.r.model.toNat x.r.placement.toNat).isNone) then 0x0A
  else if live.any fun x => !x.d.devPlaced && decide (x.r.statePtr ≠ 0) && decide (blockOf s.cfg.cur x < blockOf (some g) x) then 0x0B
  else if g.waves = [] ∧ !sideBySide s (s.cfg.cur.getD Image.init) g then 0x0F
  else 0

/-- Steps 1 to 5 of Table 10.6: the cause, or 0. -/
def headCheck (s : State) (bs : List Byte) (n : Nat) : Nat :=
  if !headerOk bs n then 0x03
  else
    let g := parseImage bs
    let sig := cut bs g.sigOffset 3309
    if !(imageKeys s).any (fun k => Config.mldsaVerify k (bs.take g.sigOffset) sig) then 0x05
    else if g.secVersion.toNat < imgCounter s then 0x06
    else if s.hub.coreCount.toNat < g.minCores ∨ g.spadKib ≠ 128 ∨ !(if s.fixed.variant = 0 then g.on4096 else g.on3072) then 0x07
    else if !rangeOk5 s g then 0x08
    else 0

/-- Steps 6 and 7. -/
def bodyCheck (s : State) (bs : List Byte) (g : Image) : Nat :=
  if !g.sections.all (fun t => decide (Config.shake256 64 (cut bs t.offset t.length) = t.digest)) then 0x04
  else if !recordsOk s bs g then 0x03
  else 0

/-! Full load (R339). -/

/-- No stream but FREE, IDLE or ENDED ones. -/
def streamsQuiet (s : State) : Bool :=
  s.streams.all fun e => match e.2.state with
    | .free | .idle | .ended => true
    | _ => false

/-- R341: the device is running. -/
def deviceRunning (s : State) : Bool :=
  s.cfg.load.isSome || s.cfg.persist || s.streams.any fun e => match e.2.state with
    | .starting | .running | .paused | .ending | .faulted => true
    | _ => false

/-- A group's program, as a bank holds it. -/
def programBytes (s : State) (g : Image) (x : ImgGroup) : Memory :=
  let i := (g.sections.findIdx? fun t => decide (t.type.toNat = 1)).getD 0
  let len := (g.sections.getD i ImgSection.init).length
  memWrite [] 0 (sectionBytes s g i x.program (min 16384 (len - x.program)))

/-- R339: a core as a full load leaves it: registers 0, the program in bank 0, its banks powered up, its preload copies due. -/
def loadedCore (s : State) (g : Image) (x : ImgGroup) (i : Nat) : Core :=
  { Core.init with
    prog0 := programBytes s g x, pwr := x.bankPwr, preloadFrom := some 0
    rings := groupRings x
    group0 := some x.group, groupPos0 := BitVec.ofNat 16 i, compat := x.compat }

def loadCores (g : Image) (s : State) : State :=
  let t := g.groups.foldl (fun (t : Table Core) x => (List.range x.coreCount).foldl (fun t i => tabPut t (x.coreFirst + i) (loadedCore s g x i)) t) []
  { s with cores := t, mesh := [], passed := [], starvedArb := [] }

/-- R343: the POLICY values are written as the host would write them. -/
def applyPolicy (g : Image) (s : State) : State :=
  (List.range 16).foldl (fun s i => thmWrite (4 * i) (nth g.policy i) s) s

/-- R339: every stream entry FREE, with every field at its reset value; telemetry still writes those that became FREE (R321). -/
def freeStreams (s : State) : Table Stream :=
  tabMapD Stream.init (fun _ x => { Stream.init with c.freed := x.c.freed || decide (x.state ≠ .free) }) s.streams

/-- R339: the image is applied, and STATIC registers take effect (R340); it is in force with CFG_EPOCH 1. -/
def applyImage (g : Image) (s : State) : State :=
  let s := clearPools g s
  let s := { s with
    streams := freeStreams s, waitState := [], que.dbIn := [], que.dbOut := []
    cas.xrBase := s.cas.xrBaseNext, cas.xrCount := s.cas.xrCountNext
    mmu.faults := s.mmu.faults.map fun e => (e.1, { e.2 with waiters := [] }) }
  let s := loadCores g s
  let s := applyPolicy g s
  { s with cfg.cur := some g, cfg.staged := none, cfg.old := none, cfg.epoch := 1, cfg.bankOf := 0, cfg.phase := .loaded }

end Sys2Proof.Machine
end

