-- ==== Sys2Proof/Machine/Ports.lean ====
section
/-! DEFINITION. The PORT_ registers (R407-R409), Ethernet framing, and result egress (R420). -/

namespace Sys2Proof.Machine

/-! Counters (Table 13.1). -/

/-- A counter at offset 0xA0 + 4i, saturating. -/
def bumpCtr (p i n : Nat) (s : State) : State := modPort s p fun x => { x with ctr := vmod 0 x.ctr i fun w => satAdd w n }

/-- A 64-bit counter at offset 0x80 + 8i, saturating. -/
def bumpLong (p i n : Nat) (s : State) : State :=
  modPort s p fun x => { x with long := vmod 0 x.long i fun w => BitVec.ofNat 64 (min (w.toNat + n) (2 ^ 64 - 1)) }

def ctrFecCorr : Nat := 14
def ctrFecUncorr : Nat := 15

/-- Table 13.1: the FEC codewords corrected and uncorrectable. -/
def countFec (p : Nat) (e : FecCount) (s : State) : State :=
  bumpCtr p ctrFecUncorr e.failed.toNat (bumpCtr p ctrFecCorr e.corrected.toNat s)

def ctrFcs : Nat := 0
def ctrOversize : Nat := 1
def ctrPause : Nat := 2
def ctrVlan : Nat := 3
def ctrAddr : Nat := 4
def ctrIp : Nat := 5
def ctrProto : Nat := 6
def ctrFormat : Nat := 7
def ctrFlow : Nat := 8
def ctrLate : Nat := 9
def ctrFull : Nat := 10
def ctrGap : Nat := 11
def ctrNd : Nat := 12
def ctrTxDrop : Nat := 13
def ctrLinkDowns : Nat := 16
def ctrCasCrc : Nat := 17
def ctrCasReplay : Nat := 18
def ctrFrag : Nat := 19

def clearPort (p : Port) : Port := { p with long := Port.init.long, ctr := Port.init.ctr }

def portBad (p : Nat) (s : State) : State := modPort s p fun x => { x with badWrite := true }

/-! Mode (R409). -/

/-- LINK_UP falls. -/
def linkFalls (p : Nat) (s : State) : State :=
  let x := getPort s p
  let s := if x.linkUp then bumpCtr p ctrLinkDowns 1 s else s
  modPort { s with cas.peers := vmod 0 s.cas.peers p (· &&& 0x2F) } p fun y => { y with
    linkUp := false, lanes := 0
    link := if x.linkUp ∧ x.active = 2 then { y.link with retraining := some s.clk.time } else y.link }

/-- The port stops at once. -/
def portOff (p : Nat) (s : State) : State := modPort (linkFalls p s) p fun y => { y with mode := 0, active := 0 }

/-- A port begins a mode from OFF; the ports of an absent optical die stay without one. -/
def portBegin (p : Nat) (m : BitVec 2) (s : State) : State :=
  modPort s p fun y => { y with mode := m, active := if y.excluded then 0 else m, link := Link.init }

/-- A write of PORT_CTRL; R469: the MODE of a port of an excluded optical die is not written. -/
def portCtrl (p : Nat) (v : Word) (s : State) : State :=
  let x := getPort s p
  let m : BitVec 2 := BitVec.ofNat 2 (fld v 0 2)
  if (m ≠ x.mode ∧ (x.mode ≠ 0 ∧ m ≠ 0 ∨ x.quiescedMode.isSome ∨ x.excluded)) ∨ m = 3 then portBad p s
  else
    let s := if bit v 2 then modPort s p clearPort else s
    if m = x.mode then s else if m = 0 then portOff p s else portBegin p m s

def execPortModeOff (port : PortId) (ctrl : Word) (s : State) : Out := hostWrite (portCtrl port.toNat ctrl) s

/-- The same register with MODE 1. -/
def execPortModeEthernet (port : PortId) (ctrl : Word) (s : State) : Out := hostWrite (portCtrl port.toNat ctrl) s

/-- The same register with MODE 2. -/
def execPortModeCascade (port : PortId) (ctrl : Word) (s : State) : Out := hostWrite (portCtrl port.toNat ctrl) s

/-- A write of CLR with the mode as it stands. -/
def execPortCounterClear (port : PortId) (s : State) : Out := hostWrite (fun s => modPort s port.toNat clearPort) s

/-! Configuration writes (R409). -/

/-- A field that changes only while ACTIVE is OFF. -/
def whileOff (p : Nat) (f : Port → Port) (s : State) : State :=
  let x := getPort s p
  if x.active ≠ 0 ∧ f x ≠ x then portBad p s else modPort s p f

/-- A PORT_EGR_ field that changes only while EN is 0. -/
def whileNoEgress (p : Nat) (f : Port → Port) (s : State) : State :=
  let x := getPort s p
  if x.egrEn ∧ f x ≠ x then portBad p s else modPort s p f

/-- Word i of a 128-bit address replaced. -/
def setPart (a : BitVec 128) (i : Nat) (v : Word) : BitVec 128 :=
  BitVec.ofNat 128 (leNat (bytesOfWords (setWord (wordsOf 4 (leBytes 16 a.toNat)) i v)))

/-- A 32-bit register of a port, or a 64-bit one (low word `v.truncate 32`). PORT_IPV6 and PORT_EGR_IPV6 change word by word,
with no word held (log entry 99). -/
def portWrite (p off : Nat) (v : DWord) (s : State) : State :=
  let w : Word := v.truncate 32
  if off = 0x00 then portCtrl p w s
  else if off = 0x04 then (if bit w 8 then modPort s p fun x => { x with badWrite := false } else s)
  else if off = 0x08 then whileOff p (fun x => { x with mac := v.truncate 48 }) s
  else if off = 0x10 then whileOff p (fun x => { x with vlan := w.truncate 16 }) s
  else if off = 0x14 then whileOff p (fun x => { x with ipv4 := w }) s
  else if off = 0x18 then whileOff p (fun x => { x with udpDst := w.truncate 16 }) s
  else if 0x20 ≤ off ∧ off < 0x30 then whileOff p (fun x => { x with ipv6 := setPart x.ipv6 ((off - 0x20) / 4) w }) s
  else if off = 0x30 then whileOff p (fun x => { x with flowBase := v.truncate 48 }) s
  else if off = 0x38 then whileOff p (fun x => { x with flowCount := w.truncate 13 }) s
  else if off = 0x3C then
    let x := getPort s p
    if x.egrEn ∧ bit w 1 ≠ x.egrV6 then portBad p s else modPort s p fun x => { x with egrEn := bit w 0, egrV6 := bit w 1 }
  else if off = 0x40 then whileNoEgress p (fun x => { x with egrMac := v.truncate 48 }) s
  else if off = 0x48 then whileNoEgress p (fun x => { x with egrIpv4 := w }) s
  else if off = 0x4C then whileNoEgress p (fun x => { x with egrDst := w.truncate 16, egrSrc := BitVec.ofNat 16 (fld w 16 16) }) s
  else if 0x50 ≤ off ∧ off < 0x60 then whileNoEgress p (fun x => { x with egrIpv6 := setPart x.egrIpv6 ((off - 0x50) / 4) w }) s
  else s

/-! Frames on the wire: addresses and lengths most significant byte first. -/

def beBytes (n v : Nat) : List Byte := (leBytes n v).reverse
def beNat (bs : List Byte) : Nat := leNat bs.reverse
def beAt (bs : List Byte) (off n : Nat) : Nat := beNat (cut bs off n)

/-- The sum of the 16-bit words of a string. -/
def onesSum : List Byte → Nat
  | a :: b :: r => 256 * a.toNat + b.toNat + onesSum r
  | [a] => 256 * a.toNat
  | [] => 0

def fold16 (x : Nat) : Nat := x % 65536 + x / 65536

/-- The Internet checksum of a string: 0 over one that holds its own. -/
def inetSum (bs : List Byte) : Nat := 0xFFFF - fold16 (fold16 (fold16 (onesSum bs)))

/-- The pseudo-header, then the UDP header and payload. -/
def udpSum (v6 : Bool) (src dst udp : List Byte) : Nat :=
  inetSum (src ++ dst ++ (if v6 then beBytes 4 udp.length ++ [0, 0, 0, 17] else [0, 17] ++ beBytes 2 udp.length) ++ udp)

def withFcs (bs : List Byte) : List Byte := bs ++ leBytes 4 (crc32 bs).toNat

/-- The MAC header of a frame that a port sends. -/
def macHeader (x : Port) (dst etherType : Nat) : List Byte :=
  beBytes 6 dst ++ beBytes 6 x.mac.toNat ++ (if bit (x.vlan.zeroExtend 32) 15 then beBytes 2 0x8100 ++ beBytes 2
    (fld (x.vlan.zeroExtend 32) 12 3 * 8192 + fld (x.vlan.zeroExtend 32) 0 12) else []) ++ beBytes 2 etherType

/-- A UDP datagram with its checksum. -/
def udpBytes (v6 : Bool) (src dst : List Byte) (sport dport : Nat) (payload : List Byte) : List Byte :=
  let u (sum : Nat) : List Byte := beBytes 2 sport ++ beBytes 2 dport ++ beBytes 2 (8 + payload.length) ++ beBytes 2 sum ++ payload
  let c := udpSum v6 src dst (u 0)
  u (if c = 0 then 0xFFFF else c)

/-- An IP packet; the fields that the manual does not give (service class, identification, hop limit) take the bits of `free`. -/
def ipBytes (v6 : Bool) (proto free : Nat) (src dst payload : List Byte) : List Byte :=
  if v6 then beBytes 4 (6 * 2 ^ 28 + free % 2 ^ 28) ++ beBytes 2 payload.length ++ beBytes 1 proto ++ beBytes 1 (free / 2 ^ 28) ++ src ++ dst ++ payload
  else
    let h (sum : Nat) : List Byte := [0x45] ++ beBytes 1 free ++ beBytes 2 (20 + payload.length) ++ beBytes 2 (free / 256) ++ [0, 0] ++
      beBytes 1 (free / 2 ^ 24) ++ beBytes 1 proto ++ beBytes 2 sum ++ src ++ dst
    h (inetSum (h 0)) ++ payload

/-- A frame handed to the transmitter. -/
def sendFrame (p : Nat) (frame : List Byte) (s : State) : State :=
  bumpLong p 3 frame.length (bumpLong p 2 1 (modPort s p fun x => { x with tx := x.tx ++ [frame] }))

/-! The flow table (R416). -/

structure Flow where
  stream : Nat
  valid : Bool
  egress : Bool
  deriving DecidableEq, Repr

/-- An entry, read afresh; one that cannot be read or that has a reserved bit set is not valid. -/
def flowAt (s : State) (x : Port) (i : Nat) : Flow :=
  match vclean s (x.flowBase.toNat / 8 * 8 + 8 * i) 8 with
  | some bs =>
    let w := wordAt bs 0
    { stream := fld w 0 12, valid := bit w 16 && decide (fld w 12 4 = 0) && decide (fld w 18 14 = 0) && allZero (bs.drop 4), egress := bit w 17 }
  | none => { stream := 0, valid := false, egress := false }

/-- R403: an optical port is the producer of the stream's input ring. -/
def opticalFed (s : State) (n : Nat) : Bool :=
  s.ports.toList.any fun x => decide (x.mode = 1) && (List.range x.flowCount.toNat).any fun i =>
    let f := flowAt s x i
    f.valid && decide (f.stream = n)

/-! Result egress (R420). -/

/-- Table 13.4. -/
def datagramHeader (flags flow seq frames len : Nat) (time : Nat) (period : Nat) : List Byte :=
  leBytes 4 (0x00015344 + 2 ^ 24 * flags) ++ leBytes 4 flow ++ leBytes 4 seq ++ leBytes 2 frames ++ leBytes 2 len ++ leBytes 8 time ++
    leBytes 4 period ++ leBytes 4 0

def egressFrame (x : Port) (flow chunk time free : Nat) (payload : List Byte) : List Byte :=
  let v6 := x.egrV6
  let src := if v6 then beBytes 16 x.ipv6.toNat else beBytes 4 x.ipv4.toNat
  let dst := if v6 then beBytes 16 x.egrIpv6.toNat else beBytes 4 x.egrIpv4.toNat
  let u := udpBytes v6 src dst x.egrSrc.toNat x.egrDst.toNat (datagramHeader 0 flow chunk 1 payload.length time 0 ++ payload)
  withFcs (macHeader x x.egrMac.toNat (if v6 then 0x86DD else 0x0800) ++ ipBytes v6 17 free src dst u)

def egressOne (p flow chunk time : Nat) (payload : List Byte) (s : State) : State :=
  let x := getPort s p
  let d := draw s
  let f := egressFrame x flow chunk time d.1 payload
  if !x.linkUp || decide (x.active ≠ 1) || decide (9216 < f.length) then bumpCtr p ctrTxDrop 1 s else sendFrame p f d.2

/-- The result of a chunk goes out on every port whose flow table asks for it. -/
def egress (n chunk time : Nat) (payload : List Byte) (s : State) : State :=
  (List.range 16).foldl (fun s p =>
    let x := getPort s p
    if x.egrEn then (List.range x.flowCount.toNat).foldl (fun s i =>
      let f := flowAt s x i
      if f.valid && f.egress && decide (f.stream = n) then egressOne p i chunk time payload s else s) s
    else s) s

/-! The cross-route table (Table 13.9). -/

structure XRoute where
  index : Nat
  group : Nat
  ring : Nat
  member : Nat
  remoteGroup : Nat
  remoteRing : Nat
  credits : Nat
  deriving DecidableEq, Repr

def xRouteOf (i : Nat) (bs : List Byte) : XRoute :=
  { index := i, group := fld (wordAt bs 0) 0 16, ring := fld (wordAt bs 0) 16 4, member := fld (wordAt bs 0) 20 4
    remoteGroup := fld (wordAt bs 1) 0 16, remoteRing := fld (wordAt bs 1) 16 4, credits := fld (wordAt bs 2) 0 12 }

/-- The entries that can be read. -/
def xRoutes (s : State) : List XRoute :=
  (List.range s.cas.xrCount.toNat).filterMap fun i =>
    (vclean s (s.cas.xrBase.toNat / 16 * 16 + 16 * i) 16).map (xRouteOf i)

/-- The routes that drain a group of a stream's placement to another package. -/
def routesOf (s : State) (x : Stream) : List XRoute :=
  match s.cfg.cur.bind fun g => replicaIn g x.r.model.toNat x.d.replica.toNat with
  | none => []
  | some r => (xRoutes s).filter fun e => r.groups.any fun n => decide (n.toNat = e.group)

/-- R170, R428: the stream's placement spans packages. -/
def spansPackages (s : State) (x : Stream) : Bool := decide (routesOf s x ≠ [])

/-- R430: in SAFE every release is held; LOCAL lifts the hold of the streams whose placement lies wholly on the package.
`casHeld` keeps the hold of a stream that a cascade re-formed with other members does not free. -/
def casHolds (s : State) (x : Stream) : Bool :=
  x.d.casHeld || (decide (s.cas.state = 4) && !(s.cas.localOn && !spansPackages s x))

end Sys2Proof.Machine
end

