-- ==== Sys2Proof/Machine/StreamRings.lean ====
section
/-! DEFINITION. Stream rings and frames (R285-R289): descriptors, the reads of both indices, the forming of chunks
(R301), gap runs (R288) and the acceptance of an end (R296). -/

namespace Sys2Proof.Machine

/-! Descriptors (Table 9.3). -/

def ringOfDesc (bs : List Byte) : InRing :=
  { base := dwordAt bs 0, nslots := fld (wordAt bs 2) 0 24, slotBytes := fld (wordAt bs 3) 0 14
    payBase := dwordAt bs 8, paySlot := fld (wordAt bs 10) 0 16 }

/-- The 64 bytes of a descriptor, where they can be read without poison. -/
def readDesc (s : State) (va : Nat) : Option (List Byte) := if va % 64 = 0 then vclean s va 64 else none

def inputSlotBytes (t : ImgTemplate) : Nat := alignUp (16 + t.framePayload) 16

/-- R285, R310: an input ring is valid and large enough. -/
def inRingOk (t : ImgTemplate) (lag : Nat) (r : InRing) : Bool :=
  decide (r.base.toNat % 64 = 0) && decide (2 ≤ r.nslots) && decide (r.slotBytes = inputSlotBytes t) && decide ((lag + 2) * t.f ≤ r.nslots)

/-- R285, R291, R310: and an output ring. -/
def outRingOk (t : ImgTemplate) (lag : Nat) (r : InRing) : Bool :=
  decide (r.base.toNat % 64 = 0) && decide (2 ≤ r.nslots) && decide (r.slotBytes = 64) && decide (r.payBase.toNat % 64 = 0) &&
  decide (r.paySlot % 64 = 0) && decide (lag + 2 ≤ r.nslots) && (decide (t.resultBytes ≤ 32) || decide (t.resultBytes ≤ r.paySlot))

/-- Where a device-virtual range lies: every piece in DRAM, or some piece in host memory. -/
def inDram (s : State) (va n : Nat) : Bool :=
  (piecesOf va n).all fun p => match translate s p.1 true with
    | .ok pl => !pl.1
    | .error _ => false

/-- R403: a ring in DRAM. -/
def ringInDram (s : State) (r : InRing) : Bool := inDram s r.base.toNat (r.nslots * r.slotBytes)

/-- The address of slot i of a ring. -/
def ringSlot (r : InRing) (i : Nat) : Nat := r.base.toNat + i % max 1 r.nslots * r.slotBytes

/-- Free-running indices count modulo 2^64. -/
def idxSub (a b : Nat) : Nat := (a + 2 ^ 64 - b % 2 ^ 64) % 2 ^ 64

/-! Index reads (R286, R289, R403). -/

/-- The physical address of the first poisoned granule of a range in DRAM, or 0. -/
def poisonAddr (s : State) (va n : Nat) : Nat :=
  match (piecesOf va n).findSome? fun p => match translate s p.1 false with
    | .ok (false, a) => ((granulesOf a p.2).find? fun g => s.poison.contains g).map (64 * ·)
    | _ => none with
  | some a => a
  | none => 0

/-- R286: a poisoned index read. -/
def indexPoison (n va : Nat) (s : State) : State :=
  let c := (getStream s n).d.nextChunk
  raiseStream 0x0303 n (evPrefix 9 0xFF c.toNat ++ words64 (poisonAddr s va 8)) { s with mmu.poisonCount := satAdd s.mmu.poisonCount 1 }

/-- The value of an index in memory; a poisoned read is reported, one that does not translate is ignored. -/
def readIndex (n va : Nat) (s : State) : Option Nat × State :=
  match vread s va 8 with
  | .ok (bs, false) => (some (leNat bs), s)
  | .ok (_, true) => (none, indexPoison n va s)
  | .error _ => (none, s)

/-- R286, R403: the output RD_IDX is read and validated. -/
def readOutRd (n : Nat) (s : State) : State :=
  let x := getStream s n
  match readIndex n (x.r.outRing.toNat + 24) s with
  | (none, s) => s
  | (some v, s) =>
    if idxSub v x.d.outRd ≤ idxSub x.d.outWr x.d.outRd then modStream s n fun x => { x with d.outRd := v, d.outBad := false }
    else
      let s := modStream s n fun x => { x with r.cause := 0x16, d.outBad := true }
      if x.d.outBad then s else raiseStream 0x0405 n ([0, 0] ++ words64 v ++ words64 x.d.outWr) s

/-! Frames (Table 9.4). -/

structure Frame where
  seq : Word
  len : Nat
  mark : Bool
  gap : Bool
  last : Bool
  time : DWord
  poison : Bool
  deriving DecidableEq, Repr

/-- The header of the frame at a free-running index; none where it cannot be read. -/
def frameAt (s : State) (x : Stream) (i : Nat) : Option Frame :=
  match vread s (ringSlot x.d.inR i) 16 with
  | .ok (bs, p) =>
    let w := wordAt bs 1
    some { seq := wordAt bs 0, len := fld w 0 16, mark := bit w 16, gap := bit w 17, last := bit w 18, time := dwordAt bs 2, poison := p }
  | .error _ => none

/-- R287: a frame of a wrong length is a bad frame. -/
def badFrame (t : ImgTemplate) (f : Frame) : Bool := decide (f.len ≠ t.framePayload) && !(f.gap && decide (f.len = 0))

def gapFrame (t : ImgTemplate) (f : Frame) : Bool := f.gap || badFrame t f

/-- R288: one frame of a chunk that is being formed joins or ends the open run of gap frames. -/
def noteFrame (n : Nat) (t : ImgTemplate) (num : DWord) (f : Frame) (s : State) : State :=
  let bad := badFrame t f
  if gapFrame t f then
    modStream s n fun x => { x with
      c.gapFrames := if bad then x.c.gapFrames else satAdd x.c.gapFrames 1
      c.badFrames := if bad then satAdd x.c.badFrames 1 else x.c.badFrames
      d.gapFirst := if x.d.gapRun = 0 then f.seq else x.d.gapFirst
      d.gapRun := x.d.gapRun + 1, d.gapChunk := num }
  else closeGap n s

/-! Forming (R301). -/

/-- R289: the time of the first read that showed the frames below an index; an index read is no more than 2^63 from it. -/
def shownAt (x : Stream) (i : Nat) (t : Nat) : Nat :=
  match x.d.wrTimes.find? fun e => decide (idxSub e.1 i < 2 ^ 63) with
  | some e => e.2.toNat
  | none => t

/-- R301, R302: the next `count` frames become a chunk; `least` is the earliest arrival that the end allows (R296). -/
def formChunk (n : Nat) (t : ImgTemplate) (fs : List Frame) (arrival : Nat) (s : State) : State :=
  let x := getStream s n
  let num := x.d.nextChunk
  let fpp := max 1 t.framesPerPos
  let at' (p : Frame → Bool) : List Nat :=
    ((List.range fs.length).filter fun i => p (fs.getD i ⟨0, 0, false, false, false, 0, false⟩)).foldl (fun l i => ins (i / fpp) l) []
  let lastF := fs.getLast?
  let c : Chunk := { Chunk.init with
    num := num, first := x.d.formIdx, frames := fs.length, arrival := BitVec.ofNat 64 arrival
    deadline := BitVec.ofNat 64 (arrival + 1000 * x.r.delayUs.toNat)
    lastSeq := (lastF.map (·.seq)).getD 0, srcTs := (lastF.map (·.time)).getD 0
    gap := fs.any (gapFrame t), marks := at' (·.mark), gapPos := at' (gapFrame t) }
  let s := fs.foldl (fun s f => noteFrame n t num f s) s
  let s := modStream s n fun x => { x with
    d.chunks := x.d.chunks ++ [c], d.nextChunk := num + 1, d.formIdx := (x.d.formIdx + fs.length) % 2 ^ 64 }
  if fs.any (·.poison) then poisonChunk n num 9 0xFF noCore (poisonAddr s (ringSlot x.d.inR x.d.formIdx) (fs.length * x.d.inR.slotBytes)) s else s

/-- The frames from the next to be formed, up to a count; none where one of them cannot be read. -/
def nextFrames (s : State) (x : Stream) (count : Nat) : Option (List Frame) :=
  (List.range count).mapM fun i => frameAt s x ((x.d.formIdx + i) % 2 ^ 64)

/-- R296: the index below which frames are taken. -/
def formLimit (x : Stream) : Nat :=
  match x.d.ending with
  | some b => if (b + 1) % 2 ^ 64 = x.d.formIdx then 0 else if idxSub b x.d.formIdx < idxSub x.d.wrSeen x.d.formIdx then idxSub b x.d.formIdx + 1 else idxSub x.d.wrSeen x.d.formIdx
  | none => idxSub x.d.wrSeen x.d.formIdx

def formChunks : Nat → Nat → ImgTemplate → Nat → State → State
  | 0, _, _, _, s => s
  | f + 1, n, t, time, s =>
    let x := getStream s n
    let left := formLimit x
    if t.f ≤ left ∧ 0 < t.f then
      match nextFrames s x t.f with
      | some fs =>
        formChunks f n t time (formChunk n t fs (shownAt x ((x.d.formIdx + t.f) % 2 ^ 64) time) s)
      | none => s
    else
      match x.d.ending with
      | none => s
      | some b =>
        if left = 0 ∨ idxSub (b + 1) x.d.formIdx ≠ left then s
        else match nextFrames s x left with
          | some fs => formChunk n t fs (max (shownAt x ((x.d.formIdx + left) % 2 ^ 64) time) x.d.endTime.toNat) s
          | none => s

/-- R296: once the bound has been reached, FINAL goes on the last chunk, or a further entry is due. -/
def settleEnd (n : Nat) (s : State) : State :=
  let x := getStream s n
  match x.d.ending with
  | none => s
  | some b =>
    if x.d.formIdx ≠ (b + 1) % 2 ^ 64 then s
    else if x.d.chunks = [] then modStream s n fun x => { x with d.extraFinal := true }
    else modStream s n fun x => { x with d.chunks := x.d.chunks.mapIdx fun i c => if i + 1 = x.d.chunks.length then { c with final := true } else c }

/-- The template that a stream's input is cut with. -/
def inputTemplate (s : State) (x : Stream) : Option ImgTemplate := (imageAt s x.d.epoch).bind fun g => templateIn g x.r.model.toNat

def formInput (n time : Nat) (s : State) : State :=
  let x := getStream s n
  match (inputTemplate s x).orElse fun _ => templateOf s x with
  | none => s
  | some t =>
    let s := formChunks (idxSub x.d.wrSeen x.d.formIdx + 1) n t time s
    let s := modStream s n fun x => { x with d.wrTimes := x.d.wrTimes.filter fun e => decide (0 < idxSub e.1 x.d.formIdx ∧ idxSub e.1 x.d.formIdx < 2 ^ 63) }
    if (getStream s n).d.ending.isSome && decide ((getStream s n).state = .ending) then settleEnd n s else s

/-! The end (R296). -/

/-- The end is accepted with the frame at an index as its bound. -/
def acceptEnd (n bound time : Nat) (s : State) : State :=
  modStream s n fun x => { x with state := .ending, d.ending := some bound, d.endTime := BitVec.ofNat 64 time, d.pausePend := false }

/-- The first frame with END set among the frames lo to lo + count - 1. -/
def endFrame (s : State) (x : Stream) (lo count : Nat) : Option Nat :=
  ((List.range count).find? fun i => ((frameAt s x ((lo + i) % 2 ^ 64)).map (·.last)).getD false).map fun i => (lo + i) % 2 ^ 64

/-! Overwritten input (R286). -/

/-- The chunks formed and not released are not formed after all; the first of their numbers is the faulted chunk's. -/
def overwrittenInput (n time : Nat) (s : State) : State :=
  let x := getStream s n
  let kept := x.d.chunks.filter (·.released)
  let num := match x.d.chunks.find? fun c => !c.released with
    | some c => c.num
    | none => x.d.nextChunk
  let first := match x.d.chunks.find? fun c => !c.released with
    | some c => c.first
    | none => x.d.formIdx
  let c : Chunk := { Chunk.init with
    num := num, first := first, epoch := x.d.epoch, replica := x.d.replica, arrival := BitVec.ofNat 64 time, deadline := BitVec.ofNat 64 (time + 1000 * x.r.delayUs.toNat), faulted := some 0x15 }
  let s := setStream s n { x with
    state := .faulted, r.cause := 0x15
    d.chunks := kept ++ [c], d.nextChunk := num + 1, d.formIdx := first, d.overwritten := true
    d.faultAt := some (x.d.faultAt.getD num) }
  let s := closeGap n s
  let p := draw s
  raiseStream 0x0403 n [0, num.truncate 32, 0, BitVec.ofNat 32 p.1] p.2

/-! Observation (R289). -/

def observes (x : Stream) : Bool :=
  match x.state with
  | .running | .paused | .ending => true
  | _ => false

/-- The input WR_IDX is read, the frames that it shows are observed, and chunks are formed. -/
def observeAt (n time : Nat) (s : State) : State :=
  let x := getStream s n
  match readIndex n (x.r.inRing.toNat + 16) s with
  | (none, s) => s
  | (some wr, s) =>
    if x.d.inR.nslots < idxSub wr x.d.rdIdx then overwrittenInput n time s
    else
      let fresh := idxSub wr x.d.formIdx - idxSub x.d.wrSeen x.d.formIdx
      let old := x.d.wrSeen
      let s := if fresh = 0 then s else modStream s n fun x => { x with
        d.wrSeen := wr, d.wrTimes := x.d.wrTimes ++ [(wr, BitVec.ofNat 64 time)] }
      let s := match (if x.state = .ending then none else endFrame s x old fresh) with
        | some b => acceptEnd n b time s
        | none => s
      formInput n time s

def observe (n : Nat) (s : State) : State := if observes (getStream s n) then observeAt n (now s) s else s

/-- R296: an end command: the bound is the first END frame below WR_IDX, or the last frame below it. -/
def endCommand (n : Nat) (s : State) : State :=
  let s := observeAt n (now s) s
  let x := getStream s n
  if x.state = .ending ∨ x.state = .faulted then s
  else
    let count := idxSub x.d.wrSeen x.d.formIdx
    let bound := (endFrame s x x.d.formIdx count).getD ((x.d.wrSeen + 2 ^ 64 - 1) % 2 ^ 64)
    formInput n (now s) (acceptEnd n bound (now s) s)

end Sys2Proof.Machine
end

