-- ==== Sys2Proof/Machine/StreamTable.lean ====
section
/-! DEFINITION. The stream table (R281-R284): state blocks (R155), the checks of a start (R294), commands by state
(R293), and the ways a stream leaves FAULTED (R300) or becomes FREE (R297). -/

namespace Sys2Proof.Machine

/-! State pools (R155). -/

/-- Address and bytes of every block that the device has allocated. -/
def usedBlocks (s : State) : List (Nat × Nat) :=
  s.streams.flatMap fun e =>
    let x := e.2
    (if x.d.devPlaced ∧ x.r.statePtr ≠ 0 then [(x.r.statePtr.toNat, x.d.blockLen)] else []) ++
    (x.d.movingTo.toList.map fun a => (a.toNat, x.d.blockLen)) ++
    (x.d.newBlock.toList.filter fun a => decide (a ≠ 0)).map fun a =>
      (a.toNat, alignUp (blockOf (if x.d.epoch = s.cfg.epoch then s.cfg.staged.orElse fun _ => s.cfg.cur else s.cfg.cur) x) 4096)

/-- The lowest-addressed run of free frames of a state pool that lies on a die and is long enough. -/
def allocBlock (s : State) (g : Image) (t : ImgTemplate) (die : Nat) : Option Nat :=
  match g.pools.find? fun p => !p.kv && decide (p.index = t.statePool) with
  | none => none
  | some p =>
    let len := alignUp t.blockBytes 4096
    let used := usedBlocks s
    let up (a : Nat) : Nat := p.dataBase + alignUp (a - p.dataBase) 4096
    let starts := up (max p.dataBase (die * dieBytes)) :: used.map fun u => up (u.1 + u.2)
    let ok (a : Nat) : Bool := decide (p.dataBase ≤ a) && decide (a + len ≤ p.dataBase + 4096 * p.frames) &&
      decide (a / dieBytes = die) && decide ((a + len - 1) / dieBytes = die) && used.all fun u => !overlaps a len u.1 u.2
    (starts.filter ok).min?

/-- R155, R162: the device-placed block is freed. -/
def freeBlock (n : Nat) (s : State) : State :=
  modStream s n fun x => if x.d.devPlaced then
    { x with r.statePtr := 0, r.carry := false, d.devPlaced := false, d.movingTo := none, d.moved := [], d.moveAgain := false, d.newBlock := none } else x

/-! RD_IDX (R286). -/

/-- The device advances the input RD_IDX. -/
def setRd (n v : Nat) (s : State) : State :=
  let x := getStream s n
  if 0 < idxSub v x.d.rdIdx ∧ idxSub v x.d.rdIdx < 2 ^ 63 then
    vput (modStream s n fun x => { x with d.rdIdx := v }) (x.r.inRing.toNat + 24) (leBytes 8 v)
  else s

/-- All unconsumed input is discarded. -/
def discardInput (n : Nat) (s : State) : State :=
  let x := getStream s n
  let p := readIndex n (x.r.inRing.toNat + 16) s
  let wr := p.1.getD x.d.wrSeen
  modStream (setRd n wr p.2) n fun x => { x with d.formIdx := wr, d.wrSeen := wr, d.wrTimes := [] }

/-! Leaving FAULTED (R286, R300). -/

/-- R72, R300: what chunks after f added to a stream's formats and re-runs is taken back, the latest first: a discarded
chunk counts as never judged (log entry 47). -/
def undoWide (f : Nat) (d : SteInt) : SteInt :=
  let gone (num : DWord) : Bool := decide (f < num.toNat)
  let d := (d.undoWide.reverse.filter fun e => gone e.2.1).foldl (fun (d : SteInt) (e : Nat × DWord × BitVec 2 × List DWord) => { d with
    formats := if e.2.2.1 = 0 then tabDel d.formats e.1 else tabPut d.formats e.1 e.2.2.1
    reruns := tabPut d.reruns e.1 e.2.2.2 }) d
  { d with
    undoWide := d.undoWide.filter fun e => !gone e.2.1
    reruns := d.reruns.map fun e => (e.1, e.2.filter fun j => !gone j)
    promotions := d.promotions.filter fun e => !gone e.2.1 }

/-- Chunks released after the faulted one are discarded, and RD_IDX passes their frames. -/
def leaveFaulted (n : Nat) (goal : SteState) (s : State) : State :=
  let x := getStream s n
  let after (c : Chunk) : Bool := c.released && decide ((x.d.faultAt.getD 0).toNat < c.num.toNat)
  let gone := x.d.chunks.filter after
  let span := (gone.map (·.frames)).foldl (· + ·) 0
  let posted := !x.d.chunks.any fun c => decide (some c.num = x.d.faultAt)
  let f := (x.d.faultAt.getD x.d.nextChunk).toNat
  let undone := x.d.undoWide.filter fun e => decide (f < e.2.1.toNat)
  let s := { s with thm.calibrate := s.thm.calibrate.filter fun e => !undone.any fun u => decide (e.2.2 = (u.1, n, u.2.1)) }
  let x := { x with d := undoWide f x.d }
  let s := setStream s n { x with
    state := goal
    d.chunks := (x.d.chunks.filter fun c => !after c).map fun c =>
      { c with final := false, skip := if some c.num = x.d.faultAt then span else c.skip }
    d.faultAt := none, d.overwritten := false, d.ending := none, d.extraFinal := false, d.pausePend := false }
  if x.d.overwritten then discardInput n s
  else if posted then setRd n ((x.d.rdIdx + span) % 2 ^ 64) s else s

/-! FREE (R281, R297). -/

/-- The stream's block and pages are freed, its input is discarded, and the entry is FREE. -/
def freeEntry (n : Nat) (s : State) : State :=
  let s := releaseAll n s
  let s := if (getStream s n).d.inR.nslots = 0 then s else discardInput n s
  let s := freeBlock n s
  let x := getStream s n
  let counted := decide (s.cfg.phase = .switch) && !x.d.switched
  let s := setStream s n { x with
    state := .free, r.carry := false, r.lagging := false, r.overrun := false, c.freed := true
    d := { SteInt.init with promotions := x.d.promotions, switched := x.d.switched || counted } }
  if counted then { s with cfg.swDone := s.cfg.swDone + 1 } else s

/-- R283: a FREE entry becomes IDLE: every count and STE_POSITION is 0. -/
def enterIdle (n : Nat) (s : State) : State :=
  modStream s n fun x => { x with
    state := .idle
    r.cause := 0, r.lagging := false, r.overrun := false, r.gap := false, r.carry := false
    r.position := 0, r.lagUs := 0, r.lagMaxUs := 0, r.chunksDone := 0, r.lateCount := 0, r.rerunCount := 0, r.satCount := 0
    c := { SteCounts.init with freed := x.c.freed }
    d := { SteInt.init with promotions := x.d.promotions, switched := decide (s.cfg.phase = .switch), epoch := s.cfg.epoch } }

/-! The start (R294). -/

def expressCount (s : State) : Nat :=
  (s.streams.filter fun e => e.2.d.startExpress && match e.2.state with
    | .starting | .running | .paused | .ending => true
    | _ => false).length

/-- R177, R294: the KV table header of a template with attention layers. -/
def kvHeaderOk (s : State) (g : Image) (t : ImgTemplate) (va : Nat) : Bool :=
  let ls := t.layers.filter fun l => decide (l.kind = 1)
  if ls = [] then decide (va = 0)
  else va ≠ 0 && decide (va % 4096 = 0) &&
    match vclean s va 64 with
    | none => false
    | some bs =>
      let h := kvHeadOf bs
      kvHeadOk bs && decide (h.layers = ls.length) && ls.all (fun l => decide (l.kvHeads.toNat = h.heads) && decide (l.kvFmt = h.i8)) &&
        g.pools.any fun p => p.kv && decide (p.index.toNat = h.pool)

/-- R294: the cause of the first check that fails, or 0, with both rings as read. -/
def startChecks (s : State) (n : Nat) (x : Stream) : Nat × Option (List Byte × List Byte) :=
  let p := x.r.periodUs.toNat
  let dl := x.r.delayUs.toNat
  if p < 250 ∨ 40000 < p ∨ p % 125 ≠ 0 ∨ dl < 125 ∨ 2 * p < dl then (4, none)
  else match s.cfg.cur, templateOf s x with
    | some g, some t =>
      if (x.r.placement ≠ 0xFFFF ∧ (replicaIn g x.r.model.toNat x.r.placement.toNat).isNone) ∨ 3 < x.r.dclass.toNat ∨
          !kvHeaderOk s g t x.r.kvTable.toNat ∨ x.r.statePtr.toNat % 4096 ≠ 0 ∨ (x.r.cont ∧ x.r.statePtr = 0 ∧ !x.r.carry) then (5, none)
      else
        let lag := (vget 8 s.thm.lagLimit x.r.dclass.toNat).toNat
        match readDesc s x.r.inRing.toNat, readDesc s x.r.outRing.toNat with
        | some bi, some bo =>
          let ri := ringOfDesc bi
          if !inRingOk t lag ri ∨ !outRingOk t lag (ringOfDesc bo) ∨ (opticalFed s n ∧ !ringInDram s ri) then (3, none)
          else if x.r.express ∧ (!t.expressCap ∨ 500 < dl ∨ s.thm.expressMax.toNat < expressCount s + 1) then (2, none)
          else (0, some (bi, bo))
        | _, _ => (3, none)
    | _, _ => (5, none)

/-- A refused start. -/
def refuseStart (n cause : Nat) (s : State) : State :=
  raiseStream 0x0404 n [0, 0, BitVec.ofNat 32 cause] (modStream s n fun x => { x with r.cause := BitVec.ofNat 8 cause })

/-- CMD start: the checks, then STARTING. -/
def startStream (n : Nat) (s : State) : State :=
  let x := getStream s n
  match startChecks s n x with
  | (0, some (bi, bo)) =>
    let rd := natAt bi 24 8
    setStream s n { x with
      state := .starting, r.overrun := false
      d := { x.d with
        inR := ringOfDesc bi, outR := ringOfDesc bo, rdIdx := rd, wrSeen := rd, wrTimes := [], formIdx := rd
        outWr := natAt bo 16 8, outRd := natAt bo 24 8, outBad := false
        chunks := [], lastRelease := none, lastLateNs := 0, lastPosted := 0
        pausePend := false, abortPend := false, ending := none, extraFinal := false, faultAt := none, overwritten := false
        fromEnded := decide (x.state = .ended), firstAfterStart := true, continueStart := x.r.carry || x.r.cont
        startExpress := x.r.express, startClass := BitVec.ofNat 2 x.r.dclass.toNat
        lagLimit := (vget 8 s.thm.lagLimit x.r.dclass.toNat).toNat, lagRaised := false, gapRun := 0, seqE := none } }
  | (cause, _) => refuseStart n cause s

/-! Commands by state (Table 9.6). -/

/-- The commands that a state accepts: start 1, pause 2, resume 3, end 4, abort 5. -/
def cmdAccepted (st : SteState) (cmd : Nat) (reset : Bool) : Bool :=
  if cmd = 0 then true
  else match st with
    | .free => false
    | .idle => decide (cmd = 1 ∨ cmd = 5)
    | .starting => decide (cmd = 5)
    | .running => decide (cmd = 2 ∨ cmd = 3 ∨ cmd = 4 ∨ cmd = 5)
    | .paused => decide (cmd = 2 ∨ cmd = 3 ∨ cmd = 4 ∨ cmd = 5)
    | .ending => decide (cmd = 4 ∨ cmd = 5)
    | .ended => decide (cmd = 1 ∨ cmd = 5)
    | .faulted => decide (cmd = 2 ∨ cmd = 5) || (decide (cmd = 3) && reset)

/-- R295: a pending pause takes hold once no chunk is in flight. -/
def settlePause (n : Nat) (s : State) : State :=
  let x := getStream s n
  if x.d.pausePend && !inFlight x then
    match x.state with
    | .running => modStream s n fun x => { x with state := .paused, d.pausePend := false }
    | .faulted => leaveFaulted n .paused s
    | _ => s
  else s

/-- R297: and a pending abort. -/
def settleAbort (n : Nat) (s : State) : State :=
  let x := getStream s n
  if x.d.abortPend && !inFlight x then freeEntry n s else s

/-- The entry to RUNNING reads the input WR_IDX (R289). -/
def enterRunning (n : Nat) (s : State) : State :=
  observeAt n (now s) (modStream s n fun x => { x with state := .running })

/-- A command that the state accepts. -/
def runCmd (n cmd : Nat) (s : State) : State :=
  let x := getStream s n
  if cmd = 1 then startStream n s
  else if x.d.abortPend then s
  else if cmd = 2 then
    if x.state = .paused then s else settlePause n (modStream s n fun x => { x with d.pausePend := true })
  else if cmd = 3 then
    match x.state with
    | .running => modStream s n fun x => { x with d.pausePend := false }
    | .paused => enterRunning n s
    | .faulted => enterRunning n (leaveFaulted n .faulted s)
    | _ => s
  else if cmd = 4 then (if x.state = .ending then s else endCommand n s)
  else if cmd = 5 then
    match x.state with
    | .running | .ending | .faulted => settleAbort n (modStream s n fun x => { x with d.abortPend := true })
    | _ => freeEntry n s
  else s

/-! Writes of the table (R282, R283, R293, R342). -/

def quietState (st : SteState) : Bool :=
  match st with
  | .free | .idle | .ended => true
  | _ => false

def steBase (n : Nat) : Nat := 0x100000 + 0x100 * n

def steReject (n off : Nat) (s : State) : State := cfgReject 0x0D (steBase n + off) (BitVec.ofNat 16 n) s

/-- A write of STE_CTRL: rejected whole, or its fields and then its command. A change of state waits while a command
that names the stream is in progress (R390). -/
def steCtrl (n : Nat) (v : Word) (s : State) : State :=
  let x := getStream s n
  let changes := decide (bit v 4 ≠ x.r.express) || decide (fld v 8 8 ≠ x.r.dclass.toNat) || decide (fld v 16 16 ≠ x.r.ownerTag.toNat)
  let cmd := fld v 0 3
  if (changes && !quietState x.state) || !cmdAccepted x.state cmd (bit v 3) then steReject n 0 s
  else
    let s := setStream s n { x with
      r.reset := x.r.reset || bit v 3, r.express := bit v 4, r.keepState := bit v 5, r.adaptEn := bit v 6, r.cont := bit v 7
      r.dclass := BitVec.ofNat 8 (fld v 8 8), r.ownerTag := BitVec.ofNat 16 (fld v 16 16) }
    if cmd = 0 then s
    else if (cmd = 2 ∨ cmd = 4 ∨ cmd = 5) ∧ streamBusy s n then { s with waitState := s.waitState ++ [(BitVec.ofNat 12 n, v)] }
    else runCmd n cmd s

/-- A field that changes only while the stream is FREE, IDLE or ENDED. -/
def steField (n off : Nat) (f : SteRegs → SteRegs) (s : State) : State :=
  let x := getStream s n
  if f x.r = x.r then s
  else if quietState x.state then setStream s n { x with r := f x.r } else steReject n off s

/-- R283: STE_GROUP. -/
def steGroup (n : Nat) (v : Word) (s : State) : State :=
  let x := getStream s n
  let put (r : SteRegs) : SteRegs := { r with placement := BitVec.ofNat 16 (fld v 0 16), model := BitVec.ofNat 16 (fld v 16 16) }
  if x.state = .free then
    let ok := match s.cfg.cur with
      | none => false
      | some g => (templateIn g (fld v 16 16)).isSome && (decide (fld v 0 16 = 0xFFFF) || (replicaIn g (fld v 16 16) (fld v 0 16)).isSome)
    if ok then enterIdle n (modStream s n fun x => { x with r := put x.r }) else steReject n 8 s
  else steField n 8 put s

/-- R340, R342: a write of STE_PARAM; the values before it are kept for a release at the same device time. -/
def steParam (n i : Nat) (v : Word) (s : State) : State :=
  modStream s n fun x => { x with
    r.param := vset x.r.param i v, r.paramPending := true
    d.paramOld := if x.d.paramAt = some s.clk.time then x.d.paramOld else x.r.param
    d.paramAt := some s.clk.time
    d.paramMark := some (((x.d.chunks.find? fun c => !c.released).map (·.num)).getD x.d.nextChunk) }

/-- R342: the STE_PARAM values that a release now takes: those from before a write at the same device time. -/
def paramsNow (s : State) (x : Stream) : Vector Word 32 := if x.d.paramAt = some s.clk.time then x.d.paramOld else x.r.param

/-- Table 9.1: a register of an entry, 64-bit registers whole. -/
def steWrite (n off : Nat) (v : DWord) (s : State) : State :=
  let w : Word := v.truncate 32
  let x := getStream s n
  if off = 0x00 then steCtrl n w s
  else if off = 0x08 then steGroup n w s
  else if off = 0x0C then steField n off (fun r => { r with periodUs := w }) s
  else if off = 0x10 then steField n off (fun r => { r with delayUs := w }) s
  else if off = 0x18 then
    if v ≠ x.r.statePtr ∧ x.d.devPlaced then steReject n off s else steField n off (fun r => { r with statePtr := v }) s
  else if off = 0x20 then modStream s n fun x => { x with r.initPtr := v }
  else if off = 0x28 then steField n off (fun r => { r with kvTable := v }) s
  else if off = 0x30 then steField n off (fun r => { r with inRing := v }) s
  else if off = 0x38 then steField n off (fun r => { r with outRing := v }) s
  else if 0x80 ≤ off ∧ off % 4 = 0 then steParam n ((off - 0x80) / 4) w s
  else s

/-! Doorbells (R403). -/

/-- A doorbell for a stream that observes its rings; one already pending takes the new one in. -/
def streamDb (n : Nat) (inp out : Bool) (s : State) : State :=
  if !observes (getStream s n) then s
  else { s with que.dbIn := if inp then ins n s.que.dbIn else s.que.dbIn, que.dbOut := if out then ins n s.que.dbOut else s.que.dbOut }

end Sys2Proof.Machine
end

