-- ==== Sys2Proof/Machine/Admission.lean ====
section
/-! DEFINITION. Admission (R313-R315): the load that streams and adaptation jobs put on a replica, the checks of R314,
the choice of a replica, and the entry of an admitted stream into RUNNING. -/

namespace Sys2Proof.Machine

/-- What admission counts of a stream or an adaptation job. Times in ns, sizes in bytes a chunk. -/
structure Job where
  model : Nat
  replica : Nat
  period : Nat
  delay : Nat
  delta : Nat
  link : Nat
  die : Option Nat
  dram : Nat
  declared : Bool
  deriving DecidableEq, Repr

/-! Figures (R313). -/

def declW (g : Image) (model : Nat) : Nat := ((templateIn g model).map (·.wDeclNs)).getD 0

/-- W_T,g: as measured over the last complete window, or as the image declares it. -/
def wNs (s : State) (g : Image) (j : Job) (pos : Nat) : Nat :=
  if j.declared then declW g j.model
  else ((s.thm.wMeas.find? fun e => decide (e.1.toNat = j.model) && decide (e.2.1 = pos)).map (·.2.2)).getD (declW g j.model)

/-- L_T. -/
def lNs (s : State) (g : Image) (declared : Bool) (model : Nat) : Nat :=
  let d := ((templateIn g model).map (·.lDeclUs)).getD 0 * 1000
  if declared then d else ((s.thm.lMeas.find? fun e => decide (e.1.toNat = model)).map (·.2)).getD d

/-- Bytes of a ring's traffic that cross the host link. -/
def ringLink (s : State) (r : InRing) (n : Nat) : Nat := if r.nslots = 0 ∨ ringInDram s r then 0 else n

/-- R199: evicted pages that a stream's context holds. -/
def evictedPages (s : State) (x : Stream) : Nat :=
  match (if x.d.kvPages then readHead s x.r.kvTable.toNat else none) with
  | none => 0
  | some h =>
    match kvPool s h.pool with
    | none => 0
    | some (g, p) =>
      let t := x.r.kvTable.toNat
      ((List.range h.layers).flatMap fun a => (List.range h.heads).flatMap fun hd =>
        (livePages s x t h a hd).filter fun e => (descOf s g p e.2).host).length

/-- The die that holds a stream's state, or none where it lies in host memory. -/
def stateDie (s : State) (x : Stream) (repDie : Nat) : Option Nat :=
  if x.r.statePtr = 0 then some repDie
  else match translate s x.r.statePtr.toNat false with
    | .ok (false, a) => some (a / dieBytes)
    | _ => none

/-- H_s: frames, results, host-placed state, and reads of evicted pages, in bytes a chunk. -/
def linkBytes (s : State) (x : Stream) (t : ImgTemplate) (inHost : Bool) : Nat :=
  ringLink s x.d.inR (t.f * x.d.inR.slotBytes) + ringLink s x.d.outR (64 + if 32 < t.resultBytes then t.resultBytes else 0) +
    (if inHost then 2 * t.blockBytes else 0) + 69632 * evictedPages s x

def repDie (g : Image) (model r : Nat) : Nat := ((replicaIn g model r).map (·.die.toNat)).getD 0

/-- A stream as a job on a replica of an image. -/
def jobOf (s : State) (g : Image) (x : Stream) (replica : Nat) (declared : Bool) : Option Job :=
  (templateIn g x.r.model.toNat).map fun t =>
    let die := stateDie s x (repDie g x.r.model.toNat replica)
    { model := x.r.model.toNat, replica := replica, period := 1000 * x.r.periodUs.toNat, delay := 1000 * x.r.delayUs.toNat
      delta := x.d.deltaNs.getD x.d.predicted, link := linkBytes s x t die.isNone, die := die
      dram := if die.isSome then 2 * t.blockBytes else 0, declared := declared }

def isAdmitted (x : Stream) : Bool :=
  match x.state with
  | .running | .paused | .ending | .faulted => true
  | _ => false

/-- R401: the descriptor of an adaptation job, as read at its start, stands behind the sixteen words of its command. -/
def jobWord (l : LongCmd) (i : Nat) : Word := cmdW l.cmd (16 + i)

/-- R401: a job is admitted as a stream of period BUDGET_US with the template's declared W. -/
def adaptJob (s : State) (l : LongCmd) : Job :=
  let x := getStream s (cmdStream l.cmd)
  let b := 1000 * (jobWord l 13).toNat
  { model := x.r.model.toNat, replica := x.d.replica.toNat, period := b, delay := b, delta := l.count2, link := 0, die := none, dram := 0, declared := true }

/-- All that is admitted under the current image. -/
def admittedJobs (s : State) (g : Image) : List Job :=
  ((s.streams.filter fun e => isAdmitted e.2).filterMap fun e => jobOf s g e.2 e.2.d.replica.toNat false) ++
    (s.long.filter fun l => decide (cmdOp l.cmd = 0x30)).map (adaptJob s)

/-! Utilisation (R314). -/

def ratSum (l : List Rat) : Rat := l.foldl (· + ·) 0
def ratMax (l : List Rat) : Rat := l.foldl (fun m x => if m < x then x else m) 0

def onReplica (jobs : List Job) (model r : Nat) : List Job := jobs.filter fun j => decide (j.model = model) && decide (j.replica = r)

/-- U of a replica: the largest U_g. -/
def replicaU (s : State) (g : Image) (jobs : List Job) (model r : Nat) : Rat :=
  let n := ((replicaIn g model r).map (·.groups.length)).getD 0
  let js := onReplica jobs model r
  ratMax ((List.range n).map fun pos => ratSum (js.map fun j => (wNs s g j pos : Rat) / (max 1 j.period : Nat)))

/-- Bytes a second of a list of jobs. -/
def rateOf (f : Job → Nat) (jobs : List Job) : Rat := ratSum (jobs.map fun j => (f j : Rat) * 1000000000 / (max 1 j.period : Nat))

/-- Checks 1 to 5 of R314, with U′ where they pass. Check 5 counts the streams whose state lies on the replica's die, and
the stream itself. -/
def admits (s : State) (g : Image) (jobs : List Job) (n : Job) : Option Rat :=
  let u := replicaU s g jobs n.model n.replica
  let u' := replicaU s g (jobs ++ [n]) n.model n.replica
  let guard : Rat := (s.thm.guard.toNat : Rat) / 100
  let ceil : Rat := (s.thm.utilMax.toNat : Rat) / 100
  let l : Rat := lNs s g n.declared n.model
  let die := repDie g n.model n.replica
  if u' ≤ ceil ∧
      ((onReplica jobs n.model n.replica).all fun j => decide ((j.delta : Rat) * (1 - u) ≤ guard * j.delay * (1 - u'))) ∧
      l ≤ guard * n.delay * (1 - u') ∧
      rateOf (·.link) (jobs ++ [n]) ≤ (s.thm.linkMax.toNat : Rat) / 100 * 7880000000 ∧
      rateOf (·.dram) ((jobs.filter fun j => decide (j.die = some die)) ++ [n]) ≤ ceil * 8190000000000
  then some u' else none

/-- The delay that admission predicts, in ns. -/
def predictNs (s : State) (g : Image) (declared : Bool) (model : Nat) (u' : Rat) : Nat := ((lNs s g declared model : Rat) / (1 - u')).floor.toNat

/-! The choice (R315). -/

/-- Place of a die in the thermal ranking; an unranked die comes last. -/
def coolRank (s : State) (die : Nat) : Nat := if s.thm.coolPlace then s.thm.dieRank.findIdx (· = die) else 0

/-- Whether the first of two candidates is tried before the second: U′, cooler die, replica number. -/
def tryBefore (a b : Rat × Nat × Nat) : Bool :=
  decide (a.1 < b.1) || (decide (a.1 = b.1) && (decide (a.2.1 < b.2.1) || (decide (a.2.1 = b.2.1) && decide (a.2.2 < b.2.2))))

def insertTry (x : Rat × Nat × Nat) : List (Rat × Nat × Nat) → List (Rat × Nat × Nat)
  | [] => [x]
  | y :: r => if tryBefore x y then x :: y :: r else y :: insertTry x r

/-- The replicas that an image offers a stream, in the order in which they are tried. `thermal`: ties go to the cooler die. -/
def tryOrder (s : State) (g : Image) (jobs : List Job) (x : Stream) (declared thermal : Bool) : List Nat :=
  if x.r.placement ≠ 0xFFFF then [x.r.placement.toNat]
  else
    let reps := g.replicas.filter fun r => decide (r.template = x.r.model)
    let keyed := reps.filterMap fun r => (jobOf s g x r.replica.toNat declared).map fun j =>
      (replicaU s g (jobs ++ [j]) j.model j.replica, (if thermal then coolRank s r.die.toNat else 0), r.replica.toNat)
    (keyed.foldl (fun l k => insertTry k l) []).map (·.2.2)

/-- R155: the stream is to be device-placed and needs a block of its own. -/
def needsBlock (x : Stream) (t : ImgTemplate) : Bool := decide (x.r.statePtr = 0) && decide (0 < t.blockBytes)

/-- The first replica that admits a stream, with U′. `start`: the stream is in STARTING, and check 7 applies. -/
def chooseReplica (s : State) (g : Image) (jobs : List Job) (x : Stream) (declared start : Bool) : Option (Nat × Rat) :=
  (tryOrder s g jobs x declared start).findSome? fun r =>
    match jobOf s g x r declared, templateIn g x.r.model.toNat with
    | some j, some t =>
      if (replicaIn g j.model r).isSome && (!start || !needsBlock x t || (allocBlock s g t (repDie g j.model r)).isSome) then
        (admits s g jobs j).map fun u => (r, u)
      else none
    | _, _ => none

/-! The entry of an admitted stream (R155, R294). -/

/-- The device allocates a stream's block on a die. -/
def placeBlock (n : Nat) (g : Image) (t : ImgTemplate) (die : Nat) (s : State) : State :=
  match allocBlock s g t die with
  | some a => modStream s n fun x => { x with r.statePtr := BitVec.ofNat 64 a, d.devPlaced := true, d.blockLen := alignUp t.blockBytes 4096 }
  | none => s

/-- R167, R169: the block that the device placed moves to a die, section by section, where the pool has room; while it
still moves elsewhere, it follows afterwards. -/
def beginMove (n : Nat) (g : Image) (t : ImgTemplate) (die : Nat) (s : State) : State :=
  let x := getStream s n
  if x.d.movingTo.isSome then modStream s n fun x => { x with d.moveAgain := true }
  else if x.d.devPlaced ∧ x.r.statePtr ≠ 0 ∧ x.r.statePtr.toNat / dieBytes ≠ die then
    match allocBlock s g t die with
    | some a => settleMove n (modStream s n fun x => { x with d.movingTo := some (BitVec.ofNat 64 a), d.moved := [] })
    | none => s
  else s

/-- The admitted stream enters RUNNING on its replica. -/
def admitStream (n : Nat) (g : Image) (r : Nat) (u : Rat) (s : State) : State :=
  let x := getStream s n
  match templateIn g x.r.model.toNat with
  | none => s
  | some t =>
    let die := repDie g x.r.model.toNat r
    let s := modStream s n fun x => { x with
      d.replica := BitVec.ofNat 16 r, d.predicted := predictNs s g false x.r.model.toNat u, d.deltaNs := none, d.deltaCur := none
      d.epoch := s.cfg.epoch }
    let s := if needsBlock x t then placeBlock n g t die s else beginMove n g t die s
    enterRunning n (if x.d.kvStaged = [] then s else placeStaged n g t r s)

/-- A start that admission refuses returns the stream to the state it started from; in IDLE its promotions end (R73). -/
def refuseAdmission (n cause : Nat) (s : State) : State :=
  refuseStart n cause (modStream s n fun x =>
    if x.d.fromEnded then { x with state := .ended }
    else { x with state := .idle, d.formats := [], d.reruns := [], d.undoWide := [] })

/-- R311: the express limit as it stands at the decision. -/
def expressOk (s : State) (x : Stream) : Bool := !x.d.startExpress || decide (expressCount s ≤ s.thm.expressMax.toNat)

/-- One stream in STARTING is admitted or refused. -/
def admitOne (g : Image) (s : State) (n : Nat) : State :=
  let x := getStream s n
  if x.state ≠ .starting then s
  else if !expressOk s x then refuseAdmission n 2 s
  else match chooseReplica s g (admittedJobs s g) x false true with
    | some (r, u) => admitStream n g r u s
    | none => refuseAdmission n 1 s

/-- R314: the streams in STARTING, in ascending entry order. -/
def admitStarting (s : State) : State :=
  match s.cfg.cur with
  | none => s
  | some g => ((s.streams.filter fun e => decide (e.2.state = .starting)).map (·.1)).foldl (admitOne g) s

/-- THM_STATUS.UTIL. -/
def utilPercent (s : State) : Nat :=
  match s.cfg.cur with
  | none => 0
  | some g =>
    let jobs := admittedJobs s g
    min 255 ((ratMax (g.replicas.map fun r => replicaU s g jobs r.template.toNat r.replica.toNat)) * 100).floor.toNat

/-! Rebalancing (R316). -/

/-- Σ_g W of a stream on its replica. -/
def totalW (s : State) (g : Image) (j : Job) : Nat :=
  ((List.range (((replicaIn g j.model j.replica).map (·.groups.length)).getD 0)).map (wNs s g j)).foldl (· + ·) 0

/-- The replica of highest, or lowest, U; ties go to the lower number. -/
def extremeReplica (highest : Bool) (l : List (Nat × Rat)) : Option (Nat × Rat) :=
  l.foldl (fun m e => match m with
    | none => some e
    | some b => if (if highest then decide (b.2 < e.2) else decide (e.2 < b.2)) || (decide (b.2 = e.2) && decide (e.1 < b.1)) then some e else some b) none

/-- The unpinned stream of largest Σ_g W on a replica, the lowest entry among equals. -/
def heaviest (s : State) (g : Image) (model r : Nat) : Option Nat :=
  let l := s.streams.filterMap fun e =>
    if isAdmitted e.2 && decide (e.2.r.model.toNat = model) && decide (e.2.d.replica.toNat = r) && decide (e.2.r.placement = 0xFFFF) then
      (jobOf s g e.2 r false).map fun j => (e.1, totalW s g j)
    else none
  (l.foldl (fun (m : Option (Nat × Nat)) e => match m with
    | none => some e
    | some b => if b.2 < e.2 then some e else some b) none).map (·.1)

/-- One move between the replicas of a model, where R316 asks for it and the lowest replica would admit the stream. -/
def moveOne (g : Image) (model : Nat) (s : State) : Option State :=
  let jobs := admittedJobs s g
  let us := (g.replicas.filter fun r => decide (r.template.toNat = model)).map fun r => (r.replica.toNat, replicaU s g jobs model r.replica.toNat)
  match extremeReplica true us, extremeReplica false us with
  | some hi, some lo =>
    if hi.2 - lo.2 ≤ (s.thm.hyst.toNat : Rat) / 100 then none
    else
      (heaviest s g model hi.1).bind fun n =>
        let x := getStream s n
        match jobOf s g x lo.1 false, templateIn g model with
        | some j, some t =>
          let others := ((s.streams.filter fun e => isAdmitted e.2 && decide (e.1 ≠ n)).filterMap fun e => jobOf s g e.2 e.2.d.replica.toNat false) ++
            (s.long.filter fun l => decide (cmdOp l.cmd = 0x30)).map (adaptJob s)
          if (admits s g others j).isSome then
            some (beginMove n g t (repDie g model lo.1) (modStream s n fun x => { x with d.replica := BitVec.ofNat 16 lo.1 }))
          else none
        | _, _ => none
  | _, _ => none

def rebalanceModel : Nat → Image → Nat → State → Nat × State
  | 0, _, _, s => (0, s)
  | f + 1, g, m, s => match moveOne g m s with
    | some s' => rebalanceModel f g m s'
    | none => (f + 1, s)

/-- R167: blocks whose streams changed their replica again follow once their moves have ended. -/
def followMoves (s : State) : State :=
  let ns := (s.streams.filter fun e => e.2.d.moveAgain && e.2.d.movingTo.isNone).map (·.1)
  ns.foldl (fun s n =>
    let s := modStream s n fun x => { x with d.moveAgain := false }
    let x := getStream s n
    match s.cfg.cur.bind fun g => (templateIn g x.r.model.toNat).map fun t => (g, t) with
    | some (g, t) => if isAdmitted x then beginMove n g t (repDie g x.r.model.toNat x.d.replica.toNat) s else s
    | none => s) s

/-- R316: at most MAX_MOVES moves in the whole package. -/
def rebalance (s : State) : State :=
  let s := followMoves s
  match (if s.thm.rebalEn then s.cfg.cur else none) with
  | none => s
  | some g => (g.templates.foldl (fun (a : Nat × State) t => rebalanceModel a.1 g t.template.toNat a.2) (s.thm.maxMoves.toNat, s)).2

end Sys2Proof.Machine
end

