-- ==== Sys2Proof/Machine/Switch.lean ====
section
/-! DEFINITION. The epoch switch (R344-R355): Prepare, the switch of each stream and the state that it carries (R171,
R197, R335, R349), waves, the commit point and the rollback. -/

namespace Sys2Proof.Machine

/-! Program banks and cores (R245, R329, R346). -/

def otherBank (b : BitVec 1) : BitVec 1 := b ^^^ 1

def setProg (b : BitVec 1) (m : Memory) (k : Core) : Core := if b = 0 then { k with prog0 := m } else { k with prog1 := m }

def setGroup (b : BitVec 1) (g : Option Half) (pos : Nat) (k : Core) : Core :=
  if b = 0 then { k with group0 := g, groupPos0 := BitVec.ofNat 16 pos } else { k with group1 := g, groupPos1 := BitVec.ofNat 16 pos }

/-- The core has done with every token of the bank that is to be spare. -/
def sparesFree (s : State) : Bool := s.cores.all fun e => oldGone s e.2

/-- A core, or a context of it, that still waits in a retired bank goes on at word 0 of the current one. -/
def settleBank (s : State) (k : Core) : Core :=
  let b := s.cfg.bankOf
  let k := if k.bank = b then k else setPc { k with bank := b } 0
  let k := if (otherCtx k).bank = b then k else setOtherCtx k { otherCtx k with bank := b, pc := 0 }
  leaveOld s k

/-- The rings of the new image that the old one leaves unused. -/
def besideRings (x : ImgGroup) (k : Core) : Vector Ring 16 :=
  Vector.ofFn fun (i : Fin 16) => if (getRing k i.val).en then getRing k i.val else x.rings.getD i.val Ring.init

def waveHolds (g : Image) (c : Nat) : Bool :=
  g.waves.any fun w => w.groups.any fun n => ((groupIn g n.toNat).map fun x => decide (x.coreFirst ≤ c) && decide (c < x.coreFirst + x.coreCount)).getD false

/-- R346: the new image's program goes to the spare bank of a core; outside the waves its banks, rings and preloads follow. -/
def stageCore (g : Image) (x : ImgGroup) (s : State) (i : Nat) : State :=
  let c := x.coreFirst + i
  let b := otherBank s.cfg.bankOf
  let s := modCore s c fun k =>
    let k := { setGroup b (some x.group) i (setProg b (programBytes s g x) k) with otherLoaded := true, leaving := true }
    if waveHolds g c then k else { k with pwr := k.pwr ||| x.bankPwr, preloadFrom := some b, rings := besideRings x k }
  preloadIfReady c s

/-- R346: the beginning of Prepare. -/
def beginPrepare (g : Image) (s : State) : State :=
  let s := mapCores (fun _ k => setGroup (otherBank s.cfg.bankOf) none 0 (settleBank s k)) s
  g.groups.foldl (fun s x => (List.range x.coreCount).foldl (stageCore g x) s) { s with cfg.phase := .prepare, cfg.pct := 0 }

/-- A core leaves one image for another: the banks of the group, its rings, its program and its preload copies. -/
def moveCore (g : Image) (b : BitVec 1) (s : State) (c : Nat) : State :=
  match groupAt g c with
  | none => setCore s c Core.init
  | some x =>
    let s := modCore s c fun k =>
      { k with bank := b, otherLoaded := false, leaving := false, ctx0 := { k.ctx0 with pc := 0, bank := b }, ctx1 := { k.ctx1 with pc := 0, bank := b }
               rings := groupRings x, pwr := x.bankPwr, usable := k.usable &&& x.bankPwr, zeroing := k.zeroing &&& x.bankPwr, preloadFrom := some b }
    preloadIfReady c s

/-- CFG_PROGRESS.PCT in Prepare: the percentage of the new image's cores that are prepared. -/
def preparedPct (s : State) : Nat :=
  match s.cfg.staged with
  | none => 0
  | some g =>
    let cs := g.groups.flatMap groupCores
    if cs = [] then 100 else 100 * (cs.filter fun c => banksReady (getCore s c)).length / cs.length

/-! The state carried forward (R171, R197, R335, R349). -/

/-- R335 RESIZE: pairs within both sizes are copied, every other pair is (+0, +0). -/
def resizeSection (old new : ImgState) (bs : List Byte) : List Byte :=
  (List.range new.d).flatMap fun d => (List.range new.n).flatMap fun n =>
    if d < old.d ∧ n < old.n then padTo 8 (cut bs (8 * (d * old.n + n)) 8) else List.replicate 8 0

/-- The sections that a switch of one stream writes: address, bytes, poison. -/
def carryMoves (s : State) (x : Stream) (a b : ImgTemplate) (migs : List Migration) (src dst : Nat) : List (Nat × List Byte × Bool) :=
  let rd (e : ImgState) : List Byte × Bool := match vread s (src + e.offset) (8 * e.d * e.n) with
    | .ok r => r
    | .error _ => (List.replicate (8 * e.d * e.n) 0, true)
  let same := if src = dst then [] else b.stateMap.filter fun e => a.stateMap.contains e
  (same.map fun e => let r := rd e; (dst + e.offset, r.1, r.2)) ++
  migs.filterMap fun m =>
    if m.template ≠ x.r.model then none
    else match findState a m.oldLayer.toNat, findState b m.layer.toNat with
      | some o, some e => let r := rd o; some (dst + e.offset, resizeSection o e r.1, r.2)
      | _, _ => none

/-- R171, R197: the layers that start anew: state-map entries that change without a migration, and attention layers
whose format, head count or weights change. -/
def restartLayers (a b : ImgTemplate) (migs : List Migration) (model : Half) : List Nat :=
  let moved (l : Nat) : Bool := migs.any fun m => decide (m.template = model) && decide (m.layer.toNat = l)
  ((b.stateMap.filter fun e => !a.stateMap.contains e && !moved e.layer.toNat).map (·.layer.toNat)) ++
  (List.range b.layers.length).filter fun i =>
    let y := b.layers.getD i ImgLayer.init
    decide (y.kind = 1) && match a.layers[i]? with
      | some o => decide (¬ (o.kind = 1 ∧ o.kvFmt = y.kvFmt ∧ o.kvHeads = y.kvHeads ∧ o.wDigest = y.wDigest))
      | none => true

/-- R73: layers whose weights the other image replaces. -/
def replacedLayers (a b : ImgTemplate) (formats : Table (BitVec 2)) : Table (BitVec 2) :=
  formats.filter fun e => match a.layers[e.1]?, b.layers[e.1]? with
    | some o, some y => decide (o.wDigest = y.wDigest)
    | _, _ => false

/-- R348, R349: a stream leaves one image for the other. -/
def switchStream (n : Nat) (src dst : Image) (migs : List Migration) (epoch : Half) (s : State) : State :=
  let s := settleMove n s
  let x := getStream s n
  match templateIn src x.r.model.toNat, templateIn dst x.r.model.toNat with
  | some a, some b =>
    let cur := x.r.statePtr.toNat
    let goal := (x.d.newBlock.map (·.toNat)).getD cur
    let s := if cur = 0 ∨ goal = 0 then s else
      (carryMoves s x a b migs cur goal).foldl (fun s w => (vwrite s w.1 w.2.1 w.2.2).1) s
    modStream s n fun x => { x with
      r.statePtr := BitVec.ofNat 64 goal
      d.newBlock := if x.d.newBlock.isSome then some x.r.statePtr else none
      d.devPlaced := if x.d.newBlock.isSome then decide (goal ≠ 0) else x.d.devPlaced
      d.blockLen := if x.d.devPlaced || x.d.newBlock.isSome then alignUp b.blockBytes 4096 else x.d.blockLen
      d.replica := if isAdmitted x then x.d.newReplica else x.d.replica
      d.newReplica := x.d.replica
      d.epoch := epoch
      d.restart := (restartLayers a b migs x.r.model).foldl (fun l i => ins i l) x.d.restart
      d.formats := replacedLayers a b x.d.formats }
  | _, _ => modStream s n fun x => { x with d.epoch := epoch }

def newEpoch (s : State) : Half := s.cfg.epoch + 1

/-- A stream that stands in the new epoch before the commit point. -/
def onNew (s : State) (x : Stream) : Bool := decide (x.state ≠ .free) && decide (x.d.epoch = newEpoch s)

/-! Waves (R350, R351). -/

def groupSpan (g : Image) (n : Half) : List (Nat × Nat) := ((groupIn g n.toNat).map fun x => (x.coreFirst, x.coreCount)).toList

def replicaSpans (g : Image) (model r : Nat) : List (Nat × Nat) :=
  match replicaIn g model r with
  | some x => (x.groups ++ x.buckets).flatMap (groupSpan g)
  | none => []

/-- A stream is affected by a wave that has a core of its old or its new replica. -/
def affected (s : State) (o g : Image) (w : Wave) (x : Stream) : Bool :=
  let m := x.r.model.toNat
  let r := x.d.replica.toNat
  let q := x.d.newReplica.toNat
  let mine := if onNew s x then replicaSpans g m r ++ replicaSpans o m q else replicaSpans o m r ++ replicaSpans g m q
  isAdmitted x && (w.groups.flatMap (groupSpan g)).any fun a => mine.any fun b => overlaps a.1 a.2 b.1 b.2

def affectedBy (s : State) (o g : Image) (i : Nat) : List Nat :=
  match g.waves[i]? with
  | some w => (s.streams.filter fun e => affected s o g w e.2).map (·.1)
  | none => []

/-- The images of the switch in progress: running (an empty one where none is in force) and staged. -/
def switchImages (s : State) : Option (Image × Image × Load) :=
  match s.cfg.staged, s.cfg.load with
  | some g, some l => some (s.cfg.cur.getD Image.init, g, l)
  | _, _ => none

def switching (s : State) : Bool := decide (s.cfg.phase = .switch) || decide (s.cfg.phase = .rollback)

/-- The wave of a stream that is not undone or done yet: releases wait for it, and so does the stream's switch. -/
def waitsForWave (s : State) (x : Stream) : Bool :=
  match switchImages s with
  | some (o, g, l) =>
    let todo := if s.cfg.phase = .rollback then g.waves.take l.waveIdx else g.waves.drop (if l.waveOn then l.waveIdx - 1 else l.waveIdx)
    switching s && todo.any fun w => affected s o g w x
  | none => false

/-- The index of the wave in progress. -/
def waveNow (l : Load) : Option Nat := if l.waveOn then some (l.waveIdx - 1) else none

/-- R303, R350: releases of the streams that the wave in progress affects are held. -/
def waveHeld (s : State) (n : Nat) : Bool :=
  match switchImages s with
  | some (o, g, l) => match waveNow l with
    | some i => switching s && (affectedBy s o g i).contains n
    | none => false
  | none => false

/-- R350: a wave begins, or the undoing of one. -/
def beginWave (s : State) : State :=
  match switchImages s with
  | some (_, g, l) =>
    if l.waveOn then s
    else if s.cfg.phase = .switch ∧ l.waveIdx < g.waves.length then
      { s with cfg.load := some { l with waveIdx := l.waveIdx + 1, waveOn := true }, cfg.wave := BitVec.ofNat 8 (l.waveIdx + 1) }
    else if s.cfg.phase = .rollback ∧ 0 < l.waveIdx then
      { s with cfg.load := some { l with waveOn := true }, cfg.wave := BitVec.ofNat 8 l.waveIdx }
    else s
  | none => s

/-! Prepare's checks (R346, R351). -/

/-- R346: a replica of the new image for every running stream, those pinned to one first; none when some stream is not
admitted (log entry 96). -/
def assignReplicas (g : Image) (s : State) : Option State :=
  let run := s.streams.filter fun e => isAdmitted e.2
  let order := (run.filter fun e => decide (e.2.r.placement ≠ 0xFFFF)) ++ run.filter fun e => decide (e.2.r.placement = 0xFFFF)
  (order.foldl (fun (acc : Option (State × List Job)) e => acc.bind fun a =>
    (chooseReplica s g a.2 e.2 true false).map fun r =>
      (modStream a.1 e.1 fun x => { x with d.newReplica := BitVec.ofNat 16 r.1 },
       a.2 ++ (jobOf s g e.2 r.1 true).toList)) (some (s, []))).map (·.1)

/-- The device places the stream's state: it has allocated its block, or will once the template has one. -/
def placedHere (x : Stream) : Bool := (x.d.devPlaced && decide (x.r.statePtr ≠ 0)) || (isAdmitted x && decide (x.r.statePtr = 0))

/-- R346: a block wherever BLOCK_BYTES changes; 0 stands for none. -/
def assignBlocks (o g : Image) (s : State) : Option State :=
  (s.streams.filter fun e => placedHere e.2).foldl (fun acc e => acc.bind fun s =>
    let x := getStream s e.1
    match templateIn g x.r.model.toNat with
    | none => some s
    | some t =>
      if blockOf (some o) x = t.blockBytes then some s
      else if t.blockBytes = 0 then some (modStream s e.1 fun x => { x with d.newBlock := some 0 })
      else
        let die := if isAdmitted x then repDie g x.r.model.toNat x.d.newReplica.toNat else x.r.statePtr.toNat / dieBytes
        (allocBlock s g t die).map fun a => modStream s e.1 fun x => { x with d.newBlock := some (BitVec.ofNat 64 a) }) (some s)

/-- R351. -/
def wavesOk (o g : Image) (s : State) : Bool :=
  let lists := (List.range g.waves.length).map (affectedBy s o g)
  lists.flatten.Nodup && (List.range g.waves.length).all fun i =>
    let ns := lists.getD i []
    let xs := ns.map (getStream s)
    let dmax := (xs.map fun x => x.d.deltaNs.getD x.d.predicted).foldl max 0
    let w := g.waves.getD i Wave.init
    xs.all fun x => decide (dmax + 1000 * w.timeUs + 125000 ≤ 1000 * x.r.periodUs.toNat)

/-! The commit point (R353). -/

/-- R477: the IMAGE counter and its floor. -/
def raiseImgCounter (v : Nat) (s : State) : State :=
  if imgCounter s < v then
    { s with sec.imgCounter := BitVec.ofNat 32 v, sec.imgFloor := max s.sec.imgFloor (min 256 v) }
  else s

/-- R209, R245: what the cores do once one image is in force: those done with the old epoch leave it. -/
def leaveAll (s : State) : State := mapCores (fun _ k => leaveOld s k) s

/-- R342, R343: POLICY at the moment of completion. -/
def policyAt (g : Image) (s : State) : State := if g.applyPolicy then applyPolicy g s else s

/-- R313: the templates of an image that becomes current have no complete window yet. -/
def freshFigures (s : State) : State := { s with thm.wMeas := [], thm.wCur := [], thm.lMeas := [], thm.lCur := [] }

/-- R353, R354: the new image is in force; the command ends, or waits for the image-store write. -/
def commitSwitch (s : State) : State :=
  match switchImages s with
  | none => s
  | some (_, g, l) =>
    let s := leaveAll { s with
      cfg.cur := some g, cfg.staged := none, cfg.old := s.cfg.cur, cfg.epoch := newEpoch s, cfg.bankOf := otherBank s.cfg.bankOf
      cfg.phase := .loaded, cfg.wave := 0, cfg.wavesOn := false, cfg.persist := l.persist
      cfg.load := if l.persist then some { l with committed := true, work := 0 } else none }
    let s := mapStreams (fun _ x => { x with d.newBlock := none, d.switched := false }) s
    let s := freshFigures (policyAt g s)
    let s := admitStarting s
    let s := raisePlain 0x0503 [0, 0, 0, s.cfg.epoch.zeroExtend 32] s
    match l.cmd with
    | some c => if l.persist then s else finishLong c.slot stSuccess 0 [s.cfg.epoch.zeroExtend 32] s
    | none => s

/-- R352: the last stream's switch is the commit point. -/
def commitIfDone (s : State) : State :=
  match switchImages s with
  | some (_, g, l) =>
    if s.cfg.phase = .switch ∧ !l.waveOn ∧ l.waveIdx = g.waves.length ∧ (s.streams.all fun e => decide (e.2.state = .free) || e.2.d.switched) then
      commitSwitch s
    else s
  | none => s

/-! Streams at their boundaries (R347, R348). -/

def countSwitch (n : Nat) (s : State) : State :=
  if (getStream s n).d.switched then s
  else modStream { s with cfg.swDone := s.cfg.swDone + 1 } n fun x => { x with d.switched := true }

/-- A stream switches, or in the rollback switches back. -/
def switchNow (n : Nat) (s : State) : State :=
  match switchImages s with
  | none => s
  | some (o, g, _) =>
    let x := getStream s n
    if s.cfg.phase = .switch ∧ !onNew s x ∧ x.state ≠ .free then countSwitch n (switchStream n o g g.migrations (newEpoch s) s)
    else if s.cfg.phase = .rollback ∧ onNew s x then switchStream n g o [] s.cfg.epoch s
    else s

/-- R349: a release under the other epoch waits for the chunks in flight unless the groups are the same, in order, and
neither a migration nor a block applies. -/
def freeToPass (s : State) (x : Stream) : Bool :=
  match switchImages s with
  | none => true
  | some (o, g, _) =>
    let m := x.r.model.toNat
    let a : Option (List Half) := (replicaIn (if onNew s x then g else o) m x.d.replica.toNat).map (·.groups)
    let b : Option (List Half) := (replicaIn (if onNew s x then o else g) m x.d.newReplica.toNat).map (·.groups)
    a.isSome && decide (a = b) && x.d.newBlock.isNone && x.d.movingTo.isNone && !g.migrations.any fun k => decide (k.template = x.r.model)

/-- The stream has a switch before it, or a switch back. -/
def mustSwitch (s : State) (x : Stream) : Bool :=
  (decide (s.cfg.phase = .switch) && !onNew s x && !x.d.switched) || (decide (s.cfg.phase = .rollback) && onNew s x)

/-- R348: what an approaching release does: nothing, a switch first, or a hold. -/
def releaseEpoch (n : Nat) (s : State) : Option State :=
  let x := getStream s n
  if waveHeld s n then none
  else if !mustSwitch s x ∨ waitsForWave s x then some s
  else if inFlight x ∧ !freeToPass s x then none
  else some (switchNow n s)

/-- R348: at a tick, every stream with no chunk in flight switches, whatever its state. -/
def switchIdle (s : State) : State :=
  if !switching s then s
  else
    let ns := (s.streams.filter fun e => decide (e.2.state ≠ .free) && !inFlight e.2 && !waitsForWave s e.2 &&
      ((decide (s.cfg.phase = .switch) && !onNew s e.2) || (decide (s.cfg.phase = .rollback) && onNew s e.2))).map (·.1)
    ns.foldl (fun s n => switchNow n s) s

/-- R347: the Switch phase begins. -/
def beginSwitch (s : State) : State :=
  let counts (x : Stream) : Bool := decide (x.state ≠ .free) && decide (x.state ≠ .starting)
  let total := (s.streams.filter fun e => counts e.2).length
  let s := mapStreams (fun _ x => { x with d.switched := !counts x }) s
  { s with cfg.phase := .switch, cfg.swDone := 0, cfg.swTotal := BitVec.ofNat 13 total }

/-- Prepare begins once the image is verified and no core holds a token of the bank that is to be spare. -/
def prepareIfFree (s : State) : State :=
  match s.cfg.staged with
  | some g => if s.cfg.phase = .stage ∧ sparesFree s then beginPrepare g s else s
  | none => s

/-- The tick's part of a switch. -/
def switchTick (s : State) : State :=
  let s := prepareIfFree s
  let s := if s.cfg.phase = .prepare ∧ ((s.cfg.load.map (·.prepared)).getD false) then beginSwitch s else s
  commitIfDone (switchIdle (beginWave s))

/-! Commands. -/

/-- R346, R351: Prepare ends once every core of the new image is prepared, or aborts the switch. -/
def execPrepareComplete (s : State) : Out :=
  match switchImages s with
  | some (o, g, l) =>
    if !agentsOn s ∨ s.cfg.phase ≠ .prepare ∨ l.prepared ∨ preparedPct s ≠ 100 then .next s
    else match (assignReplicas g s).bind (assignBlocks o g) with
      | none => .next (beginRollback 2 s)
      | some s' =>
        if wavesOk o g s' then
          .next { s' with cfg.pct := 100, cfg.load := some { l with prepared := true }, cfg.waves := BitVec.ofNat 8 g.waves.length }
        else .next (beginRollback 3 s')
  | none => .next s

/-- R350, R352: the wave's cores leave one epoch for the other, and its streams switch. -/
def execWaveReconfigure (s : State) : Out :=
  match switchImages s with
  | some (o, g, l) =>
    match (if agentsOn s && switching s then waveNow l else none) with
    | none => .next s
    | some i =>
      let ns := affectedBy s o g i
      if ns.any fun n => inFlight (getStream s n) then .next s
      else
        let fwd := decide (s.cfg.phase = .switch)
        let cores := ((g.waves.getD i Wave.init).groups.flatMap (groupSpan g)).flatMap fun p => (List.range p.2).map (p.1 + ·)
        let s := cores.foldl (moveCore (if fwd then g else o) (if fwd then otherBank s.cfg.bankOf else s.cfg.bankOf)) s
        let s := ns.foldl (fun s n => switchNow n s) s
        .next (commitIfDone { s with cfg.wave := 0, cfg.load := some { l with waveOn := false, waveIdx := if fwd then l.waveIdx else l.waveIdx - 1 } })
  | none => .next s

/-- R352: no stream stands in the new epoch and every wave is undone. -/
def rolledBack (s : State) : Bool :=
  decide (s.cfg.phase = .rollback) && ((s.cfg.load.map fun l => !l.waveOn && decide (l.waveIdx = 0)).getD true) && !s.streams.any fun e => onNew s e.2

/-- R352: the rollback is complete; EPOCH_ABORT is raised, and the command ends with ABORTED. -/
def execRollbackComplete (s : State) : Out :=
  if !agentsOn s ∨ !rolledBack s then .next s
  else
    let l := s.cfg.load.getD Load.init
    let cause := l.abortCause
    let staged := newEpoch s
    let s := { s with cfg.phase := if s.cfg.cur.isSome then .loaded else .none, cfg.staged := none, cfg.load := none, cfg.abort := cause, cfg.wave := 0, cfg.wavesOn := false }
    let s := mapCores (fun _ k => { settleBank s k with preloadFrom := if k.preloadFrom = some s.cfg.bankOf then k.preloadFrom else none }) s
    let s := mapStreams (fun _ x => { x with d.newBlock := none, d.switched := false }) s
    let s := raisePlain 0x0502 [0, 0, cause.zeroExtend 32, staged.zeroExtend 32] s
    let s := match l.cmd with
      | some c => finishLong c.slot stAborted cause.toNat [] s
      | none => s
    .next (admitStarting s)

/-- R354, R460, R477: one copy of the image-store write, committed in the journal in one transaction with the rise of
the IMAGE counter that it brings; none where the journal refuses it. -/
def persistCopy (g : Image) (copy : Nat) (s : State) : Option State :=
  let bytes := memRead s.dram g.base g.bytes
  let rise := decide (imgCounter s < g.secVersion.toNat)
  let recs := jrec jImage copy (g.imageId ++ leBytes 8 g.bytes) :: if rise then [jrec jRollback 1 (leBytes 4 g.secVersion.toNat)] else []
  (journalPut recs s).map fun p =>
    let s := if rise then raiseImgCounter g.secVersion.toNat p.2 else p.2
    if copy = 0 then { s with jnl.image0 := some bytes } else { s with jnl.image1 := some bytes }

/-- R354: ND1 first, ND0 second; false where the journal refuses a copy. -/
def persistImage (g : Image) (ok0 ok1 : Bool) (s : State) : Bool × State :=
  match (if ok1 then persistCopy g 1 s else some s) with
  | none => (false, s)
  | some s1 => match (if ok0 then persistCopy g 0 s1 else some s1) with
    | none => (false, s1)
    | some s2 => (true, s2)

/-- R354: the image-store write ends, and with it the command that asked for it. -/
def execImagePersistComplete (ok0 ok1 : Bool) (s : State) : Out :=
  if !agentsOn s ∨ !s.cfg.persist then .next s
  else match s.cfg.cur with
    | none => .next s
    | some g =>
      let p := persistImage g ok0 ok1 s
      let l := s.cfg.load
      let s := { p.2 with cfg.persist := false, cfg.pct := 100, cfg.load := none }
      .next (match l.bind (·.cmd) with
        | some c => finishLong c.slot (if p.1 then stSuccess else stNoResource) 0 [s.cfg.epoch.zeroExtend 32] s
        | none => s)

end Sys2Proof.Machine
end

