-- ==== Sys2Proof/Machine/Chunks.lean ====
section
/-! DEFINITION. The release of a chunk (R292, R298, R302, R303, R306, R516), its attention context (R193, R197), the
posting of its result (R290, R296, R299, R304, R308), and the commands of a stream (Table 9.6). -/

namespace Sys2Proof.Machine

/-! Output slots (R292). -/

def reservedSlots (x : Stream) : Nat := (x.d.chunks.filter fun c => c.released && !c.stopped).length

def outUsed (x : Stream) : Nat := idxSub x.d.outWr x.d.outRd + reservedSlots x

def outFree (x : Stream) : Bool := decide (outUsed x < x.d.outR.nslots)

/-- R292: a hold of the release by the output ring begins, or ends and is counted. -/
def holdOut (n : Nat) (s : State) : State := modStream s n fun x => { x with c.outWaitSince := x.c.outWaitSince.orElse fun _ => some s.clk.time }

def endHoldOut (n : Nat) (s : State) : State :=
  modStream s n fun x => match x.c.outWaitSince with
    | some t => { x with c.outWaitNs := x.c.outWaitNs + (now s - t.toNat), c.outWaitSince := none }
    | none => x

/-! Holds (R303). -/

/-- The cores of every layer group of a replica. -/
def placementCores (g : Image) (r : ImgReplica) : List Nat :=
  r.groups.flatMap fun n => ((groupIn g n.toNat).map groupCores).getD []

def nextToRelease (x : Stream) : Option Chunk := x.d.chunks.find? fun c => !c.released && c.faulted.isNone

/-- R295, R297, R303, R430, R448, R495: the stream releases chunks. -/
def mayRelease (s : State) (x : Stream) : Bool :=
  agentsOn s && !s.evt.stopReleases && !s.pwr.hot && !s.pwr.resuming && !x.d.hold && !casHolds s x && !x.d.abortPend && !x.d.pausePend &&
  match x.state with
  | .running | .ending => true
  | _ => false

/-- R516: at most 64 chunks released and not yet posted or discarded. -/
def chunksOut (x : Stream) : Nat := (x.d.chunks.filter (·.released)).length

/-- R200: the shard cores of a length bucket of a replica. -/
def bucketCores (g : Image) (r : ImgReplica) (b : Nat) : List Nat :=
  if b = 0 then [] else ((r.buckets[b]?.bind fun n => groupIn g n.toNat).map groupCores).getD []

/-- R242, R303: a core of the placement, the stream's shard cores included, holds 256 tokens. -/
def tokensFull (s : State) (g : Image) (r : ImgReplica) (x : Stream) : Bool :=
  !roomFor s (placementCores g r ++ x.d.buckets.flatMap fun e => bucketCores g r e.2)

/-! The attention context of a chunk (R193, R197). -/

def fpp (t : ImgTemplate) : Nat := max 1 t.framesPerPos

/-- The pages that a layer's context holds, as the device's own list. -/
def pagesOf (s : State) (x : Stream) (t : Nat) (h : KvHead) (a : Nat) : List (Nat × Nat × Nat × Nat) :=
  (List.range h.heads).flatMap fun hd => (livePages s x t h a hd).map fun p => (a, hd, p.1, p.2)

/-- The position in the chunk at which its first new context starts. -/
def firstStart (c : Chunk) : Option Nat := (c.kvMid.head?.map (·.start)).orElse fun _ => c.kvNew

/-- R193, R197: the attention layers, of h.layers, that start a new context in the chunk. -/
def freshLayers (x : Stream) (atts : List Nat) (c : Chunk) (h : KvHead) : List Nat :=
  if c.newContext then List.range h.layers else (List.range h.layers).filter fun a => x.d.restart.contains (atts.getD a 0)

/-- R197: layers that start anew at position 0 of a chunk whose other layers start anew later have one context more. -/
def restartMid (x : Stream) (atts : List Nat) (c : Chunk) (h : KvHead) : List KvMid :=
  let only := (List.range h.layers).filter fun a => x.d.restart.contains (atts.getD a 0)
  match firstStart c with
  | some p => if p = 0 ∨ only = [] then [] else [{ KvMid.init with start := 0, len := p, origin := h.length, only := only }]
  | none => []

/-- R193, R197: the chunk's position in the context is fixed: a new context takes the old one's pages into the chunk's own
list. -/
def takeContext (n : Nat) (c : Chunk) (t : Nat) (h : KvHead) (s : State) : State :=
  let x := getStream s n
  let pos := chunkPositions s x c
  let atts := ((chunkTemplate s x c).map attLayers).getD []
  let fresh := freshLayers x atts c h
  let pages := fresh.flatMap (pagesOf s x t h)
  let layers := fresh.map fun a => (a, originOf s t h a, lfirstOf s t h a)
  let flushed := x.d.kvFlushed
  let s := fresh.foldl (fun s a => setLayer t h a (if c.newContext then 0 else h.length) 0 s) s
  let s := setFirstPos t h (setLength t (match c.kvNew with | some m => pos - m | none => h.length + pos) s)
  let s := modStream s n fun x => { x with
    d.kvPages := true
    d.kvFlushed := x.d.kvFlushed.filter fun e => !fresh.contains (e.1 / 256)
    d.restart := x.d.restart.filter fun l => !atts.contains l }
  modChunk s n c.num fun c => { c with
    kvBase := h.length, kvMid := restartMid x atts c h ++ c.kvMid, oldPages := pages, oldLayers := layers, oldFlushed := flushed, kvReady := true }

/-- Table 6.7: the bucket of a retained length. -/
def bucketOf (len : Nat) : Nat := ((List.range 11).find? fun b => decide (len ≤ 2 ^ (12 + b))).getD 10

/-- R200: the bucket of each attention layer of a stream, by the retained lengths that its KV table states. -/
def bucketsNow (s : State) (t : Nat) (h : KvHead) : Table Nat :=
  (List.range h.layers).map fun a => (a, bucketOf (h.length - originOf s t h a - lfirstOf s t h a))

/-- R200: the shard cores of a chunk's attention layers, by layer: those of the bucket that each is in, and where a context
ends in the chunk those of the bucket that it was in (log entry 20). -/
def shardCores (g : Image) (r : ImgReplica) (atts : List Nat) (old new : Table Nat) (ended : List Nat) : List (Nat × List Nat) :=
  new.map fun e => (atts.getD e.1 0,
    (bucketCores g r e.2 ++ if ended.contains e.1 then bucketCores g r (tabGetD 0 old e.1) else []).eraseDups)

/-- R200: the stream changes bucket where its retained length asks for it, and the shard cores are given their tokens. -/
def giveShards (n : Nat) (num : DWord) (sh : List (Nat × List Nat)) (new : Table Nat) (s : State) : State :=
  let s := modStream s n fun x => { x with d.buckets := new }
  sh.foldl (fun s e =>
    let tok := ((findChunk (getStream s n) num).map fun c => (layerOf c e.1).tok).getD Token.init
    giveToken tok e.2 (modLayer s n num e.1 fun w => { w with shards := e.2 })) s

/-- R180: some owning core of the stream is none of the chunk's replica. -/
def ownersMove (s : State) (x : Stream) (c : Chunk) (atts : List Nat) : Bool :=
  x.d.kvOwners.any fun e => match chunkGroup s x c (atts.getD (e.1 / 256) 0) with
    | some q => decide (e.2 ∉ groupCores q)
    | none => false

/-- The context of a chunk with attention layers is fixed, with its owning cores (R180) and shard cores (R200); none while a
core of a bucket holds 256 tokens (R242). -/
def contextTaken (n : Nat) (c : Chunk) (h : KvHead) (s : State) : Option State :=
  let x := getStream s n
  match imageAt s c.epoch, chunkTemplate s x c, chunkReplica s x c with
  | some g, some t, some r =>
    let kt := x.r.kvTable.toNat
    let s' := takeContext n c kt h (assignOwners n g t c.replica.toNat h s)
    match readHead s' kt with
    | none => some s'
    | some h' =>
      let new := bucketsNow s' kt h'
      let sh := shardCores g r (attLayers t) x.d.buckets new (freshLayers x (attLayers t) c h)
      if roomFor s (sh.flatMap (·.2)) then some (giveShards n c.num sh new s') else none
  | _, _, _ => some (takeContext n c x.r.kvTable.toNat h s)

/-- Contexts are fixed in chunk order; a new context, and one whose owning cores change, waits until every earlier chunk is
complete. -/
def advanceContexts : Nat → Nat → State → State
  | 0, _, s => s
  | f + 1, n, s =>
    let x := getStream s n
    match x.d.chunks.find? fun c => c.released && !c.kvReady with
    | none => s
    | some c =>
      let earlier := x.d.chunks.filter fun e => e.released && decide (e.num.toNat < c.num.toNat)
      let atts := ((chunkTemplate s x c).map attLayers).getD []
      if atts = [] then advanceContexts f n (modChunk s n c.num fun c => { c with kvReady := true })
      else match readHead s x.r.kvTable.toNat with
        | none => s
        | some h =>
          if (c.newContext || decide (x.d.restart ≠ []) || ownersMove s x c atts) &&
              !earlier.all (fun e => e.faulted.isSome || e.stopped || e.layers.all (·.complete)) then s
          else match contextTaken n c h s with
            | some s => advanceContexts f n s
            | none => s

/-! The chunk context and the tokens (R22, R516). -/

def outEntry (x : Stream) (idx : Nat) : Nat := ringSlot x.d.outR idx

def outPayload (x : Stream) (t : ImgTemplate) (idx : Nat) : Nat :=
  if t.resultBytes ≤ 32 then 0 else x.d.outR.payBase.toNat + idx % max 1 x.d.outR.nslots * x.d.outR.paySlot

/-- Table 9.11, with STE_PARAM as it stands for this release (R342). -/
def contextWords (x : Stream) (params : Vector Word 32) (t : ImgTemplate) (c : Chunk) (initAny : Bool) : List Word :=
  words64 c.num.toNat ++ [BitVec.ofNat 32 (c.frames + 2 ^ 16 * b2n x.d.startExpress + 2 ^ 17 * b2n initAny), 0] ++
    words64 x.d.inR.base.toNat ++ [BitVec.ofNat 32 x.d.inR.nslots, BitVec.ofNat 32 x.d.inR.slotBytes] ++ words64 c.first ++
    words64 (outEntry x c.outIdx) ++ words64 (outPayload x t c.outIdx) ++ [BitVec.ofNat 32 t.resultBytes, 0] ++
    params.toList ++ List.replicate 16 0

/-- R162, R171: entry 0 of a layer's segment list takes ENTRY 1. -/
def layerInit (x : Stream) (t : ImgTemplate) (c : Chunk) (layer : Nat) : Bool :=
  c.initEntry || (x.d.restart.contains layer && (findState t layer).isSome) ||
    (x.d.pendingReset && !c.gapPos.contains 0 && ((findState t layer).map fun e => decide (e.gapMode = 2)).getD false)

/-- Table 7.10: the token of a layer group, with D' = D - shift (R306). -/
def tokenFor (x : Stream) (t : ImgTemplate) (c : Chunk) (n : Nat) (bank : BitVec 1) (i : Nat) : Token :=
  { stream := BitVec.ofNat 12 n, chunk := c.num, deadline := BitVec.ofNat 64 (c.deadline.toNat - c.shift), bank := bank
    express := x.d.startExpress, initEntry := layerInit x t c i, final := c.final && decide (c.frames < t.f)
    frames := BitVec.ofNat 16 c.frames, layer := BitVec.ofNat 8 i, rerun := false }

/-- R22: one token to each core of each layer group. -/
def giveTokens (g : Image) (r : ImgReplica) (c : Chunk) (s : State) : State :=
  (List.range r.groups.length).foldl (fun s i =>
    match groupIn g (r.groups.getD i 0).toNat with
    | some q => giveToken (layerOf c i).tok (groupCores q) s
    | none => s) s

/-- R164: some layer of the template has GAP_MODE RESET. -/
def resetLayers (t : ImgTemplate) : Bool := t.stateMap.any fun e => decide (e.gapMode = 2)

/-- R164: the positions of a chunk that follow a run of gap positions under RESET. -/
def gapEnds (x : Stream) (t : ImgTemplate) (c : Chunk) : List Nat :=
  if resetLayers t then (List.range (ceilDiv c.frames (fpp t))).filter fun p =>
    !c.gapPos.contains p && (if p = 0 then x.d.pendingReset else c.gapPos.contains (p - 1))
  else []

/-- R161, R162, R164, R193: the positions of a chunk at which a segment takes ENTRY 1, ascending (log entry 51). -/
def entryPositions (x : Stream) (t : ImgTemplate) (c : Chunk) (restart : Bool) : List Nat :=
  let all := (if restart then [0] else []) ++ c.marks ++ gapEnds x t c
  (List.range (ceilDiv c.frames (fpp t))).filter fun p => all.contains p

/-- R193: the contexts that begin and end within a chunk whose contexts start at these positions. -/
def midContexts : List Nat → List KvMid
  | a :: b :: r => { KvMid.init with start := a, len := b - a } :: midContexts (b :: r)
  | _ => []

/-! The release (R298, R302, R306). -/

/-- The chunk as it stands at its release, with the shift of catch-up. -/
def releasedChunk (s : State) (x : Stream) (t : ImgTemplate) (r : ImgReplica) (c : Chunk) (n shift : Nat) (bank : BitVec 1) : Chunk :=
  let restart := x.r.reset || (x.d.firstAfterStart && !x.d.continueStart)
  let starts := entryPositions x t c restart
  let c := { c with
    released := true, ordinal := s.thm.releases, ratio := ratioNow s, service := decide (s.hub.phase = Phase.service), initPtr := x.r.initPtr
    replica := x.d.replica, epoch := x.d.epoch, oldEpoch := decide (x.d.epoch ≠ s.cfg.epoch), initEntry := restart, shift := shift
    outIdx := (x.d.outWr + reservedSlots x) % 2 ^ 64
    newContext := decide (starts ≠ []), kvNew := starts.getLast?, kvMid := midContexts starts
    kvReady := decide (x.r.kvTable = 0) }
  { c with
    tookInit := decide (starts ≠ []) || (List.range r.groups.length).any (layerInit x t c)
    layers := (List.range r.groups.length).map fun i => { LayerWork.init with format := tabGetD 0 x.d.formats i, tok := tokenFor x t c n bank i } }

/-- R428: the packages that a deepened placement reaches from this one. -/
def farMembers (s : State) (x : Stream) : List Nat := ((routesOf s x).map (·.member)).eraseDups

/-- The chunk is released, with the shift σ of catch-up. -/
def releaseChunk (n sigma : Nat) (c : Chunk) (g : Image) (t : ImgTemplate) (r : ImgReplica) (s : State) : State :=
  let x := getStream s n
  let bank := if x.d.epoch = s.cfg.epoch then s.cfg.bankOf else otherBank s.cfg.bankOf
  let far := farMembers s x
  let sameTime := decide (x.d.paramAt = some s.clk.time)
  let sameRatio := decide (s.thm.ratioAt = some s.clk.time)
  let c' := { releasedChunk s x t r c n sigma bank with remote := far }
  let initAny := (List.range r.groups.length).any (layerInit x t c')
  let s := dramWrite s (g.base + g.ctxOffset + 256 * (64 * n + c.num.toNat % 64)) (bytesOfWords (contextWords x (paramsNow s x) t c' initAny)) false
  let s := giveTokens g r c' s
  let s := modStream s n fun x => { x with
    r.reset := false, r.paramPending := sameTime, d.paramMark := if sameTime then some (c.num + 1) else x.d.paramMark, r.carry := if x.d.firstAfterStart then false else x.r.carry
    d.firstAfterStart := false, d.lastRelease := some s.clk.time
    d.pendingReset := resetLayers t && c.gapPos.contains (ceilDiv c.frames (fpp t) - 1)
    d.restart := x.d.restart.filter fun l => (findState t l).isNone
    d.chunks := x.d.chunks.map fun e => if e.num = c.num then c' else e }
  advanceContexts 65 n { s with
    thm.releases := s.thm.releases + 1
    cfg.satMark := if sameRatio then some (s.thm.releases + 1) else s.cfg.satMark
    cas.tokensDue := if far = [] then s.cas.tokensDue else s.cas.tokensDue ++ [(n, c.num)] }

/-- R292, R303, R348: the next chunk of a stream is released unless a hold applies; none when none was released. -/
def tryRelease (n sigma : Nat) (s : State) : State × Bool :=
  let x := getStream s n
  match (if mayRelease s x then nextToRelease x else none) with
  | none => (endHoldOut n s, false)
  | some c =>
    let s := if outFree x then s else readOutRd n s
    if !outFree (getStream s n) then (holdOut n s, false)
    else
      let s := endHoldOut n s
      if 64 ≤ chunksOut (getStream s n) then (s, false)
      else match releaseEpoch n s with
        | none => (s, false)
        | some s =>
          let x := getStream s n
          match (imageAt s x.d.epoch).bind fun g => (templateIn g x.r.model.toNat).bind fun t =>
              (replicaIn g x.r.model.toNat x.d.replica.toNat).map fun r => (g, t, r) with
          | none => (s, false)
          | some (g, t, r) =>
            if tokensFull s g r x then (s, false) else (releaseChunk n sigma c g t r s, true)

/-- R302: when the next chunk is due outside catch-up. -/
def dueAt (x : Stream) (c : Chunk) : Nat :=
  match x.d.lastRelease with
  | some t => max c.arrival.toNat (t.toNat + 1000 * x.r.periodUs.toNat)
  | none => c.arrival.toNat

/-! Results (R290, R296, R304). -/

def lateUs (d : Int) : Word := BitVec.ofInt 32 (max (-(2 ^ 31)) (min (2 ^ 31 - 1) (Int.ediv d 1000)))

/-- Table 9.5, W0-W7. -/
def entryWords (c : Chunk) (t : Option ImgTemplate) (x : Stream) (final : Bool) (cTime : Nat) : List Word :=
  let fault := c.faulted.isSome
  let late := decide (c.deadline.toNat < cTime)
  let flags := c.nflags.toNat + 2 ^ 8 * b2n (final && !fault) + 2 ^ 9 * b2n fault + 2 ^ 10 * b2n late + 2 ^ 11 * b2n c.tookInit + 2 ^ 12 * b2n c.gap +
    2 ^ 13 * b2n x.d.startExpress + 2 ^ 14 * b2n (decide (c.frames < ((t.map (·.f)).getD 0)))
  let len := if fault ∨ c.frames = 0 then 0 else (t.map (·.resultBytes)).getD 0
  words64 c.num.toNat ++ [if c.frames = 0 then 0 else c.lastSeq, BitVec.ofNat 32 (c.frames + 2 ^ 16 * flags)] ++
    words64 (if c.frames = 0 then 0 else c.srcTs.toNat) ++
    [lateUs ((cTime : Int) - c.deadline.toNat), BitVec.ofNat 32 (len + 2 ^ 16 * ((c.faulted.map (·.toNat)).getD 0))]

/-- R420: the entry and the result bytes as they stand in the output ring. -/
def resultBytesOf (s : State) (x : Stream) (t : ImgTemplate) (idx : Nat) : List Byte :=
  let rd (a n : Nat) : List Byte := match vread s a n with
    | .ok r => r.1
    | .error _ => List.replicate n 0
  rd (outEntry x idx) 64 ++ if 32 < t.resultBytes then rd (outPayload x t idx) t.resultBytes else []

/-- R313: the smallest delay of a template in the window now running. -/
def noteL (m : Half) (delay : Nat) (l : List (Half × Nat)) : List (Half × Nat) :=
  let old := ((l.find? fun e => decide (e.1 = m)).map (·.2)).getD delay
  (l.filter fun e => decide (e.1 ≠ m)) ++ [(m, min old delay)]

/-- R290, R304, R308: an entry is written, the output WR_IDX advances over it, and the stream's counts follow. -/
def postEntry (n : Nat) (c : Chunk) (final : Bool) (s : State) : State :=
  let x := getStream s n
  let t := chunkTemplate s x c
  let time := now s
  let fault := c.faulted.isSome
  let late := decide (c.deadline.toNat < time)
  let delay := time - c.arrival.toNat
  let s := vput s (outEntry x x.d.outWr) (bytesOfWords (entryWords c t x final time))
  let wr := (x.d.outWr + 1) % 2 ^ 64
  let s := vput s (x.r.outRing.toNat + 16) (leBytes 8 wr)
  let pos := if fault then 0 else chunkPositions s x c
  let s := modStream s n fun x => { x with
    r.chunksDone := if fault then x.r.chunksDone else x.r.chunksDone + 1
    r.position := x.r.position + BitVec.ofNat 48 pos
    r.lateCount := if late then satAdd x.r.lateCount 1 else x.r.lateCount
    r.gap := c.gap
    c.delays := x.c.delays ++ [delay]
    d.outWr := wr, d.lastLateNs := (time : Int) - c.deadline.toNat, d.lastPosted := c.num
    d.deltaCur := some (max (x.d.deltaCur.getD 0) delay)
    d.undoWide := x.d.undoWide.filter fun e => decide (c.num.toNat < e.2.1.toNat)
    d.chunks := x.d.chunks.filter fun e => decide (e.num ≠ c.num) }
  let s := { s with thm.posted := s.thm.posted + 1, thm.lCur := if fault then s.thm.lCur else noteL x.r.model delay s.thm.lCur }
  let s := resultIrq n s
  match (if fault then none else t) with
  | some t => egress n c.num.toNat time (resultBytesOf s x t x.d.outWr) s
  | none => s

/-- R193: the pages of the old context are released when the chunk that began the new one completes. -/
def releaseOld (n : Nat) (c : Chunk) (s : State) : State :=
  let t := (getStream s n).r.kvTable.toNat
  match (if oldPagesOf c = [] then none else readHead s t) with
  | some h => (oldPagesOf c).foldl (fun s p => releasePage t h p.1 p.2.1 p.2.2.1 p.2.2.2 s) s
  | none => s

/-- R162, R296: the stream is ENDED once its FINAL entry is posted. -/
def enterEnded (n : Nat) (s : State) : State :=
  let s := closeGap n s
  let s := if (getStream s n).r.keepState then modStream s n fun x => { x with r.carry := decide (x.r.statePtr ≠ 0) } else freeBlock n (releaseAll n s)
  modStream s n fun x => { x with state := .ended, r.lagging := false, d.ending := none, d.extraFinal := false, d.chunks := [] }

/-- The first chunk is complete at every group, on every package, or faulted. -/
def postable (x : Stream) : Option Chunk :=
  match x.d.chunks with
  | [] => none
  | c :: _ =>
    let before := match x.d.faultAt with
      | some f => decide (c.num.toNat ≤ f.toNat)
      | none => true
    if before && (if c.released then c.faulted.isSome || (decide (c.layers ≠ []) && c.layers.all (·.complete) && decide (c.remote = [])) else c.faulted.isSome && outFree x)
    then some c else none

/-- R296: the further FINAL entry of a stream whose chunks had all been posted. -/
def extraChunk (x : Stream) : Chunk :=
  { Chunk.init with num := x.d.nextChunk, arrival := x.d.endTime, deadline := BitVec.ofNat 64 (x.d.endTime.toNat + 1000 * x.r.delayUs.toNat), epoch := x.d.epoch }

/-- R299, R304: the next entry of the stream is posted, in chunk order. -/
def postResult (n : Nat) (s : State) : State :=
  let x := getStream s n
  match postable x with
  | some c =>
    let final := c.final && !x.d.abortPend && c.faulted.isNone && decide (x.state = .ending)
    let s := releaseOld n c (postEntry n c final s)
    let s := if x.d.overwritten ∧ c.faulted.isSome then s else setRd n ((c.first + c.frames + c.skip) % 2 ^ 64) s
    let s := advanceContexts 65 n s
    if final then enterEnded n s else s
  | none =>
    if x.d.extraFinal ∧ x.state = .ending ∧ x.d.chunks = [] ∧ !x.d.abortPend ∧ outFree x then
      let s := modStream s n fun x => { x with d.nextChunk := x.d.nextChunk + 1, d.extraFinal := false }
      enterEnded n (postEntry n (extraChunk x) true s)
    else s

/-! The commands of a stream (Table 9.6) and what ends them. -/

/-- CMD in a write of STE_CTRL, whatever command it carries. -/
def ctrlWrite (n : StreamId) (ctrl : Word) (s : State) : Out := hostWrite (steWrite n.toNat 0 (ctrl.zeroExtend 64)) s

/-- A write of STE_CTRL with one of the commands. -/
def withCmd (cmd : Nat) (ctrl : Word) : Word := (ctrl &&& 0xFFFFFFF8) ||| BitVec.ofNat 32 cmd

def execStreamStart (n : StreamId) (ctrl : Word) (s : State) : Out := ctrlWrite n (withCmd 1 ctrl) s
def execStreamPause (n : StreamId) (ctrl : Word) (s : State) : Out := ctrlWrite n (withCmd 2 ctrl) s
def execStreamResume (n : StreamId) (ctrl : Word) (s : State) : Out := ctrlWrite n (withCmd 3 ctrl) s
def execStreamEnd (n : StreamId) (ctrl : Word) (s : State) : Out := ctrlWrite n (withCmd 4 ctrl) s
def execStreamAbort (n : StreamId) (ctrl : Word) (s : State) : Out := ctrlWrite n (withCmd 5 ctrl) s

/-- R295. -/
def execPauseComplete (n : StreamId) (s : State) : Out := .next (if agentsOn s then settlePause n.toNat s else s)

/-- R297. -/
def execAbortComplete (n : StreamId) (s : State) : Out := .next (if agentsOn s then commitIfDone (settleAbort n.toNat s) else s)

/-- R283. -/
def execSteGroupWrite (n : StreamId) (value : Word) (s : State) : Out := hostWrite (steWrite n.toNat 8 (value.zeroExtend 64)) s

/-- R342. -/
def execSteParamWrite (n : StreamId) (idx : BitVec 5) (value : Word) (s : State) : Out := hostWrite (steParam n.toNat idx.toNat value) s

/-- R403: a write of QUE_STREAM_DB with IN set, after what the host wrote. -/
def execStreamDbIn (n : StreamId) (written : List Host.Cell) (s : State) : Out := hostWrite (streamDb n.toNat true false) (hostStores written s)

/-- R403: and with OUT set. -/
def execStreamDbOut (n : StreamId) (written : List Host.Cell) (s : State) : Out := hostWrite (streamDb n.toNat false true) (hostStores written s)

/-- R289: a pending re-read of the input WR_IDX is made. -/
def execInputWrIdxRead (n : StreamId) (s : State) : Out :=
  if agentsOn s && !s.pwr.hot && s.que.dbIn.contains n.toNat then
    .next (observe n.toNat { s with que.dbIn := del n.toNat s.que.dbIn })
  else .next s

/-- R286, R403: a pending re-read of the output RD_IDX is made. -/
def execOutputRdIdxRead (n : StreamId) (s : State) : Out :=
  if agentsOn s && !s.pwr.hot && s.que.dbOut.contains n.toNat then
    let s := { s with que.dbOut := del n.toNat s.que.dbOut }
    .next (if observes (getStream s n.toNat) then readOutRd n.toNat s else s)
  else .next s

end Sys2Proof.Machine
end

