-- ==== Sys2Proof/Machine/RegView.lean ====
section
/-! DEFINITION. What BAR0 shows (R385, Table 12.3): each 32-bit word of each block, as a read of it returns it at this
moment. A word that no block lists reads 0 (R11, R385). -/

namespace Sys2Proof.Machine

/-- A field placed at a bit. -/
def at' (lo v : Nat) : Nat := 2 ^ lo * v

def bw (b : Bool) (lo : Nat) : Nat := 2 ^ lo * b2n b

def word (n : Nat) : Word := BitVec.ofNat 32 n

/-- Word 0 or 1 of a 64-bit register at offset `base`. -/
def part (off base : Nat) (v : Nat) : Word := if off = base then word v else word (v / 2 ^ 32)

/-- Byte string words, from offset `base`. -/
def bytesWord (off base : Nat) (bs : List Byte) : Word := wordAt bs ((off - base) / 4)

/-! HUB_ (R386). -/

def phaseCode (p : Phase) : Nat :=
  match p with
  | .start => 0
  | .service => 1
  | .test => 2
  | .recovery => 3

def hubStatus (s : State) : Word :=
  word (phaseCode s.hub.phase + bw s.hub.ready 4 + bw s.hub.degraded 5 + bw s.hub.halted 6 + at' 12 s.hub.step.toNat)

def hubWord (s : State) (off : Nat) : Word :=
  let h := s.hub
  let f := s.fixed
  if !h.linkUp then 0
  else if off = 0x00 then 0x52554946
  else if off = 0x04 then word (f.stepping.toNat + at' 8 f.rom.toNat + at' 16 f.fw.toNat)
  else if off = 0x08 then word (f.variant.toNat + at' 2 h.cascId.toNat + bw h.cascMstr 6 + at' 16 f.vendor.toNat)
  else if !h.enumerated then 0
  else if off = 0x0C then hubStatus s
  else if off = 0x10 then word h.coreCount.toNat
  else if off = 0x14 then 128
  else if off = 0x18 then word (h.cd.toNat + at' 12 h.od.toNat + at' 16 f.ndMounted.toNat)
  else if off = 0x1C then 4096
  else if off = 0x20 then word (4 + at' 8 63 + at' 16 16)
  else if off = 0x28 ∨ off = 0x2C then part off 0x28 s.clk.time.toNat
  else if off = 0x30 ∨ off = 0x34 then part off 0x30 f.serial.toNat
  else if 0x40 ≤ off ∧ off < 0x70 then word (vget 0 h.dieCores ((off - 0x40) / 4)).toNat
  else 0

/-! QUE_ (R387). -/

def queWord (s : State) (off : Nat) : Word :=
  if off < 0x100 then
    let q := getQ s (off / 0x40)
    let o := off % 0x40
    if o < 0x08 then part o 0 q.cmdBase.toNat
    else if o = 0x08 then word (b2n q.cmdEn + at' 1 q.cmdSize.toNat)
    else if o = 0x0C then word q.tail.toNat
    else if o = 0x10 then word q.head.toNat
    else if o = 0x18 ∨ o = 0x1C then part o 0x18 q.cplBase.toNat
    else if o = 0x20 then word (b2n q.cplEn + at' 1 q.cplSize.toNat + at' 8 q.count.toNat + at' 16 q.waitUs.toNat)
    else if o = 0x24 then word q.cplHead.toNat
    else if o = 0x28 then word q.cplTail.toNat
    else 0
  else
    let q := s.que
    if off = 0x100 ∨ off = 0x104 then part off 0x100 q.evBase.toNat
    else if off = 0x108 then word (b2n q.evEn + at' 1 q.evSize.toNat)
    else if off = 0x10C then word q.evHead.toNat
    else if off = 0x110 then word q.evTail.toNat
    else if off = 0x124 then word q.holdoffUs.toNat
    else if off = 0x130 then word (q.err.toNat + at' 4 q.cplLost.toNat + bw q.evqErr 8)
    else if 0x200 ≤ off ∧ off < 0x400 then tabGetD 0 q.resIrqEn ((off - 0x200) / 4)
    else 0

/-! EVT_, PRG_, CFG_ (R405, R406, R356). -/

def evtWord (s : State) (off : Nat) : Word :=
  let e := s.evt
  if off = 0x00 then word (errorDepth e + bw e.halted 16)
  else if off = 0x04 then e.lost
  else if off = 0x08 then e.seq
  else if 0x10 ≤ off ∧ off < 0x28 then vget 0 e.classCount ((off - 0x10) / 4)
  else 0

/-- R344, R354: an image is being copied and verified, or written to the image store. -/
def copying (s : State) : Option Load :=
  s.cfg.load.filter fun l => s.cfg.persist || ((decide (s.cfg.phase = .stage) || decide (s.cfg.phase = .load)) && s.cfg.staged.isNone && !l.committed)

/-- CFG_PROGRESS.PCT. -/
def cfgPct (s : State) : Nat :=
  if s.cfg.phase = .prepare then preparedPct s
  else match copying s with
    | some l => 100 * l.work / max 1 l.bytes
    | none => s.cfg.pct.toNat

/-- R369: the percentage of the demand pass's range, or of the patrol pass of the least advanced die. -/
def scrubPct (s : State) : Nat :=
  match longOf s 0x38 with
  | some l =>
    let ds := scrubDies s l.cmd
    let total := ds.length * scrubLen l.cmd
    if total = 0 then 0 else 100 * (ds.map fun d => tabGetD 0 l.dieCursor d).foldl (· + ·) 0 / total
  | none => 100 * ((((presentDies s).map (patrolAt s)).min?.getD 0) % dieBytes) / dieBytes

/-- R406. -/
def prgShown (s : State) (p : Prg) : Nat :=
  if p.active ∧ (p.opcode = 0x10 ∨ p.opcode = 0x11) then cfgPct s
  else if p.active ∧ p.opcode = 0x38 then scrubPct s
  else prgPct p

def prgWord (s : State) (off : Nat) : Word :=
  if 0x100 ≤ off then 0
  else
    let p := getPrg s (off / 16)
    match off % 16 / 4 with
    | 0 => word (p.cmdId.toNat + at' 16 p.queue.toNat + at' 24 p.opcode.toNat)
    | 1 => word (prgShown s p % 256 + bw p.active 8)
    | 2 => p.doneUnits
    | _ => p.total

def cfgPhaseCode (p : CfgPhase) : Nat :=
  match p with
  | .none => 0
  | .loaded => 1
  | .stage => 2
  | .prepare => 3
  | .switch => 4
  | .rollback => 5
  | .load => 6

def switchInProgress (s : State) : Bool :=
  match s.cfg.phase with
  | .stage | .prepare | .switch | .rollback => true
  | _ => false

/-- R342: a chunk released before the last write of THM_SAT_THRESH has not been posted. -/
def satPending (s : State) : Bool :=
  match s.cfg.satMark with
  | none => false
  | some m => s.streams.any fun e => e.2.d.chunks.any fun c => c.released && !c.stopped && decide (c.ordinal < m)

/-- CFG_EPOCH.STAGED. -/
def stagedEpoch (s : State) : Nat := if switchInProgress s then (s.cfg.epoch + 1).toNat else 0

def imageIdOf (g : Option Image) : List Byte := (g.map (·.imageId)).getD (List.replicate 32 0)

def cfgWord (s : State) (off : Nat) : Word :=
  let c := s.cfg
  if off = 0x00 then word (cfgPhaseCode c.phase + bw c.wavesOn 3 + bw c.persist 4 + at' 8 c.reject.toNat + at' 16 c.abort.toNat)
  else if off = 0x04 then word (c.epoch.toNat + at' 16 (stagedEpoch s))
  else if off = 0x08 then word (cfgPct s % 256 + at' 8 c.wave.toNat + at' 16 c.waves.toNat)
  else if off = 0x0C then word (c.swDone.toNat + at' 16 c.swTotal.toNat)
  else if off = 0x10 then word (b2n (satPending s))
  else if 0x20 ≤ off ∧ off < 0x40 then bytesWord off 0x20 (imageIdOf c.cur)
  else if 0x40 ≤ off ∧ off < 0x60 then bytesWord off 0x40 (imageIdOf c.staged)
  else 0

/-! THM_ (R319). -/

/-- THM_STATUS.ADMITTED. -/
def admittedCount (s : State) : Nat :=
  (s.streams.filter fun e => match e.2.state with
    | .running | .paused | .ending => true
    | _ => false).length

def thmStatus (s : State) : Word := word (admittedCount s + at' 16 (expressCount s) + at' 24 s.thm.util.toNat)

def thmWord (s : State) (off : Nat) : Word :=
  let t := s.thm
  if off = 0x00 then word (b2n t.rebalEn + bw t.coolPlace 1)
  else if off = 0x04 then word t.utilMax.toNat
  else if off = 0x08 then word t.guard.toNat
  else if off = 0x0C then word t.ratio.toNat
  else if off = 0x10 then word (t.maxMoves.toNat + at' 8 t.hyst.toNat)
  else if off = 0x14 then word t.clkFloor.toNat
  else if off = 0x18 then word t.linkMax.toNat
  else if off = 0x1C then word t.expressMax.toNat
  else if 0x20 ≤ off ∧ off < 0x30 then
    word ((vget 0 t.cuRatio ((off - 0x20) / 4)).toNat + at' 8 (vget 0 t.lagLimit ((off - 0x20) / 4)).toNat)
  else if off = 0x40 then thmStatus s
  else if off = 0x48 ∨ off = 0x4C then part off 0x48 (b2n t.telEn + t.telAddr.toNat)
  else if off = 0x50 then t.telSeq
  else 0

/-! PWR_ (R499, R511). -/

def diesInUse (s : State) : List Nat := (List.range 12).filter (dieInUse s)

def throttled (s : State) : Bool := (diesInUse s).any fun n => decide (dieMhz s n < 320)

/-- R497 holds some die below its thermal setting. -/
def powerLimited (s : State) : Bool :=
  (diesInUse s).any fun n => decide (s.pwr.powerMhz.toNat < (vget 320 s.pwr.thermalMhz n).toNat) && decide (dieMhz s n = s.pwr.powerMhz.toNat)

/-- R493: every island of every die in use is gated. -/
def allGated (s : State) : Bool :=
  decide (0 < s.hub.coreCount.toNat) && decide ((s.cores.filter fun e => e.2.gated).length = s.hub.coreCount.toNat)

def pwrStatus (s : State) : Word :=
  word (b2n (allGated s) + bw s.pwr.resuming 2 + bw s.pwr.unclean 3 + bw (throttled s) 4 + bw (powerLimited s) 5 + bw s.clk.sysref 6 + bw s.pwr.badWrite 7)

def tempOf (s : State) (d : Nat) : Temp := vget Temp.init s.pwr.temp d

def tempWord (s : State) (d : Nat) : Word :=
  let t := tempOf s d
  word (t.t.toNat + bw t.warn 16 + bw t.limit 17)

def pwrWord (s : State) (off : Nat) : Word :=
  let p := s.pwr
  if off = 0x00 then pwrStatus s
  else if off = 0x04 then word p.limitW.toNat
  else if off = 0x08 then p.pkgMw
  else if off = 0x10 ∨ off = 0x14 then part off 0x10 p.energyJ.toNat
  else if 0x20 ≤ off ∧ off < 0x50 then
    let n := (off - 0x20) / 4
    word (dieMhz s n + at' 16 (vget 0 p.mv n).toNat + bw (p.avsFail.getLsbD n) 26)
  else if 0x60 ≤ off ∧ off < 0xB4 then vget 0 p.railMw ((off - 0x60) / 4)
  else if 0x100 ≤ off ∧ off < 0x180 then tempWord s ((off - 0x100) / 4)
  else if off = 0x20C then s.clk.rate
  else if off = 0x210 then s.clk.slewLeft
  else 0

/-! LAS_ (R441). -/

/-- Values taken from the module are known. -/
def laserKnown (l : Laser) : Bool := l.auth || l.override

/-- floor(1,000 × wear ÷ rated life), saturating. -/
def wearTenths (l : Laser) : Nat := if l.ratedH = 0 then 0 else min 0xFFFF (1000 * l.wearS.toNat / (3600 * l.ratedH.toNat))

def laserStatus (l : Laser) : Word :=
  word (b2n l.present + bw l.auth 1 + bw l.override 2 + bw l.en 3 + bw l.quiesced 4 + bw l.fault 5 + bw l.eolWarn 6 + bw l.eol 7 +
    at' 8 l.faultCause.toNat + at' 12 l.authCause.toNat)

def lasWord (s : State) (off : Nat) : Word :=
  if 0x100 ≤ off then 0
  else
    let l := getLaser s (off / 0x40)
    let o := off % 0x40
    if o = 0x00 then laserStatus l
    else if o = 0x2C then l.insertions
    else if !laserKnown l then 0
    else if o = 0x08 ∨ o = 0x0C then part o 0x08 l.serial.toNat
    else if o = 0x10 then l.ratedH
    else if o = 0x14 then word (wearTenths l)
    else if o = 0x18 ∨ o = 0x1C then part o 0x18 l.wearS.toNat
    else if o = 0x20 then word l.caseT.toNat
    else if o = 0x24 then word l.biasRatio.toNat
    else if o = 0x28 then word l.accel.toNat
    else 0

/-! PORT_ and CAS_ (R407, R425). -/

def portStatus (p : Port) : Word :=
  word (p.active.toNat + bw p.linkUp 2 + at' 3 p.lanes.toNat + bw p.laserOff 7 + bw p.badWrite 8)

def portWord (s : State) (off : Nat) : Word :=
  let p := getPort s (off / 0x100)
  let o := off % 0x100
  if o = 0x00 then word p.mode.toNat
  else if o = 0x04 then portStatus p
  else if o = 0x08 ∨ o = 0x0C then part o 0x08 p.mac.toNat
  else if o = 0x10 then word p.vlan.toNat
  else if o = 0x14 then p.ipv4
  else if o = 0x18 then word p.udpDst.toNat
  else if 0x20 ≤ o ∧ o < 0x30 then bytesWord o 0x20 (leBytes 16 p.ipv6.toNat)
  else if o = 0x30 ∨ o = 0x34 then part o 0x30 p.flowBase.toNat
  else if o = 0x38 then word p.flowCount.toNat
  else if o = 0x3C then word (b2n p.egrEn + bw p.egrV6 1)
  else if o = 0x40 ∨ o = 0x44 then part o 0x40 p.egrMac.toNat
  else if o = 0x48 then p.egrIpv4
  else if o = 0x4C then word (p.egrDst.toNat + at' 16 p.egrSrc.toNat)
  else if 0x50 ≤ o ∧ o < 0x60 then bytesWord o 0x50 (leBytes 16 p.egrIpv6.toNat)
  else if 0x80 ≤ o ∧ o < 0xA0 then
    part (o % 8) 0 (vget 0 p.long ((o - 0x80) / 8)).toNat
  else if 0xA0 ≤ o ∧ o < 0xF0 then vget 0 p.ctr ((o - 0xA0) / 4)
  else 0

def casWord (s : State) (off : Nat) : Word :=
  let c := s.cas
  if off = 0x00 then word (c.topo.toNat + at' 2 c.size.toNat + bw c.localOn 6)
  else if off = 0x04 then
    word (c.state.toNat + at' 3 c.cause.toNat + at' 7 c.master.toNat + bw c.badWrite 11 + at' 16 c.members.toNat)
  else if off = 0x08 then c.timeOffset
  else if off = 0x10 ∨ off = 0x14 then part off 0x10 c.xrBase.toNat
  else if off = 0x18 then word c.xrCount.toNat
  else if off = 0x20 then c.remote
  else if off = 0x24 then c.remoteData
  else if off = 0x28 then word (b2n c.remoteErr)
  else if off = 0x2C then c.hbMiss
  else if 0x40 ≤ off ∧ off < 0x80 then word (vget 0 c.peers ((off - 0x40) / 4)).toNat
  else 0

/-! BBX_, JNL_, SEC_, BOOT_ (R466, R484). -/

def bbxWord (s : State) (off : Nat) : Word :=
  let b := s.bay
  if off = 0x00 then word (b2n b.opened + bw b.bad0 1 + bw b.bad1 2 + bw b.wrapped 3 + bw (decide (b.waitingIn ≠ [])) 4)
  else if off = 0x04 then word b.head.toNat
  else if off = 0x08 then b.seq
  else if off = 0x0C then b.summarised
  else if off = 0x10 then b.waits
  else if off = 0x14 then word b.readIndex.toNat
  else if off = 0x18 then word (b2n b.readValid + bw b.readCopy 1)
  else if off = 0x1C then b.dropped
  else if 0x40 ≤ off ∧ off < 0x80 then nth b.readData ((off - 0x40) / 4)
  else 0

def jnlWord (s : State) (off : Nat) : Word :=
  let j := s.jnl
  if off = 0x800 then word (b2n j.mounted + bw j.compacting 1 + bw j.bad0 2 + bw j.bad1 3 + bw j.full 4)
  else if off = 0x804 then j.gen
  else if off = 0x808 then word j.fill.toNat
  else if off = 0x80C then word (liveBytes (journal s))
  else if off = 0x810 then word j.pct.toNat
  else if off = 0x818 ∨ off = 0x81C then part off 0x818 j.seq.toNat
  else if off = 0x820 then j.torn
  else if off = 0x824 then j.commits
  else 0

/-- R456, R514: a word of the management bus's map (Table 15.5), which HD1 serves from power-good onward; a head that nothing has
found yet reads 0 (log entry 104). -/
def mgmtWord (s : State) (addr : Nat) : Word :=
  let b := s.bay
  let found := if b.opened then some (b.head, b.seq) else b.mgmtHead
  if addr = 0x0000 then 0x52554946
  else if 0x0004 ≤ addr ∧ addr < 0x000C then bytesWord addr 0x0004 (leBytes 8 s.fixed.serial.toNat)
  else if addr = 0x000C then (if s.hub.fwRunning then hubStatus s else 0)
  else if addr = 0x0010 then word (b2n s.hub.fwRunning + bw s.hub.halted 1 + bw b.opened 2)
  else if 0x0100 ≤ addr ∧ addr < 0x0180 then tempWord s ((addr - 0x0100) / 4)
  else if addr = 0x1000 then word b.mgmtIndex.toNat
  else if addr = 0x1004 then (found.map (·.2)).getD 0
  else if addr = 0x1008 then word ((found.map (·.1.toNat)).getD 0)
  else if addr = 0x100C then word (b2n b.mgmtValid + bw b.mgmtCopy 1)
  else if 0x1040 ≤ addr ∧ addr < 0x1080 then nth b.mgmtData ((addr - 0x1040) / 4)
  else 0

/-- Bits of the owner slots. -/
def slotBits (f : OwnerSlot → Bool) (s : State) : Nat :=
  (List.range 4).foldl (fun a i => a + bw (f (vget OwnerSlot.init s.sec.slots i)) i) 0

/-- 600 s. -/
def challengeNs : Nat := 600000000000

/-- R482: a challenge is outstanding and has not lapsed. -/
def challengeLive (s : State) : Bool := s.sec.challengeOut && decide (now s < s.sec.challengeAt.toNat + challengeNs)

/-- R480. -/
def deviceId : List Byte := Config.shake256 64 Config.identityKey

/-- Table 16.4 and Table 16.5: the payload of a START_LOG record. -/
def startLogWords (g : StartLog) : List Word :=
  [g.start, word (g.cause.toNat + bw g.cleared 4 + bw g.degraded 5), g.durationMs, word (g.fwVersion.toNat + bw g.fwCopy 16), 0, 0, 0, 0] ++
  g.steps.toList.flatMap fun e =>
    [word (e.outcome.toNat + at' 3 e.level.toNat + at' 8 e.attempts.toNat + at' 12 e.reason.toNat), word e.unitFail.toNat, e.unitLevel, 0]

def startLogBytes (g : StartLog) : List Byte := padTo 256 (bytesOfWords (startLogWords g))

def secWord (s : State) (off : Nat) : Word :=
  let c := s.sec
  let b := s.boot
  if off = 0x00 then
    word (slotBits (·.programmed) s + at' 4 (slotBits (·.revoked) s) + bw c.fwCopy 8 + at' 12 c.scope.toNat + bw (challengeLive s) 16)
  else if off = 0x04 then word c.fwVersion.toNat
  else if off = 0x08 then c.fwCounter
  else if off = 0x0C then word (imgCounter s)
  else if off = 0x10 ∨ off = 0x14 then part off 0x10 c.ovrSeq.toNat
  else if off = 0x20 then word c.dbgScope.toNat
  else if 0x40 ≤ off ∧ off < 0x70 then bytesWord off 0x40 c.challenge
  else if 0x80 ≤ off ∧ off < 0xC0 then bytesWord off 0x80 deviceId
  else if off = 0x800 then word (b.step.toNat + at' 4 b.level.toNat + at' 8 b.attempts.toNat + bw b.haltedInStart 12)
  else if off = 0x804 then b.startCount
  else if off = 0x808 then word b.restarts.toNat
  else if off = 0x80C then word (b2n b.clearLevels)
  else if 0x900 ≤ off ∧ off < 0xA00 then bytesWord off 0x900 (startLogBytes b.log)
  else 0

/-! MMU_ with its fault table (R375, R379). -/

def faultWord (s : State) (id i : Nat) : Word :=
  match tabGet s.mmu.faults id with
  | none => 0
  | some e =>
    if i < 2 then part i 0 e.va.toNat
    else if i = 2 then word (e.kind.toNat + bw e.write 3 + bw true 4 + at' 8 e.pool.toNat + at' 16 (min 0xFFFF e.waiters.length))
    else word ((e.waiters.head?.map (·.1.toNat)).getD 0)

def mmuWord (s : State) (off : Nat) : Word :=
  let m := s.mmu
  if 0x1000 ≤ off ∧ off < 0x5000 then faultWord s ((off - 0x1000) / 16) (off % 16 / 4)
  else if off = 0x00 then word (b2n m.badResume + bw m.aperMiss 1 + bw (decide (m.faults.length = 1024)) 2)
  else if off = 0x04 then word m.faults.length
  else if off = 0x08 ∨ off = 0x0C then part off 0x08 (m.root.toNat / 8192 * 8192)
  else if off = 0x10 ∨ off = 0x14 then part off 0x10 m.invalVa.toNat
  else if off = 0x18 then word (m.invalPages.toNat + bw m.invalGo 31)
  else if off = 0x28 ∨ off = 0x2C then part off 0x28 m.aperBase.toNat
  else if off = 0x30 then word s.hub.cd.toNat
  else if off = 0x34 then m.ce
  else if off = 0x38 then m.ue
  else if off = 0x3C then m.poisonCount
  else if off = 0x40 then word (b2n m.scrubEn)
  else if off = 0x44 then word (scrubPct s % 256 + bw (longOf s 0x38).isSome 8)
  else if off = 0x48 then m.passes
  else if off = 0x50 ∨ off = 0x54 then part off 0x50 m.lastUe.toNat
  else 0

/-! STE_ (R281). -/

def steStateCode (x : SteState) : Nat :=
  match x with
  | .free => 0
  | .idle => 1
  | .starting => 2
  | .running => 3
  | .paused => 4
  | .ending => 5
  | .ended => 6
  | .faulted => 7

/-- R282, R340: PARAM_PENDING: no chunk released since the write, or one released before it is not posted (log entry 100). -/
def paramPending (x : Stream) : Bool :=
  x.r.paramPending || match x.d.paramMark with
    | some m => x.d.chunks.any fun c => c.released && !c.stopped && decide (c.num.toNat < m.toNat)
    | none => false

/-- STE_STATUS. -/
def steStatus (x : Stream) : Word :=
  word (steStateCode x.state + at' 8 x.r.cause.toNat + bw x.r.lagging 16 + bw x.r.overrun 17 + bw (decide (x.d.formats ≠ [])) 18 + bw x.r.gap 19 +
    bw (paramPending x) 20 + bw x.r.carry 21)

def steWord (s : State) (off : Nat) : Word :=
  let x := getStream s (off / 0x100)
  let r := x.r
  let o := off % 0x100
  if o = 0x00 then
    word (bw r.reset 3 + bw r.express 4 + bw r.keepState 5 + bw r.adaptEn 6 + bw r.cont 7 + at' 8 r.dclass.toNat + at' 16 r.ownerTag.toNat)
  else if o = 0x04 then steStatus x
  else if o = 0x08 then word (r.placement.toNat + at' 16 r.model.toNat)
  else if o = 0x0C then r.periodUs
  else if o = 0x10 then r.delayUs
  else if o = 0x18 ∨ o = 0x1C then part o 0x18 r.statePtr.toNat
  else if o = 0x20 ∨ o = 0x24 then part o 0x20 r.initPtr.toNat
  else if o = 0x28 ∨ o = 0x2C then part o 0x28 r.kvTable.toNat
  else if o = 0x30 ∨ o = 0x34 then part o 0x30 r.inRing.toNat
  else if o = 0x38 ∨ o = 0x3C then part o 0x38 r.outRing.toNat
  else if o = 0x40 ∨ o = 0x44 then part o 0x40 r.position.toNat
  else if o = 0x48 then r.lagUs
  else if o = 0x4C then r.lagMaxUs
  else if o = 0x50 ∨ o = 0x54 then part o 0x50 r.chunksDone.toNat
  else if o = 0x58 then r.lateCount
  else if o = 0x5C then r.rerunCount
  else if o = 0x60 then r.satCount
  else if 0x80 ≤ o then vget 0 r.param ((o - 0x80) / 4)
  else 0

/-! The debug window (R482, log entry 60). -/

/-- A word last written under a grant; else an unstated value, or 0 without the right to read. -/
def debugWord (s : State) (off : Nat) : Word :=
  if s.sec.scope.getLsbD 0 then (tabGet s.hub.scratch off).getD (BitVec.ofNat 32 (Config.freeBits (s.fresh + off))) else 0

/-! The map (Table 12.3). -/

/-- The 32-bit word at an offset of BAR0 that is a multiple of 4. -/
def regWord (s : State) (off : Nat) : Word :=
  let o := off % 0x1000
  match off / 0x1000 with
  | 0x0 => hubWord s o
  | 0x1 => queWord s o
  | 0x2 => evtWord s o
  | 0x3 => prgWord s o
  | 0x4 => cfgWord s o
  | 0x5 => thmWord s o
  | 0x6 => pwrWord s o
  | 0x7 => lasWord s o
  | 0x8 => portWord s o
  | 0x9 => casWord s o
  | 0xA => if o < 0x800 then bbxWord s o else jnlWord s o
  | 0xB => secWord s o
  | blk =>
    if blk < 0x11 then mmuWord s (off - 0xC000)
    else if 0x11000 ≤ off ∧ off < 0x11400 then memWord s.que.msix (off - 0x11000)
    else if off = 0x12000 ∨ off = 0x12004 then part off 0x12000 s.que.pba.toNat
    else if 0x100000 ≤ off ∧ off < 0x200000 then steWord s (off - 0x100000)
    else if 0x1000000 ≤ off then debugWord s (off - 0x1000000)
    else 0

/-- R12: an offset is the low word of a 64-bit register. The VA of a fault entry (W0-W1 of Table 11.6) counts as two words of
the table and not as a register that latches (log entry 98). -/
def isReg64 (off : Nat) : Bool :=
  let o := off % 0x1000
  match off / 0x1000 with
  | 0x0 => decide (o ∈ [0x28, 0x30])
  | 0x1 => (decide (o < 0x100) && decide (o % 0x40 ∈ [0x00, 0x18])) || decide (o = 0x100)
  | 0x5 => decide (o = 0x48)
  | 0x6 => decide (o ∈ [0x10, 0x200])
  | 0x7 => decide (o < 0x100) && decide (o % 0x40 ∈ [0x08, 0x18])
  | 0x8 => decide (o % 0x100 ∈ [0x08, 0x30, 0x40, 0x80, 0x88, 0x90, 0x98])
  | 0x9 => decide (o = 0x10)
  | 0xA => decide (o = 0x818)
  | 0xB => decide (o = 0x10)
  | 0xC => decide (o ∈ [0x08, 0x10, 0x28, 0x50])
  | 0x12 => decide (o = 0)
  | _ => decide (0x100000 ≤ off) && decide (off < 0x200000) && decide (off % 0x100 ∈ [0x18, 0x20, 0x28, 0x30, 0x38, 0x40, 0x50])

end Sys2Proof.Machine
end

