-- ==== Sys2Proof/Machine/Power.lean ====
section
/-! DEFINITION. Clocks, temperatures, the power limit and the steering of device time (R489, R493, R497, R499-R508,
R511, R512). -/

namespace Sys2Proof.Machine

/-! Clock settings (R499). -/

/-- The smallest setting at or above THM_CLK_FLOOR. -/
def lowestMhz (s : State) : Nat := 160 + alignUp (s.thm.clkFloor.toNat - 160) 16

/-- One step down, no lower than the lowest setting that Thyme uses. -/
def stepDown (s : State) (m : Nat) : Nat := if lowestMhz s + 16 ≤ m then m - 16 else m

/-- One step up. -/
def stepUp (m : Nat) : Nat := min 320 (m + 16)

/-- R489, R500: the voltages that the device requests for the settings as they stand; a regulator that does not answer
keeps its own. -/
def requestVoltages (s : State) : State :=
  { s with pwr.mv := Vector.ofFn fun (i : Fin 12) =>
      if dieInUse s i.val && !s.pwr.avsFail.getLsbD i.val then Config.avsVoltage i.val (dieMhz s i.val) else vget 0 s.pwr.mv i.val }

def setBit12 (v : BitVec 12) (i : Nat) : BitVec 12 := v ||| BitVec.ofNat 12 (2 ^ i)
def clearBit12 (v : BitVec 12) (i : Nat) : BitVec 12 := v &&& ~~~(BitVec.ofNat 12 (2 ^ i))

/-- R489: the regulator of VDD_CDn does not answer. -/
def execAvsRegulatorFail (die : BitVec 4) (s : State) : Out :=
  .next (if die.toNat < 12 ∧ agentsOn s then requestVoltages { s with pwr.avsFail := setBit12 s.pwr.avsFail die.toNat } else s)

/-- R493: an island with nothing to do gates its clock; a grant has work while an access of it is on the mesh. -/
def islandIdle (s : State) (c : CoreId) (k : Core) : Bool :=
  decide (k.taken = []) && decide (k.ops = []) && decide (k.reqs = []) &&
  (k.rings.toList.all fun r => !(r.fwd && r.en && decide (r.slots ≠ []))) && !s.mesh.any fun m => decide (msgDst m = c)

def execIslandClockGate (core : CoreId) (s : State) : Out :=
  withCore core (fun k s => if islandIdle s core k then setCore s core.toNat { k with gated := true } else s) s

/-! Temperatures (R503, R504, R508). -/

/-- Table 17.7 in 1/16 °C, for PWR_TEMPd: warning, operating maximum, trip. -/
def tempLimits (d : Nat) : Int × Int × Int :=
  if d < 12 then (1600, 1680, 1840)
  else if d < 24 then (1440, 1520, 1680)
  else if d < 28 then (1280, 1360, 1520)
  else if d < 30 then (1520, 1680, 1840)
  else (1280, 1360, 1520)

/-- Die kind and index of Table 17.8. -/
def dieKind (d : Nat) : Nat × Nat :=
  if d < 12 then (0, d) else if d < 24 then (1, d - 12) else if d < 28 then (2, d - 24) else if d < 30 then (3, d - 28) else (4, d - 30)

/-- R511: the die is powered and in use. -/
def diePowered (s : State) (d : Nat) : Bool :=
  if d < 12 then dieInUse s d && !s.pwr.hot
  else if d < 24 then dieInUse s (d - 12)
  else if d < 28 then s.hub.od.getLsbD (d - 24) && !s.pwr.hot
  else if d < 30 then true
  else s.fixed.ndMounted.getLsbD (d - 30)

def setTemp (s : State) (d : Nat) (t : Temp) : State := { s with pwr.temp := vset s.pwr.temp d t }

/-- The device acts on temperatures once a start has begun, in safe halt as well (log entry 61). -/
def monitorOn (s : State) : Bool := !s.hub.resetLow && !s.hub.holdUp && decide (s.boot.step ≠ 0)

/-- A reading at or above a limit; 0x8000 is none. -/
def atLeast (t : Half) (lim : Int) : Bool := decide (t ≠ 0x8000) && decide (lim ≤ t.toInt)

/-- Table 17.8. -/
def thermalDetail (s : State) (d : Nat) (t : Half) (held : Bool) : List Word :=
  let k := dieKind d
  [0, 0, word (k.1 + at' 4 k.2 + bw held 8), t.zeroExtend 32, word (if k.1 ≤ 1 then dieMhz s k.2 else 0)]

/-- The reading of one die is stored; a die that reaches its warning limit raises THERMAL_WARN once an episode. -/
def sampleDie (readings : List Half) (s : State) (d : Nat) : State :=
  let t := if diePowered s d then readings.getD d 0x8000 else 0x8000
  let o := tempOf s d
  let warm := atLeast t (tempLimits d).1
  let s := setTemp s d { o with t := t, warn := o.warn || warm, wasAbove := o.wasAbove || warm, coolWindow := o.coolWindow && !warm }
  if warm && !o.warn && monitorOn s then raisePlain 0x0901 (thermalDetail s d t false) s else s

/-- Either die of a stack stands at or above a limit chosen from Table 17.7. -/
def stackAt (s : State) (n : Nat) (lim : Int × Int × Int → Int) : Bool :=
  atLeast (tempOf s n).t (lim (tempLimits n)) || atLeast (tempOf s (n + 12)).t (lim (tempLimits (n + 12)))

/-- LIMIT of both dies of a stack. -/
def markLimit (n : Nat) (s : State) : State :=
  let put (s : State) (d : Nat) : State :=
    let t := tempOf s d
    setTemp s d { t with limit := t.limit || atLeast t.t (tempLimits d).2.1 }
  put (put s n) (n + 12)

/-- R504: the hardware clamp of one stack, and its end below the warning limit. -/
def clampStack (s : State) (n : Nat) : State :=
  if stackAt s n (·.2.1) then
    let since := (tabGet s.pwr.limitSince n).getD s.clk.time
    let held := tabPut s.pwr.limitSince n since
    markLimit n { s with pwr.clamped := setBit12 s.pwr.clamped n, pwr.limitSince := held }
  else
    let s := { s with pwr.limitSince := tabDel s.pwr.limitSince n }
    if s.pwr.clamped.getLsbD n && !stackAt s n (·.1) then
      let s := { s with pwr.clamped := clearBit12 s.pwr.clamped n, pwr.thermalMhz := vset s.pwr.thermalMhz n 160 }
      setTemp (setTemp s n { tempOf s n with limit := false }) (n + 12) { tempOf s (n + 12) with limit := false }
    else s

/-- R505: THERMAL_TRIP. The pin falls once its entry is written (BAY_ENTRY_WRITE), at once where the Bay record is not open. -/
def thermalTrip (d : Nat) (held : Bool) (s : State) : State :=
  let s := raisePlain 0x0902 (thermalDetail s d (tempOf s d).t held) s
  if s.bay.opened then s else { s with hub.thermTripN := false }

/-- The dies that reach their trip limit with this sample. -/
def tripDies (old s : State) : List Nat :=
  (List.range 32).filter fun d => atLeast (tempOf s d).t (tempLimits d).2.2 && !atLeast (tempOf old d).t (tempLimits d).2.2

def takeSample (readings : List Half) (s : State) : State :=
  let s1 := (List.range 32).foldl (sampleDie readings) s
  if !monitorOn s1 then s1
  else
    let s2 := requestVoltages ((List.range 12).foldl clampStack s1)
    (tripDies s s2).foldl (fun s d => thermalTrip d false s) s2

/-- R503: the readings come in the order of PWR_TEMPd; HD1 takes them from power-good onward (R514). -/
def execTemperatureSample (readings : List Half) (s : State) : Out :=
  .next (if s.hub.powerGood && !s.hub.holdUp then takeSample readings s else s)

/-- R504: a stack has stood at or above its operating maximum for 100 ms at 160 MHz. -/
def execOperatingMaximumHoldExpiry (stack : BitVec 4) (s : State) : Out :=
  let n := stack.toNat
  match (if monitorOn s && decide (n < 12) then tabGet s.pwr.limitSince n else none) with
  | none => .next s
  | some t =>
    let d := if atLeast (tempOf s n).t (tempLimits n).2.1 then n else n + 12
    let s := advanceTo s (t.toNat + 100000000)
    .next (thermalTrip d true { s with pwr.limitSince := tabDel s.pwr.limitSince n })

/-! Thyme's throttling and the power limit, at a decision (R317, R497). -/

/-- Both dies of a stack have been below their warning limit for the last full window. -/
def stackCool (s : State) (n : Nat) : Bool := (tempOf s n).coolWindow && (tempOf s (n + 12)).coolWindow

/-- R317: one compute die's thermal setting. -/
def throttleDie (s : State) (n : Nat) : State :=
  let m := (vget 320 s.pwr.thermalMhz n).toNat
  let put (x : Nat) : State := { s with pwr.thermalMhz := vset s.pwr.thermalMhz n (BitVec.ofNat 9 x) }
  if !dieInUse s n ∨ s.pwr.clamped.getLsbD n then s
  else if stackAt s n (·.1) then put (stepDown s m)
  else if stackCool s n then put (stepUp m)
  else s

/-- R497: the power setting. -/
def limitPower (s : State) : State :=
  let p := s.pwr.pkgMw.toNat
  let lim := 1000 * s.pwr.limitW.toNat
  let low := decide (100 * p ≤ 95 * lim)
  let s := { s with pwr.lowSoFar := s.pwr.lowSoFar && low, pwr.lowPower := s.pwr.lowPower && low }
  let m := s.pwr.powerMhz.toNat
  if lim < p then { s with pwr.powerMhz := BitVec.ofNat 9 (stepDown s m) }
  else if s.pwr.lowPower then { s with pwr.powerMhz := BitVec.ofNat 9 (stepUp m) }
  else s

def setClocks (s : State) : State := requestVoltages (limitPower ((List.range 12).foldl throttleDie s))

/-- R317, R504: at the end of a window, a die that has been below its warning limit for all of it ends its episode. -/
def tempWindow (s : State) : State :=
  (List.range 32).foldl (fun s d =>
    let t := tempOf s d
    setTemp s d { t with coolWindow := !t.wasAbove, warn := t.warn && t.wasAbove, wasAbove := atLeast t.t (tempLimits d).1 }) s

def powerWindow (s : State) : State := { s with pwr.lowPower := s.pwr.lowSoFar, pwr.lowSoFar := true }

/-! Device time (R501, R502, R511, R512). -/

def pwrBad (s : State) : State := { s with pwr.badWrite := true }

def timeSet (v : DWord) (s : State) : State :=
  if timeFollows s ∨ deviceRunning s then pwrBad s
  else { s with clk := { s.clk with time := v, frac := 0, tickAt := v, decisionAt := v, windowAt := v } }

def timeSlew (v : Word) (s : State) : State :=
  if timeFollows s then pwrBad s else { s with clk.slewLeft := s.clk.slewLeft + v, clk.slewFrac := 0 }

def timeRate (v : Word) (s : State) : State :=
  if timeFollows s ∨ v.toInt < -100000 ∨ 100000 < v.toInt then pwrBad s else { s with clk.rate := v }

/-- R511: 200-750 W, or 200-600 W on an MKF3072. -/
def limitWrite (v : Word) (s : State) : State :=
  let w := fld v 0 10
  if w < 200 ∨ (if s.fixed.variant = 1 then 600 else 750) < w then pwrBad s else { s with pwr.limitW := BitVec.ofNat 10 w }

def execPwrTimeSet (value : DWord) (s : State) : Out := hostWrite (timeSet value) s
def execPwrTimeSlew (value : Word) (s : State) : Out := hostWrite (timeSlew value) s
def execPwrTimeRate (value : Word) (s : State) : Out := hostWrite (timeRate value) s
def execPwrLimitWWrite (value : Word) (s : State) : Out := hostWrite (limitWrite value) s

/-- R501: device time leaves its lock. -/
def execSysrefLoss (s : State) : Out := .next { s with clk.sysref := false }

/-- R507: the level of ALERT_N is low. -/
def alertLow (s : State) : Bool :=
  s.hub.halted || (s.pwr.temp.toList.any fun t => t.warn || t.limit) || s.las.toList.any (·.fault)

/-- R502, R511: a write in the PWR_ block. -/
def pwrWrite (off : Nat) (v : DWord) (s : State) : State :=
  let w : Word := v.truncate 32
  if off = 0x00 then
    { s with pwr.unclean := s.pwr.unclean && !bit w 3, pwr.badWrite := s.pwr.badWrite && !bit w 7 }
  else if off = 0x04 then limitWrite w s
  else if off = 0x200 then timeSet v s
  else if off = 0x208 then timeSlew w s
  else if off = 0x20C then timeRate w s
  else s

end Sys2Proof.Machine
end

