-- ==== Sys2Proof/Machine/Quanak.lean ====
section
/-! DEFINITION. The Quanak link (R421-R424) and the forming, routes and loss of a cascade (R425-R430). -/

namespace Sys2Proof.Machine

def getLink (s : State) (p : Nat) : Link := (getPort s p).link
def modLink (s : State) (p : Nat) (f : Link → Link) : State := modPort s p fun x => { x with link := f x.link }

/-- The port carries a Quanak link that is up. -/
def quanakUp (s : State) (p : Nat) : Bool :=
  let x := getPort s p
  decide (x.active = 2) && x.linkUp && !x.link.lost

/-! Flits (Table 13.6). -/

structure Flit where
  seq : Nat
  ack : Nat
  type : Nat
  vc : Nat
  credits : Nat
  creditVc : Nat
  dst : Nat
  src : Nat
  payload : List Byte
  deriving DecidableEq, Repr

def flitField (bs : List Byte) (lo n : Nat) : Nat := (natAt bs 0 8 >>> lo) % 2 ^ n

def flitOf (bs : List Byte) : Flit :=
  { seq := flitField bs 0 12, ack := flitField bs 12 12, type := flitField bs 24 4, vc := flitField bs 28 2
    credits := flitField bs 32 8, creditVc := flitField bs 40 2, dst := flitField bs 48 4, src := flitField bs 52 4
    payload := (bs.drop 8).take (min 244 (flitField bs 56 8)) }

def flitBytes (f : Flit) : List Byte :=
  let h := f.seq + at' 12 f.ack + at' 24 f.type + at' 28 f.vc + at' 32 f.credits + at' 40 f.creditVc + at' 48 f.dst + at' 52 f.src +
    at' 56 (min 244 f.payload.length)
  let b := leBytes 8 h ++ padTo 244 f.payload
  b ++ leBytes 4 (crc32 b).toNat

/-- A flit's CRC holds. -/
def flitOk (bs : List Byte) : Bool := decide (bs.length = 256) && decide ((crc32 (bs.take 252)).toNat = natAt bs 252 4)

/-! Sending (R422, R423). -/

/-- The virtual channel whose freed buffer goes into the next header, with its count. -/
def creditsDue (l : Link) : Nat × Nat :=
  match (List.range 4).find? fun v => decide (0 < vget 0 l.rxBuf v) with
  | some v => (v, min 255 (vget 0 l.rxBuf v))
  | none => (0, 0)

/-- A flit leaves with ACK and the credits due in its header. -/
def transmit (p : Nat) (f : Flit) (s : State) : State :=
  let l := getLink s p
  let c := creditsDue l
  let bs := flitBytes { f with ack := (l.rxSeq.toNat + 4095) % 4096, credits := c.2, creditVc := c.1 }
  modPort s p fun x => { x with
    tx := x.tx ++ [bs], link.rxBuf := vmod 0 x.link.rxBuf c.1 fun n => n - c.2
    link.replay := if f.type = 1 then x.link.replay ++ [bs] else x.link.replay }

/-- A flit that carries no data: idle, or a retry request. -/
def plainFlit (s : State) (type : Nat) : Flit :=
  { seq := 0, ack := 0, type := type, vc := 3, credits := 0, creditVc := 0, dst := 0, src := s.hub.cascId.toNat, payload := [] }

/-- The oldest waiting flit whose channel holds a credit, and the rest; a channel's own flits keep their order. -/
def nextFlit (l : Link) : List (List Byte) → Option (List Byte × List (List Byte))
  | [] => none
  | b :: r => if 0 < vget 0 l.credits (flitOf b).vc then some (b, r) else (nextFlit l r).map fun q => (q.1, b :: q.2)

/-- R422, R423: waiting flits are sent while a credit and room in the replay buffer last. -/
def pump : Nat → Nat → State → State
  | 0, _, s => s
  | n + 1, p, s =>
    let l := getLink s p
    if !quanakUp s p || decide (2048 ≤ l.replay.length) then s
    else match nextFlit l l.outbox with
      | none => s
      | some (b, rest) =>
        let f := flitOf b
        let s := modLink s p fun l => { l with outbox := rest, credits := vmod 0 l.credits f.vc (· - 1), txSeq := l.txSeq + 1 }
        pump n p (transmit p { f with seq := l.txSeq.toNat } s)

def pumpAll (p : Nat) (s : State) : State := pump (getLink s p).outbox.length p s

/-- A data flit joins the port's waiting flits. -/
def enqueueFlit (p vc dst : Nat) (payload : List Byte) (s : State) : State :=
  let f : Flit := { seq := 0, ack := 0, type := 1, vc := vc, credits := 0, creditVc := 0, dst := dst, src := s.hub.cascId.toNat, payload := payload }
  pumpAll p (modLink s p fun l => { l with outbox := l.outbox ++ [flitBytes f] })

/-- R423: every unacknowledged flit from ACK + 1 is sent again, in order. -/
def resendFrom (p ack : Nat) (s : State) : State :=
  let l := getLink s p
  let gone := (ack + 4096 - l.acked.toNat) % 4096
  let l' := if gone ≤ l.replay.length then { l with replay := l.replay.drop gone, acked := BitVec.ofNat 12 ack } else l
  let s := modPort s p fun x => { x with link := l', tx := x.tx ++ l'.replay }
  bumpCtr p ctrCasReplay 1 s

/-- The payloads of the flits that carry a message: 244 bytes each, at least one. -/
def payloads : Nat → List Byte → List (List Byte)
  | 0, bs => [bs.take 244]
  | n + 1, bs => if bs.length ≤ 244 then [bs] else bs.take 244 :: payloads n (bs.drop 244)

/-- A message leaves on a port (log entry 62). -/
def enqueueMsg (p vc dst : Nat) (m : Config.CasMsg) (s : State) : State :=
  let bs := Config.casEncode m
  (payloads (bs.length / 244) bs).foldl (fun s q => enqueueFlit p vc dst q s) s

/-! Topologies and routes (Table 13.8). -/

/-- Packages of the cascade that CAS_CTRL asks for. -/
def casSize (s : State) : Nat := s.cas.size.toNat + 1

def casMe (s : State) : Nat := s.hub.cascId.toNat

/-- Neighbours of package i. -/
def neighbours (topo n i : Nat) : List Nat :=
  (match topo with
  | 1 => [(i + 1) % n, (i + n - 1) % n]
  | 2 => (List.range 4).filter (· ≠ i)
  | 3 => [i / 4 * 4 + (i + 1) % 4, i / 4 * 4 + (i + 3) % 4, (i + 4) % 16, (i + 12) % 16]
  | _ => []).eraseDups

/-- One step along a ring of n, the shorter way; on a tie, ascending. -/
def ringStep (n a b : Nat) : Nat := if 2 * ((b + n - a) % n) ≤ n then (a + 1) % n else (a + n - 1) % n

/-- The next package on the route from one to another. -/
def nextHop (topo n a b : Nat) : Nat :=
  match topo with
  | 1 => ringStep n a b
  | 2 => b
  | 3 => if a % 4 ≠ b % 4 then a / 4 * 4 + ringStep 4 (a % 4) (b % 4) else ringStep 4 (a / 4) (b / 4) * 4 + a % 4
  | _ => b

/-- The ports of the bundle to a neighbour. -/
def bundleTo (s : State) (id : Nat) : List Nat :=
  (List.range 16).filter fun p =>
    let e := (vget 0 s.cas.peers p).toNat
    quanakUp s p && decide (e / 16 % 2 = 1) && decide (e % 16 = id)

/-- R426, R429: the port that traffic to a package takes; `key` chooses within a bundle. -/
def portTo (s : State) (dst key : Nat) : Option Nat :=
  let b := bundleTo s (nextHop s.cas.topo.toNat (casSize s) (casMe s) dst)
  match b with
  | [] =>
    let up := (List.range 16).filter (quanakUp s)
    up[Config.casDetour (casMe s) dst up % max 1 up.length]?
  | p :: r => (p :: r)[key % (r.length + 1)]?

/-- A message leaves for another package. -/
def sendMsg (vc dst key : Nat) (m : Config.CasMsg) (s : State) : State :=
  match portTo s dst key with
  | some p => enqueueMsg p vc dst m s
  | none => s

/-! Forming (R426). -/

def myIdent (s : State) : BitVec 4 × Bool × BitVec 2 × BitVec 4 := (s.hub.cascId, s.hub.cascMstr, s.cas.topo, s.cas.size)

/-- All identities known, the package's own first. -/
def identities (s : State) : List (BitVec 4 × Bool × BitVec 2 × BitVec 4) := myIdent s :: s.cas.idents

/-- The first cause that keeps the cascade from forming, or 0. -/
def formCause (s : State) : Nat :=
  let ids := identities s
  let masters := (ids.filter (·.2.1)).length
  let near := neighbours s.cas.topo.toNat (casSize s) (casMe s)
  let up := (List.range 16).filter fun p => quanakUp s p && (vget 0 s.cas.peers p).getLsbD 4
  if masters = 0 then 1
  else if masters ≠ 1 then 2
  else if !(ids.map (·.1)).Nodup then 3
  else if (ids.any fun i => decide (i.2.2 ≠ (s.cas.topo, s.cas.size))) || (ids.any fun i => decide (casSize s ≤ i.1.toNat)) ||
      up.any (fun p => !near.contains ((vget 0 s.cas.peers p).toNat % 16)) then 4
  else if (near.any fun i => decide (bundleTo s i = [])) || (List.range (casSize s)).any (fun i => !ids.any fun j => decide (j.1.toNat = i)) then 5
  else 0

def memberMask (s : State) : Half := BitVec.ofNat 16 ((List.range (casSize s)).foldl (fun m i => m + 2 ^ i) 0)

/-- R430: the holds that a re-formed cascade keeps: streams that reach a package that is no longer a member. -/
def settleHolds (s : State) : State :=
  mapStreams (fun _ x =>
    { x with d.casHeld := x.state ≠ .free && (routesOf s x).any fun e => !s.cas.members.getLsbD e.member }) s

/-- R428: every cross-route entry holds its CREDITS for every core when the cascade forms. -/
def formCascade (s : State) : State :=
  let m := ((identities s).find? (·.2.1)).map (·.1)
  settleHolds { s with
    cas.state := 2, cas.cause := 0, cas.master := m.getD 0, cas.members := memberMask s, cas.localOn := false
    cas.oldMembers := memberMask s, cas.lastBeat := s.clk.time, cas.xrCredits := [] }

/-- FORMING, or SAFE whose master is back, becomes FORMED when every member agrees. -/
def formIfReady (s : State) : State := if (s.cas.state = 1 ∨ s.cas.state = 4) ∧ formCause s = 0 then formCascade s else s

/-- R426: a trained link exchanges identities on VC 3. -/
def sendIdent (p : Nat) (s : State) : State :=
  if s.cas.topo = 0 then s
  else enqueueMsg p 3 (casMe s) (.ident s.hub.cascId s.hub.cascMstr s.cas.topo s.cas.size) s

/-- R425: a write of CAS_CTRL without its LOCAL bit. -/
def casTopo (v : Word) (s : State) : State :=
  let t : BitVec 2 := BitVec.ofNat 2 (fld v 0 2)
  let n : BitVec 4 := BitVec.ofNat 4 (fld v 2 4)
  let c := s.cas
  if c.state = 0 ∨ c.state = 3 then
    let s := { s with
      cas.topo := t, cas.size := n, cas.state := if t = 0 then 0 else 1, cas.cause := 0, cas.members := 0, cas.master := 0
      cas.idents := [], cas.formSince := s.clk.time, cas.localOn := false }
    formIfReady (((List.range 16).filter (quanakUp s)).foldl (fun s p => sendIdent p s) s)
  else if t ≠ c.topo ∨ n ≠ c.size then { s with cas.badWrite := true }
  else s

/-- R430: LOCAL, in SAFE. -/
def casLocal (s : State) : State := if s.cas.state = 4 then { s with cas.localOn := true } else s

def casCtrl (v : Word) (s : State) : State :=
  let s := casTopo v s
  if bit v 6 then casLocal s else s

/-- A write of TOPO and SIZE. -/
def execCasTopoWrite (value : Word) (s : State) : Out := hostWrite (casTopo value) s

/-- A write of LOCAL. -/
def execCasLocal (s : State) : Out := hostWrite casLocal s

/-- R426: 2 s after TOPO was written or the last link trained. -/
def execCascadeFormTimeout (s : State) : Out :=
  if agentsOn s && decide (s.cas.state = 1) then
    let s := advanceTo s (s.cas.formSince.toNat + 2000000000)
    let c := formCause s
    .next (if c = 0 then formCascade s else { s with cas.state := 3, cas.cause := BitVec.ofNat 4 c })
  else .next s

/-! Training and loss of links (R408, R410, R423, R429). -/

/-- R408: a port's link trains. -/
def linkTrains (p : Nat) (s : State) : State :=
  let x := getPort s p
  if x.active = 0 ∨ x.laserOff ∨ x.excluded ∨ x.linkUp then s
  else
    let s := modPort s p fun x => { x with linkUp := true, lanes := 15 }
    if x.active ≠ 2 then s
    else if x.link.retraining.isSome && !x.link.lost then
      let s := modPort s p fun x => { x with tx := x.tx ++ x.link.replay, link.retraining := none, link.retries := 0 }
      pumpAll p { s with cas.peers := vmod 0 s.cas.peers p (· ||| 16) }
    else
      let s := modLink s p fun _ => Link.init
      sendIdent p { s with cas.formSince := if s.cas.state = 1 then s.clk.time else s.cas.formSince }

def execPortLinkUp (port : PortId) (s : State) : Out := .next (if agentsOn s && !s.pwr.hot then linkTrains port.toNat s else s)

/-- The packages that the remaining links reach, by the topology. -/
def reachable : Nat → State → List Nat → List Nat
  | 0, _, l => l
  | n + 1, s, l =>
    let t := s.cas.topo.toNat
    let step (i : Nat) : List Nat := (neighbours t (casSize s) i).filter fun j =>
      (decide (i ≠ casMe s) || decide (bundleTo s j ≠ [])) && (decide (j ≠ casMe s) || decide (bundleTo s i ≠ []))
    reachable n s ((l ++ l.flatMap step).eraseDups)

/-- R425: a remote access ends: with a word read, with a write accepted, or failed. -/
def endRemote (answer : Option Word) (s : State) : State :=
  let s := { s with cas.remote := s.cas.remote &&& 0x7FFFFFFF }
  match answer with
  | none => { s with cas.remoteErr := true }
  | some w => if bit s.cas.remote 24 then s else { s with cas.remoteData := w }

/-- R299, R429: the chunks whose placement reaches a lost member fault; a remote access to it fails. -/
def memberLost (m : Nat) (s : State) : State :=
  let s := if bit s.cas.remote 31 ∧ fld s.cas.remote 20 4 = m then endRemote none s else s
  (s.streams.map (·.1)).foldl (fun s n =>
    let x := getStream s n
    let due (c : Chunk) : Bool := c.released && c.faulted.isNone && !c.stopped
    if ((routesOf s x).any fun e => decide (e.member = m)) || x.d.chunks.any fun c => due c && c.remote.contains m then
      match x.d.chunks.find? due with
      | some c => faultChunk n c.num 0x12 (raiseStream 0x0302 n (evPrefix 9 0xFF c.num.toNat) s)
      | none => s
    else s) (mapStreams (fun _ x => { x with d.chunks := x.d.chunks.filter fun c => decide (c.home ≠ some (BitVec.ofNat 4 m)) }) s)

/-- MEMBERS drops what no link reaches. -/
def dropMembers (s : State) : State :=
  if s.cas.state ≠ 2 ∧ s.cas.state ≠ 4 then s
  else
    let r := reachable 16 s [casMe s]
    let gone := (List.range 16).filter fun i => s.cas.members.getLsbD i && !r.contains i
    gone.foldl (fun s i => memberLost i { s with cas.members := s.cas.members &&& ~~~(BitVec.ofNat 16 (2 ^ i)) }) s

/-- Table 13.10: a link is lost; its unacknowledged and waiting flits take the new route before any newer one. -/
def linkLost (p : Nat) (planned : Bool) (s : State) : State :=
  let l := getLink s p
  let peer := (vget 0 s.cas.peers p).toNat % 16
  let s := { s with cas.peers := vmod 0 s.cas.peers p (· &&& 0x2F) }
  let s := modLink s p fun l => { l with lost := true, retraining := none, replay := [], outbox := [] }
  let s := raisePlain 0x0602 [0, 0, word (p + at' 8 peer + bw planned 12)] s
  let s := (l.replay ++ l.outbox).reverse.foldl (fun s b =>
    let f := flitOf b
    match (if f.dst = f.src then none else portTo s f.dst f.seq) with
    | some q => modLink s q fun l => { l with outbox := b :: l.outbox }
    | none => s) s
  dropMembers ((List.range 16).foldl (fun s q => pumpAll q s) s)

/-- R429: the link has not come back within 50 ms. -/
def execLinkLostExpiry (port : PortId) (s : State) : Out :=
  let p := port.toNat
  match (if agentsOn s && !(getPort s p).linkUp && !(getLink s p).lost then (getLink s p).retraining else none) with
  | none => .next s
  | some t => .next (linkLost p false (advanceTo s (t.toNat + 50000000)))

/-- R410: the fall of a link that the host did not ask for. -/
def linkDown (p : Nat) (s : State) : State :=
  let x := getPort s p
  if !x.linkUp then s
  else
    let s := linkFalls p s
    if x.active = 1 then raisePlain 0x0601 [0, 0, word p] s else s

def execPortDown (port : PortId) (s : State) : Out := .next (if agentsOn s then linkDown port.toNat s else s)

/-! Heartbeats (R427, R429, R430). -/

def isMember (s : State) : Bool := decide (s.cas.state = 2) && decide (s.cas.master ≠ s.hub.cascId)

/-- The master sends one heartbeat to every other member. -/
def execHeartbeatSend (s : State) : Out :=
  if agentsOn s && decide (s.cas.state = 2) && decide (s.cas.master = s.hub.cascId) then
    let s := advanceTo s (s.cas.lastBeat.toNat + 10000)
    let s := { s with cas.lastBeat := s.clk.time }
    .next (((List.range 16).filter fun i => s.cas.members.getLsbD i && decide (i ≠ casMe s)).foldl (fun s i => sendMsg 3 i 0 (.beat s.clk.time) s) s)
  else .next s

/-- A member's heartbeat interval ends without one. -/
def execHeartbeatMiss (s : State) : Out :=
  if agentsOn s && isMember s then
    let n := (now s - s.cas.lastBeat.toNat) / 10000 + 1
    .next { advanceTo s (s.cas.lastBeat.toNat + 10000 * n) with cas.hbMiss := satAdd s.cas.hbMiss 1 }
  else .next s

/-- R429, R430: no heartbeat for 2 ms. -/
def execCasMasterLost (s : State) : Out :=
  if agentsOn s && isMember s then
    let s := advanceTo s (s.cas.lastBeat.toNat + 2000000)
    let s := raisePlain 0x0603 [0, 0, s.cas.master.zeroExtend 32] s
    .next (memberLost s.cas.master.toNat { s with cas.state := 4, cas.cause := 6, cas.localOn := false })
  else .next s

/-- R427, R501: the master's heartbeat: the member's time follows, never backwards, and CAS_TIME_OFFSET shows the
correction. -/
def takeBeat (time : DWord) (s : State) : State :=
  if s.cas.state = 2 ∧ s.cas.master ≠ s.hub.cascId then
    let d := (time.toNat : Int) - now s
    let t := if time.toNat < now s then s.clk.time else time
    { s with clk.time := t, clk.frac := 0, cas.timeOffset := BitVec.ofInt 32 d, cas.lastBeat := t }
  else if s.cas.state = 4 then formIfReady { s with cas.lastBeat := s.clk.time }
  else s

/-- R426: an identity received on a port: the peer's own, or one passed on. -/
def takeIdent (p : Nat) (src : Nat) (i : BitVec 4 × Bool × BitVec 2 × BitVec 4) (s : State) : State :=
  let known := s.cas.idents.contains i
  let s := if src = i.1.toNat ∧ (vget 0 s.cas.peers p).getLsbD 4 = false then
      { s with cas.peers := vset s.cas.peers p (BitVec.ofNat 6 (i.1.toNat + 16 + 32 * b2n i.2.1)) } else s
  let s := if known then s else { s with cas.idents := s.cas.idents ++ [i] }
  let s := if known then s else
    ((List.range 16).filter fun q => quanakUp s q && decide (q ≠ p)).foldl (fun s q =>
      enqueueMsg q 3 (casMe s) (.ident i.1 i.2.1 i.2.2.1 i.2.2.2) s) s
  formIfReady s

/-! CAS_ writes (R425). -/

/-- R340, R341: a STATIC register field; a write that is accepted takes effect at the next full load. -/
def staticWrite (off : Nat) (f : State → State) (s : State) : State :=
  if deviceRunning s then cfgReject 1 off noStream s else f s

def casWrite (off : Nat) (v : DWord) (s : State) : State :=
  let w : Word := v.truncate 32
  if off = 0x00 then casCtrl w s
  else if off = 0x04 then (if bit w 11 then { s with cas.badWrite := false } else s)
  else if off = 0x10 then staticWrite 0x9010 (fun s => { s with cas.xrBaseNext := v.truncate 48 }) s
  else if off = 0x18 then staticWrite 0x9018 (fun s => { s with cas.xrCountNext := w.truncate 12 }) s
  else if off = 0x24 then { s with cas.remoteData := w }
  else if off = 0x28 then (if bit w 0 then { s with cas.remoteErr := false } else s)
  else s

end Sys2Proof.Machine
end

