-- ==== Sys2Proof/Machine/Gateway.lean ====
section
/-! DEFINITION. The cascade gateway (R428): the slots of cross routes and their credits, the tokens of a deepened
placement, its reports and results, and the commands whose work may reach another package. -/

namespace Sys2Proof.Machine

/-- R426: stream traffic crosses a Quanak link only in FORMED. -/
def crosses (s : State) : Bool := decide (s.cas.state = 2)

/-! Slots and credits (Table 13.9). -/

/-- The entry that drains a ring of a core, with the core's place in its group. -/
def routeOfRing (s : State) (k : Core) (r : Nat) : Option (XRoute × Nat) :=
  match groupOf k k.bank with
  | some g => ((xRoutes s).find? fun e => decide (e.group = g.toNat) && decide (e.ring = r)).map fun e => (e, groupPosOf k k.bank)
  | none => none

def creditKey (e i : Nat) : Nat := 65536 * e + i

/-- Credits held by an entry for a core. -/
def heldCredits (s : State) (e : XRoute) (i : Nat) : Nat := (tabGet s.cas.xrCredits (creditKey e.index i)).getD e.credits

def setCredits (e : XRoute) (i n : Nat) (s : State) : State :=
  let t := tabPut s.cas.xrCredits (creditKey e.index i) n
  { s with cas.xrCredits := t }

/-- The gateway takes the oldest committed slot, spends a credit, and sends it. -/
def gatewayTakes (c r : Nat) (k : Core) (e : XRoute) (i : Nat) (s : State) : State :=
  let x := getRing k r
  match (if crosses s && decide (0 < heldCredits s e i) then x.slots.find? fun q => decide (q.state = .committed) else none) with
  | none => s
  | some q =>
    let a := slotAddr x q.idx
    let m := Config.CasMsg.slot e.index i (BitVec.ofNat 16 e.remoteGroup) (BitVec.ofNat 4 e.remoteRing) q.tag (spRead k a (slotBytes x))
      (spPoisoned k a (slotBytes x) || q.poison)
    dmaRun c (releaseAt c r q.idx (sendMsg 2 e.member i m (setCredits e i (heldCredits s e i - 1) s)))

/-- The credits owed to other packages are returned. -/
def flushCredits (s : State) : State :=
  if crosses s then
    s.cas.owed.foldl (fun s o => sendMsg 1 o.1.toNat o.2.2 (.credit o.2.1 o.2.2) s) { s with cas.owed := [] }
  else s

/-! Tokens and withdrawals (R22, R299, R428). -/

/-- The home's result ranges of a chunk: its output entry, and its payload slot where it has one. -/
def resultRanges (x : Stream) (t : ImgTemplate) (c : Chunk) : List (Nat × Nat) :=
  (outEntry x c.outIdx, 64) :: if t.resultBytes ≤ 32 then [] else [(outPayload x t c.outIdx, t.resultBytes)]

/-- The token of a chunk as another package gets it, with D' (R306) and the chunk context (Table 9.11). -/
def farToken (s : State) (n : Nat) (x : Stream) (c : Chunk) (g : Image) (t : ImgTemplate) : Config.CasMsg :=
  .token s.hub.cascId (BitVec.ofNat 12 n) x.r.model c.replica c.num (BitVec.ofNat 64 (c.deadline.toNat - c.shift))
    (BitVec.ofNat 16 c.frames) x.d.startExpress c.initEntry (c.final && decide (c.frames < t.f)) ((gapEnds x t c).contains 0)
    (memRead s.dram (g.base + g.ctxOffset + 256 * (64 * n + c.num.toNat % 64)) 256) (resultRanges x t c)

def sendAll (ms : List Nat) (n : Nat) (m : Config.CasMsg) (s : State) : State := ms.foldl (fun s d => sendMsg 2 d n m s) s

/-! Sections of a state block that lie on several packages (R170). -/

/-- The sections of a block, by layer. -/
def sectionsOf (s : State) (x : Stream) (t : ImgTemplate) : List (Nat × List Byte × Bool) :=
  if x.r.statePtr = 0 then []
  else t.stateMap.filterMap fun e => match vread s (x.r.statePtr.toNat + e.offset) (8 * e.d * e.n) with
    | .ok r => some (e.layer.toNat, r.1, r.2)
    | .error _ => none

/-- Sections go to their places behind an address; a layer that the state map does not hold is passed over. -/
def putSections (t : ImgTemplate) (dst : Nat) (l : List (Nat × List Byte × Bool)) (s : State) : State :=
  l.foldl (fun s e => match findState t e.1 with
    | some m => if e.2.1.length = 8 * m.d * m.n then (vwrite s (dst + m.offset) e.2.1 e.2.2).1 else s
    | none => s) s

/-- Promoted formats and re-runs by layer, as they travel. -/
def formatList (x : Stream) : List (Nat × BitVec 2 × List DWord) :=
  ((x.d.formats.map (·.1)) ++ x.d.reruns.map (·.1)).eraseDups.map fun l => (l, tabGetD 0 x.d.formats l, tabGetD [] x.d.reruns l)

def putFormats (l : List (Nat × BitVec 2 × List DWord)) (d : SteInt) : SteInt :=
  { d with
    formats := l.foldl (fun f e => if e.2.1 = 0 then tabDel f e.1 else tabPut f e.1 e.2.1) d.formats
    reruns := l.foldl (fun f e => if e.2.2 = [] then tabDel f e.1 else tabPut f e.1 e.2.2) d.reruns }

/-- The tokens of the released chunks, one message to each package that this one's cross routes name, behind the sections
of a restore. -/
def flushTokens (s : State) : State :=
  if crosses s then
    s.cas.tokensDue.foldl (fun s d =>
      let x := getStream s d.1
      match findChunk x d.2 with
      | none => s
      | some c => match imageAt s c.epoch, chunkTemplate s x c with
        | some g, some t =>
          let s := if x.d.scatterDue then
              modStream (sendAll c.remote d.1 (.scatter s.hub.cascId (BitVec.ofNat 12 d.1) (formatList x) (sectionsOf s x t)) s)
                d.1 fun x => { x with d.scatterDue := false }
            else s
          sendAll c.remote d.1 (farToken s d.1 x c g t) s
        | _, _ => s) { s with cas.tokensDue := [] }
  else s

/-- R299: the other packages withdraw the tokens of a faulted chunk and of the later ones. -/
def flushWithdrawals (s : State) : State :=
  if crosses s then
    (s.streams.map (·.1)).foldl (fun s n =>
      let x := getStream s n
      match (if x.state = .faulted then x.d.faultAt else none) with
      | none => s
      | some f =>
        let ms := ((x.d.chunks.filter fun c => decide (f.toNat ≤ c.num.toNat)).flatMap (·.remote)).eraseDups
        if ms = [] then s
        else modStream (sendAll ms n (.withdraw (BitVec.ofNat 12 n) f) s) n fun x => { x with
          d.chunks := x.d.chunks.map fun c => if f.toNat ≤ c.num.toNat then { c with remote := [] } else c }) s
  else s

/-- What a command has left for other packages goes out. -/
def flushCascade (s : State) : State := flushWithdrawals (flushTokens (flushCredits s))

/-- The packages, but for some, that this one's cross routes name for a stream. -/
def furtherMembers (s : State) (x : Stream) (but : List Nat) : List Nat := (farMembers s x).filter fun m => !but.contains m

/-- R22, R428: the token of a chunk of another package's stream: the entry of the same number must be FREE here, its
groups' cores get their tokens, and the token goes on to the packages that this one's cross routes name (log entry 64). -/
def takeFarToken (src : Nat) (home : BitVec 4) (n : Nat) (model replica : Half) (num deadline : DWord) (frames : Half)
    (express init final gapRun : Bool) (context : List Byte) (out : List (Nat × Nat)) (s : State) : State :=
  let x := getStream s n
  match s.cfg.cur.bind fun g => (templateIn g model.toNat).bind fun t => (replicaIn g model.toNat replica.toNat).map fun r => (g, t, r) with
  | none => s
  | some (g, t, r) =>
    if x.state ≠ .free ∨ (findChunk x num).isSome ∨ (num ≠ 0 ∧ num.toNat < x.d.nextChunk.toNat) then s
    else
      let s := modStream s n fun x => { x with
        r.model := model, d.replica := replica, d.epoch := s.cfg.epoch, d.startExpress := express, d.pendingReset := gapRun
        d.nextChunk := num + 1
        d.formats := if num = 0 then [] else x.d.formats, d.reruns := if num = 0 then [] else x.d.reruns }
      let s := if needsBlock (getStream s n) t then placeBlock n g t (repDie g model.toNat replica.toNat) s else s
      let s := modStream (putSections t (getStream s n).r.statePtr.toNat x.d.sections s) n fun x => { x with d.sections := [] }
      let x := getStream s n
      let c : Chunk := { Chunk.init with
        num := num, deadline := deadline, frames := frames.toNat, final := final, released := true, ordinal := s.thm.releases
        initEntry := init, replica := replica, epoch := s.cfg.epoch, ratio := ratioNow s, service := decide (s.hub.phase = Phase.service)
        kvReady := true, home := some home, farOut := out, remote := furtherMembers s x [src, home.toNat, casMe s] }
      let c := { c with layers := (List.range r.groups.length).map fun i =>
        { LayerWork.init with format := tabGetD 0 x.d.formats i, tok := tokenFor x t c n s.cfg.bankOf i } }
      let s := dramWrite s (g.base + g.ctxOffset + 256 * (64 * n + num.toNat % 64)) context false
      let s := modStream s n fun x => { x with d.chunks := x.d.chunks ++ [c] }
      let s := giveTokens g r c { s with thm.releases := s.thm.releases + 1 }
      sendAll c.remote n (.token home (BitVec.ofNat 12 n) model replica num deadline frames express init final gapRun context out) s

/-- R299: the tokens of a faulted chunk of another package's stream are withdrawn. -/
def takeWithdrawal (n : Nat) (num : DWord) (s : State) : State :=
  let x := getStream s n
  if x.state ≠ .free then s
  else
    let gone := x.d.chunks.filter fun c => c.home.isSome && decide (num.toNat ≤ c.num.toNat)
    let s := sendAll (gone.flatMap (·.remote)).eraseDups n (.withdraw (BitVec.ofNat 12 n) num) s
    let s := withdrawTokens n num s
    modStream s n fun x => { x with d.chunks := x.d.chunks.filter fun c => !(c.home.isSome && decide (num.toNat ≤ c.num.toNat)) }

/-! Reports (R24, R428). -/

/-- A package's part of a chunk of another package's stream is complete, or has faulted: it reports, with its numeric flags,
the packages that it gave tokens to, and what its part wrote to the home's result ranges. -/
def reportPart (n : Nat) (s : State) : State :=
  let x := getStream s n
  match x.d.chunks.find? fun c => c.home.isSome && (c.faulted.isSome || c.layers.all (·.complete)) with
  | none => s
  | some c =>
    let s := modStream s n fun x => { x with d.chunks := x.d.chunks.filter fun e => decide (e.num ≠ c.num) }
    sendMsg 2 ((c.home.map (·.toNat)).getD 0) n (.report (BitVec.ofNat 12 n) c.num c.nflags c.faulted c.remote c.result) s

/-- A package has reported its part of a chunk: its flags join the chunk's, its result is written where the home's output
ring has it, and its fault is the chunk's. -/
def takeReport (src n : Nat) (num : DWord) (flags : Byte) (fault : Option Byte) (more : List Nat) (result : List (Nat × List Byte))
    (s : State) : State :=
  let x := getStream s n
  match findChunk x num with
  | none => s
  | some c =>
    let heard := src :: c.reported
    let s := modChunk s n num fun c => { c with
      nflags := c.nflags ||| flags, reported := heard
      remote := ((c.remote ++ more).eraseDups).filter fun m => !heard.contains m && decide (m ≠ casMe s) }
    let s := result.foldl (fun s w => vput s w.1 w.2) s
    match fault with
    | some f => faultChunk n num f.toNat s
    | none => s

/-! Gathering and scattering (R170). -/

/-- Another package asks for the sections that this one holds of a stream. -/
def answerGather (src n : Nat) (s : State) : State :=
  let x := getStream s n
  if x.state ≠ .free then s
  else
    let secs := match templateOf s x with
      | some t => sectionsOf s x t
      | none => []
    sendMsg 2 src n (.gathered (BitVec.ofNat 12 n) (furtherMembers s x [src, casMe s]) (formatList x) secs) s

/-- The sections of another package arrive; the packages that it names further are asked too. -/
def takeGathered (src n : Nat) (more : List Nat) (formats : List (Nat × BitVec 2 × List DWord)) (secs : List (Nat × List Byte × Bool))
    (s : State) : State :=
  let x := getStream s n
  if !x.d.gathering then s
  else
    let got := src :: x.d.gatherGot
    let new := more.filter fun m => !got.contains m && !x.d.gatherDue.contains m && decide (m ≠ casMe s)
    let s := modStream s n fun x => { x with
      d := putFormats formats { x.d with sections := x.d.sections ++ secs, gatherGot := got, gatherDue := (x.d.gatherDue.filter (· ≠ src)) ++ new } }
    sendAll new n (.gather (BitVec.ofNat 12 n)) s

/-- A restore's sections: placed at once where the stream's block stands, else with its first token; they go on to the
packages that this one's cross routes name. -/
def takeScatter (src : Nat) (home : BitVec 4) (n : Nat) (formats : List (Nat × BitVec 2 × List DWord)) (secs : List (Nat × List Byte × Bool))
    (s : State) : State :=
  let x := getStream s n
  if x.state ≠ .free then s
  else
    let s := sendAll (furtherMembers s x [src, home.toNat, casMe s]) n (.scatter home (BitVec.ofNat 12 n) formats secs) s
    let s := modStream s n fun x => { x with d := putFormats formats { x.d with formats := [], reruns := [] } }
    match (if x.r.statePtr = 0 then none else templateOf s x) with
    | some t => putSections t x.r.statePtr.toNat secs s
    | none => modStream s n fun x => { x with d.sections := secs }

/-! The commands. -/

/-- R223: the oldest slot that its consumer has read is released; the gateway consumes the rings of cross routes. -/
def execRingSlotRelease (core : CoreId) (ring : BitVec 4) (s : State) : Out :=
  withCore core (fun k s =>
    flushCascade (match routeOfRing s k ring.toNat with
      | some e => gatewayTakes core.toNat ring.toNat k e.1 e.2 s
      | none => readSlotReleased core.toNat ring.toNat s)) s

/-- R302: the chunk that a stream outside catch-up releases next. -/
def nextDue (s : State) (x : Stream) : Option Chunk := if mayRelease s x && !x.r.lagging then nextToRelease x else none

/-- R312: the express chunks that are due by now are released ahead of one that is not express. -/
def expressFirst (n : Nat) (s : State) : State :=
  if (getStream s n).d.startExpress then s
  else (s.streams.filter fun e => e.2.d.startExpress && ((nextDue s e.2).map fun c => decide (dueAt e.2 c ≤ now s)).getD false).foldl
    (fun s e => (tryRelease e.1 0 s).1) s

/-- R302: outside catch-up, the next chunk of the stream is released at its time. -/
def execChunkRelease (n : StreamId) (s : State) : Out :=
  let x := getStream s n.toNat
  match nextDue s x with
  | none => .next s
  | some c => .next (flushCascade (commitIfDone (tryRelease n.toNat 0 (expressFirst n.toNat (advanceTo s (dueAt x c)))).1))

/-- R304; the part of another package's chunk is reported (R428). -/
def execResultPost (n : StreamId) (s : State) : Out :=
  .next (if agentsOn s && !s.pwr.hot then
    (if (getStream s n.toNat).state = .free then reportPart n.toNat s else postResult n.toNat s) else s)

end Sys2Proof.Machine
end

