-- ==== Sys2Proof/Machine/Lasers.lean ====
section
/-! DEFINITION. The laser modules: authentication, wear, faults and replacement (R431-R441). -/

namespace Sys2Proof.Machine

/-- The four ports that module m feeds. -/
def laserPorts (m : Nat) : List Nat := [4 * m, 4 * m + 1, 4 * m + 2, 4 * m + 3]

/-- W8 of the laser events. -/
def laserW8 (m cause : Nat) (past : Bool) : Word := word (m + at' 4 cause + bw past 8)

/-! Wear (R436-R438). -/

/-- 90 % or 100 % of rated life, in equivalent seconds. -/
def wearAt (l : Laser) (pct : Nat) : Bool := decide (pct * 3600 * l.ratedH.toNat ≤ 100 * l.wearS.toNat)

/-- LASER_EOL_WARN and LASER_EOL. -/
def raiseEolWarn (m : Nat) (s : State) : State := raisePlain 0x0702 [0, 0, word m, word (wearTenths (getLaser s m))] s
def raiseEol (m : Nat) (s : State) : State :=
  raisePlain 0x0703 [0, 0, word m, word (wearTenths (getLaser s m)), (getLaser s m).biasRatio.zeroExtend 32] s

/-- A_T of Table 14.3 in halves, for a temperature in 1/16 °C. -/
def tempFactor (t : Half) : Nat :=
  let t := t.toInt
  if t ≤ 560 then 1 else if t ≤ 720 then 2 else if t ≤ 880 then 4 else if t ≤ 1040 then 8 else 16

/-- A_I of Table 14.3 in tenths, for a ratio p / i. -/
def biasFactor (p i : Nat) : Nat :=
  if p ≤ i then 10 else if 10 * p ≤ 11 * i then 12 else if 10 * p ≤ 12 * i then 15 else if 10 * p ≤ 13 * i then 20 else 30

/-- The largest ratio of present to initial bias; an initial bias of 0 leaves its emitter's ratio open (log entry 7). -/
def worstBias (free : Nat) (initial present : List Half) : Nat × Nat :=
  (List.range 4).foldl (fun (w : Nat × Nat) j =>
    let i := (initial.getD j 0).toNat
    let e := if i = 0 then (free % 65536, 4096) else ((present.getD j 0).toNat, i)
    if w.1 * e.2 < e.1 * w.2 then e else w) (0, 1)

/-- A twentieths of equivalent seconds are added. -/
def addWear (a : Nat) (l : Laser) : Laser :=
  let p := l.wearPart + a
  { l with wearS := BitVec.ofNat 64 (l.wearS.toNat + p / 20), wearPart := p % 20, enabledS := l.enabledS + 1
           accelPart := a, accel := BitVec.ofNat 16 (256 * a / 20) }

/-- What the device measures of one module in a window (R436), or the last factor while the bus does not answer (R439). -/
def measureWindow (free : Nat) (w : LaserWindow) (l : Laser) : Laser :=
  match w.reading with
  | none => addWear l.accelPart l
  | some (t, present) =>
    let r := worstBias free l.initialBias present
    let l := addWear (tempFactor t * biasFactor r.1 r.2) { l with busDead := false }
    { l with caseT := t, biasRatio := BitVec.ofNat 16 (min 0xFFFF (4096 * r.1 / r.2))
             overBias := if 13 * r.2 < 10 * r.1 then l.overBias + 1 else 0 }

/-- R438: the end of life of one module. -/
def testLife (m : Nat) (s : State) : State :=
  let l := getLaser s m
  let warn := wearAt l 90
  let eol := wearAt l 100 || decide (60 ≤ l.overBias)
  let s := modLaser s m fun l => { l with eolWarn := l.eolWarn || warn, eol := l.eol || eol }
  let s := if warn && !l.eolWarn then raiseEolWarn m s else s
  if eol && !l.eol then raiseEol m s else s

/-- R436, R438: one module at the end of a window. -/
def laserWindow (m : Nat) (w : LaserWindow) (s : State) : State :=
  let l := getLaser s m
  if !l.en || !w.enabledThroughout then s
  else
    let d := draw s
    testLife m (modLaser d.2 m (measureWindow d.1 w))

/-- R437: the wear records that a window's transaction holds. -/
def wearRecords (s : State) : List JRec :=
  (s.las.toList.filter laserKnown).map fun l => jrec jLaserWear l.serial.toNat (leBytes 8 l.wearS.toNat)

/-- R437: the wear record in the module, unless its bus does not answer. -/
def writeModuleWear (m : Nat) (s : State) : State :=
  modLaser s m fun l =>
    let t := tabPut l.moduleRecord l.serial.toNat l.wearS
    { l with moduleRecord := if l.busDead then l.moduleRecord else t, enabledS := 0 }

/-- Every 3,600 s of enabled time. -/
def execLaserWearRecordWrite (m : ModuleId) (s : State) : Out :=
  .next (if agentsOn s && (getLaser s m.toNat).en && decide (3600 ≤ (getLaser s m.toNat).enabledS) then writeModuleWear m.toNat s else s)

/-! Authentication (R433-R435). -/

/-- R437: the journal's wear for a serial. -/
def journalWear (s : State) (serial : DWord) : Nat :=
  match jnlGet s jLaserWear serial.toNat with
  | some r => leNat (r.payload.take 8)
  | none => 0

/-- Step 1: what the device keeps of the module's identity, and the wear that it would start from. -/
def readIdentity (m : Nat) (e : LaserEnv) (s : State) : State :=
  let rec0 := if e.wearCrcOk then e.wearRecord.toNat else 0
  let wear := max rec0 (journalWear s e.serial)
  modLaser s m fun l =>
    let same := decide (l.serial = e.serial)
    { l with
      serial := e.serial, ratedH := e.ratedHours, initialBias := e.initialBias, certificate := e.chain, trains := e.linkTrains
      wearS := BitVec.ofNat 64 wear, wearPart := if same && decide (l.wearS.toNat = wear) then l.wearPart else 0
      eol := same && l.eol, eolWarn := same && l.eolWarn, overBias := 0, busDead := false
      caseT := 0, biasRatio := 0, accel := 0, accelPart := 0, enabledS := 0 }

/-- Steps 1 to 4: the AUTH_CAUSE of Table 14.4, 0 for a module that passes. -/
def authCauseOf (e : LaserEnv) (challenge : List Byte) : Nat :=
  if !e.magicOk then 1
  else if !Config.mldsaVerify Config.moduleRootKey e.chain e.chainSig then 2
  else if e.certSerial ≠ e.serial then 3
  else if !e.answered then 5
  else if !Config.mldsaVerify e.moduleKey challenge e.response then 4
  else 0

/-- An override in force for a serial. -/
def overridden (s : State) (serial : DWord) : Bool := s.sec.overrides.any fun o => decide (o.1 = serial)

/-- R408, R440: a port of an enabled module, with the mode that stood at a quiesce. -/
def lightPort (p : Nat) (s : State) : State :=
  let x := getPort s p
  let s := modPort s p fun y => { y with laserOff := false }
  match x.quiescedMode with
  | none => s
  | some m => portBegin p m (modPort s p fun y => { y with quiescedMode := none })

/-- R437, R438: the module is enabled; an end of life already reached is reported again. -/
def enableLaser (m : Nat) (auth : Bool) (s : State) : State :=
  let s := modLaser s m fun l =>
    { l with auth := auth, override := !auth, en := true, quiesced := false, fault := false, faultCause := 0
             eolWarn := wearAt l 90, eol := l.eol || wearAt l 100 }
  let s := if (getLaser s m).eolWarn then raiseEolWarn m s else s
  let s := if (getLaser s m).eol then raiseEol m s else s
  let s := (laserPorts m).foldl (fun s p => lightPort p s) s
  (laserPorts m).foldl (fun s p => if (getLaser s m).trains.getD (p % 4) false then linkTrains p s else s) s

/-- R434, R435: the outcome of an authentication. -/
def settleAuth (m cause : Nat) (s : State) : State :=
  let s := modLaser s m fun l => { l with challengeAt := none, authCause := BitVec.ofNat 4 cause }
  if cause = 0 then enableLaser m true s
  else
    let l := getLaser s m
    let past := decide (cause ≠ 1) && l.present && overridden s l.serial
    let s := raisePlain 0x0701 ([0, 0, laserW8 m cause past] ++ words64 (if cause = 1 then 0 else l.serial.toNat)) s
    if past then enableLaser m false s
    else modLaser s m fun l => { l with auth := false, override := false, en := false }

/-- R433: authentication up to its outcome; a module that has not answered yet is left with its challenge unless `atOnce`. -/
def authenticate (m : Nat) (e : LaserEnv) (atOnce : Bool) (s : State) : State :=
  let nonce := drawBytes s 32
  let cause := authCauseOf e (nonce.1 ++ leBytes 8 s.fixed.serial.toNat)
  let s := if cause = 1 then nonce.2 else readIdentity m e nonce.2
  if cause = 5 ∧ !atOnce then
    modLaser s m fun l => { l with auth := false, override := false, challengeAt := some s.clk.time }
  else settleAuth m cause s

/-! Quiesce and resume (R402, R440). -/

/-- The progress entry that a laser command for module m holds. -/
def resumeSlot (s : State) (m : Nat) : Option Nat :=
  (s.long.find? fun l => decide (cmdOp l.cmd = 0x41) && decide (fld (cmdW l.cmd 2) 0 2 = m)).map (·.slot)

/-- A port of a quiesced module: OFF, with its mode kept; a CASCADE port is a planned link loss. -/
def quiescePort (p : Nat) (s : State) : State :=
  let x := getPort s p
  let lost := decide (x.active = 2) && x.linkUp
  let mode := x.quiescedMode.getD x.mode
  let s := modPort (portOff p s) p fun y => { y with quiescedMode := some mode, laserOff := true }
  if lost then linkLost p true s else s

def quiesceLaser (m : Nat) (s : State) : State :=
  if (getLaser s m).quiesced then s
  else
    let l := getLaser s m
    let s := if laserKnown l then journalNote [jrec jLaserWear l.serial.toNat (leBytes 8 l.wearS.toNat)] (writeModuleWear m s) else s
    let s := modLaser s m fun l => { l with en := false, quiesced := true }
    (laserPorts m).foldl (fun s p => quiescePort p s) s

/-- LASER_RESUME ends: SUCCESS once the module is enabled, else AUTH. -/
def endResume (slot m : Nat) (s : State) : State :=
  let l := getLaser s m
  if l.en then finishLong slot stSuccess 0 [word (wearTenths l)] s else finishLong slot stAuth 0 [] s

/-- LASER_RESUME of a module that is present and not enabled. -/
def beginResume (slot m : Nat) (e : LaserEnv) (s : State) : State :=
  let l := getLaser s m
  if !l.present || l.en then finishLong slot stState 0 [] s
  else
    let s := authenticate m e false s
    if (getLaser s m).challengeAt.isSome then s else endResume slot m s

/-- R433: no response within 500 ms of the challenge. -/
def execLaserAuthTimeout (m : ModuleId) (s : State) : Out :=
  match (if agentsOn s then (getLaser s m.toNat).challengeAt else none) with
  | none => .next s
  | some t =>
    let s := settleAuth m.toNat 5 (advanceTo s (t.toNat + 500000000))
    .next (match resumeSlot s m.toNat with
      | some slot => endResume slot m.toNat s
      | none => s)

/-! Pins and faults (R439, R441). -/

/-- LMn_EN goes low for a fault; the ports' links fall. -/
def laserFaults (m cause : Nat) (s : State) : State :=
  let s := modLaser s m fun l => { l with en := false, fault := true, faultCause := BitVec.ofNat 4 cause }
  let s := raisePlain 0x0704 [0, 0, laserW8 m cause false] s
  (laserPorts m).foldl (fun s p => linkDown p (modPort s p fun x => { x with laserOff := true })) s

/-- LMn_PRESENT_N falls: a module is seated. -/
def execLmPresentFall (m : ModuleId) (s : State) : Out :=
  .next (modLaser s m.toNat fun l => if l.present then l else { l with present := true, insertions := satAdd l.insertions 1 })

/-- LMn_PRESENT_N rises. -/
def execLmPresentRise (m : ModuleId) (s : State) : Out :=
  let l := getLaser s m.toNat
  if !l.present then .next s
  else
    let s := if agentsOn s && !l.quiesced then laserFaults m.toNat 2 s else s
    .next (modLaser s m.toNat fun l => { l with present := false, auth := false, override := false, en := false })

/-- LMn_FAULT_N falls. -/
def execLmFaultFall (m : ModuleId) (s : State) : Out :=
  .next (if agentsOn s && (getLaser s m.toNat).en then laserFaults m.toNat 1 s else s)

/-- Three successive accesses without an answer: the module stays enabled. -/
def execLaserBusFail (m : ModuleId) (s : State) : Out :=
  let l := getLaser s m.toNat
  .next (if agentsOn s && l.present && laserKnown l && !l.busDead then
    raisePlain 0x0704 [0, 0, laserW8 m.toNat 3 false] (modLaser s m.toNat fun l => { l with busDead := true, fault := true, faultCause := 3 })
  else s)

end Sys2Proof.Machine
end

