-- ==== Sys2Proof/Machine/Thyme.lean ====
section
/-! DEFINITION. Thyme (R305-R309, R313-R318, R517) and the telemetry area (R321-R325, R513). -/

namespace Sys2Proof.Machine

/-! The three time scales (R517). -/

def tickNs : Nat := 125000
def decisionNs : Nat := 10000000
def windowNs : Nat := 1000000000

/-- The next whole multiple of a step after the last one. -/
def nextMultiple (last : DWord) (step : Nat) : Nat := (last.toNat / step + 1) * step

/-- R494: Thyme runs, from the start of the hub firmware on. -/
def thymeOn (s : State) : Bool := agentsOn s && s.hub.fwRunning && !s.pwr.hot

/-- R517: a window end that falls no later than the next decision has been made. -/
def windowFirst (s : State) : Bool := decide (nextMultiple s.clk.decisionAt decisionNs / windowNs * windowNs ≤ s.clk.windowAt.toNat)

/-- And a decision that falls no later than the next tick. -/
def decisionFirst (s : State) : Bool := decide (nextMultiple s.clk.tickAt tickNs / decisionNs * decisionNs ≤ s.clk.decisionAt.toNat)

/-- The last whole multiple of a step, at the present time. -/
def lastMultiple (s : State) (step : Nat) : DWord := BitVec.ofNat 64 (now s / step * step)

/-! The tick (R305-R309). -/

/-- λ in ns, with the chunk that sets it. -/
def lagOf (s : State) (x : Stream) : Nat × DWord :=
  let posted := x.d.lastLateNs.toNat
  match x.d.chunks.find? fun c => !c.stopped with
  | some c =>
    let waiting := now s - c.deadline.toNat
    if posted < waiting then (waiting, c.num) else (posted, x.d.lastPosted)
  | none => (posted, x.d.lastPosted)

def measured (x : Stream) : Bool :=
  match x.state with
  | .running | .ending => true
  | _ => false

def lagWord (ns : Nat) : Word := BitVec.ofNat 32 (min 0xFFFFFFFF (ns / 1000))

/-- R305, R306, R307, R309: one stream's lag. -/
def measureLag (s : State) (n : Nat) : State :=
  let x := getStream s n
  if !measured x then s
  else
    let l := lagOf s x
    let us := lagWord l.1
    let late := decide (0 < l.1)
    let past := decide (x.d.lagLimit * 1000 * x.r.periodUs.toNat < l.1)
    let s := setStream s n { x with
      r.lagUs := us, r.lagMaxUs := if x.r.lagMaxUs.toNat < us.toNat then us else x.r.lagMaxUs
      r.lagging := late, r.overrun := x.r.overrun || past, d.lagRaised := late && (x.d.lagRaised || past) }
    let s := if late && !x.r.lagging then raiseStream 0x0401 n [0, l.2.truncate 32, us] s else s
    if past && !x.d.lagRaised then raiseStream 0x0402 n [0, l.2.truncate 32, us] s else s

/-- R72: Thyme raises WIDE_PROMOTE for each promotion. -/
def reportPromotions (s : State) (n : Nat) : State :=
  let x := getStream s n
  let s := x.d.promotions.foldl (fun s p => raiseStream 0x0103 n (evPrefix 8 p.1 p.2.1.toNat ++ [p.2.2.zeroExtend 32]) s) s
  if x.d.promotions = [] then s else modStream s n fun x => { x with d.promotions := [] }

/-- R306: σ in ns. -/
def shiftOf (s : State) (x : Stream) : Nat :=
  min (lagOf s x).1 ((vget 25 s.thm.cuRatio x.d.startClass.toNat).toNat * 1000 * x.r.periodUs.toNat / 100)

/-- R306: every chunk of a stream in catch-up whose predecessor has been released. -/
def releaseAllOf : Nat → Nat → Nat → State → State
  | 0, _, _, s => s
  | f + 1, n, sigma, s =>
    match tryRelease n sigma s with
    | (s, true) => releaseAllOf f n sigma s
    | (s, false) => s

def catchUp (s : State) (n : Nat) : State :=
  let x := getStream s n
  if x.r.lagging && measured x then releaseAllOf x.d.chunks.length n (shiftOf s x) s else s

/-- R312: streams in the order of their releases at one time: express streams first. -/
def releaseOrder (s : State) : List Nat :=
  ((s.streams.filter fun e => e.2.d.startExpress) ++ (s.streams.filter fun e => !e.2.d.startExpress)).map (·.1)

/-- R289, R403: both indices of a stream are read. -/
def readIndices (s : State) (n : Nat) : State :=
  let s := observe n s
  if observes (getStream s n) then readOutRd n s else s

def tickWork (s : State) : State :=
  let ns := s.streams.map (·.1)
  let s := ns.foldl reportPromotions (ns.foldl readIndices s)
  let s := switchTick (ns.foldl measureLag s)
  commitIfDone ((releaseOrder s).foldl catchUp s)

/-- R517: a tick. -/
def execThymeTick (s : State) : Out :=
  if thymeOn s && decisionFirst s then
    let s := advanceTo s (nextMultiple s.clk.tickAt tickNs)
    .next (flushCascade (tickWork { s with clk.tickAt := lastMultiple s tickNs }))
  else .next s

/-! Telemetry (R321-R325, R513). -/

/-- A number in a record. -/
structure Fig where
  off : Nat
  bytes : Nat
  value : Nat
  deriving DecidableEq, Repr

/-- A record of n bytes with its figures, and SEQ at its head and tail. -/
def recordBytes (n seq : Nat) (figs : List Fig) : List Byte :=
  let put (bs : List Byte) (f : Fig) : List Byte := bs.take f.off ++ leBytes f.bytes f.value ++ bs.drop (f.off + f.bytes)
  (figs ++ [Fig.mk 0 8 seq, Fig.mk (n - 8) 8 seq]).foldl put (List.replicate n 0)

def sumNat (l : List Nat) : Nat := l.foldl (· + ·) 0

/-- R325, R513. -/
def packageFigs (s : State) : List Fig :=
  [⟨0x008, 8, now s⟩, ⟨0x010, 4, phaseCode s.hub.phase⟩, ⟨0x014, 4, (thmStatus s).toNat⟩,
   ⟨0x018, 4, (s.streams.filter fun e => e.2.r.lagging).length⟩, ⟨0x020, 8, s.thm.posted⟩,
   ⟨0x100, 4, s.pwr.pkgMw.toNat⟩, ⟨0x104, 4, (pwrStatus s).toNat⟩, ⟨0x1E0, 8, s.pwr.energyJ.toNat⟩] ++
  ((List.range 21).map fun r => ⟨0x108 + 4 * r, 4, (vget 0 s.pwr.railMw r).toNat⟩) ++
  ((List.range 32).map fun d => ⟨0x160 + 4 * d, 4, (tempWord s d).toNat⟩) ++
  (List.range 12).map fun n => ⟨0x1E8 + 2 * n, 2, dieMhz s n⟩

/-- OUT_WAIT_US with the hold that still stands. -/
def outWait (s : State) (x : Stream) : Nat :=
  x.c.outWaitNs + match x.c.outWaitSince with
    | some t => now s - t.toNat
    | none => 0

/-- WIDE_LAYERS. -/
def wideLayers (x : Stream) : Nat := sumNat ((x.d.formats.filter fun e => decide (e.1 < 64)).map fun e => 2 ^ e.1)

/-- Table 9.9. -/
def streamFigs (s : State) (x : Stream) : List Fig :=
  let r := x.r
  let c := x.c
  let w (i v : Nat) : Fig := ⟨4 * i, 4, v⟩
  [w 2 (steStatus x).toNat, w 3 x.d.replica.toNat, ⟨16, 8, r.chunksDone.toNat⟩, ⟨24, 8, r.position.toNat⟩, w 8 r.lateCount.toNat,
   w 9 r.rerunCount.toNat, w 10 r.satCount.toNat, w 11 c.ovf.toNat, w 12 c.nonfinite.toNat, w 13 c.empty.toNat, w 14 c.growth.toNat,
   w 15 c.promote.toNat, w 16 c.gapFrames.toNat, w 17 c.badFrames.toNat, w 18 r.lagUs.toNat, w 19 r.lagMaxUs.toNat,
   w 20 ((c.delays.foldl max 0) / 1000), w 21 ((c.delays.min?.getD 0) / 1000), w 22 (sumNat c.delays / max 1 c.delays.length / 1000),
   w 23 c.delays.length, ⟨96, 8, wideLayers x⟩, w 26 (outWait s x / 1000), w 27 c.hostKvBytes]

/-- R249, R324: BUSY of a group: 0 where no core had a compute operation in the window; the model keeps no cycles, so
otherwise it is an unstated value, no more than the cores' cycles at 320 MHz (log entry 7). -/
def busyCycles (s : State) (g : ImgGroup) (v : Nat) : Nat :=
  let n := ((groupCores g).filter fun c => (getCore s c).computed).length
  v % (n * ((now s - s.thm.telFrom.toNat) * 320 / 1000) + 1)

/-- Table 9.10. -/
def groupFigs (s : State) (g : ImgGroup) (busy : Nat) : List Fig :=
  let ks := (groupCores g).map (getCore s)
  [⟨8, 4, g.group.toNat⟩, ⟨12, 4, g.coreCount⟩, ⟨16, 8, busy⟩, ⟨88, 8, sumNat (ks.map (·.copyHazard.toNat))⟩,
   ⟨96, 8, sumNat (ks.map (·.doneCount.toNat))⟩] ++
  (List.range 8).map fun i => ⟨24 + 8 * i, 8, sumNat (ks.map fun k => (vget 0 k.copyStalls i).toNat)⟩

/-- R321: one telemetry write. -/
def writeTelemetry (s : State) : State :=
  let s := { s with thm.telSeq := s.thm.telSeq + 1 }
  let seq := s.thm.telSeq.toNat
  let a := s.thm.telAddr.toNat / 4096 * 4096
  let m := s
  let s := vput s a (recordBytes 4096 seq (packageFigs m))
  let s := (m.streams.filter fun e => decide (e.2.state ≠ .free) || e.2.c.freed).foldl
    (fun s e => vput s (a + 0x1000 + 256 * e.1) (recordBytes 256 seq (streamFigs m e.2))) s
  let gs := ((m.cfg.cur.map (·.groups)).getD [])
  let s := gs.foldl (fun s g =>
    let d := draw s
    vput d.2 (a + 0x101000 + 128 * g.group.toNat) (recordBytes 128 seq (groupFigs m g (busyCycles m g d.1)))) s
  fireVector 5 s

/-- The window of the telemetry figures ends; streams that became FREE stay noted until a write covers them (R321). -/
def newTelWindow (written : Bool) (s : State) : State :=
  let t := s.clk.time
  let s := mapStreams (fun _ x => { x with
    c.delays := [], c.outWaitNs := 0, c.outWaitSince := x.c.outWaitSince.map fun _ => t, c.hostKvBytes := 0, c.freed := x.c.freed && !written }) s
  let s := mapCores (fun _ k => { k with copyStalls := Vector.replicate 8 0, copyHazard := 0, doneCount := 0, computed := k.ops.any fun o => decide (o.unit < 4) }) s
  { s with thm.posted := 0, thm.telFrom := t }

def telemetry (s : State) : State := newTelWindow s.thm.telEn (if s.thm.telEn then writeTelemetry s else s)

/-! The decision (R314-R317, R497). -/

def takePower (env : DecisionEnv) (s : State) : State :=
  { s with pwr.pkgMw := env.pkgMw, pwr.energyJ := env.energyJ, pwr.railMw := Vector.ofFn fun (i : Fin 21) => env.railMw.getD i.val 0 }

/-- R355: no stream is admitted or moved while a switch is in progress. -/
def placeStreams (s : State) : State := if switchInProgress s then s else rebalance (admitStarting s)

def decide10ms (env : DecisionEnv) (s : State) : State :=
  let s := placeStreams (takePower env s)
  let s := setClocks s
  telemetry { s with thm.util := BitVec.ofNat 8 (utilPercent s) }

def execThymeDecision (env : DecisionEnv) (s : State) : Out :=
  if thymeOn s && windowFirst s then
    let s := advanceTo s (nextMultiple s.clk.decisionAt decisionNs)
    .next (decide10ms env { s with clk.decisionAt := lastMultiple s decisionNs })
  else .next s

/-! The window end (R313, R318). -/

/-- A figure of the window replaces the one before it; a template without a chunk in the window keeps its own. -/
def newW (old cur : List (Half × Nat × Nat)) : List (Half × Nat × Nat) :=
  (old.filter fun e => !cur.any fun f => decide (f.1 = e.1 ∧ f.2.1 = e.2.1)) ++ cur
def newL (old cur : List (Half × Nat)) : List (Half × Nat) := (old.filter fun e => !cur.any fun f => decide (f.1 = e.1)) ++ cur

/-- The TEMPLATE record of a template whose W or L changes. -/
def figureRecord (s s' : State) (g : Image) (t : ImgTemplate) : List JRec :=
  let w (s : State) : List (Nat × Nat) := (s.thm.wMeas.filter fun e => decide (e.1 = t.template)).map (·.2)
  let l (s : State) : List Nat := (s.thm.lMeas.filter fun e => decide (e.1 = t.template)).map (·.2)
  if w s = w s' ∧ l s = l s' then []
  else [jrec jTemplate (leNat (g.imageId.take 6) * 65536 + t.template.toNat)
    ((w s').flatMap (fun e => leBytes 8 e.1 ++ leBytes 8 e.2) ++ (l s').flatMap fun v => leBytes 8 v)]

def figureRecords (s s' : State) : List JRec :=
  match s.cfg.cur with
  | some g => g.templates.flatMap (figureRecord s s' g)
  | none => []

def calibrationRecords (s : State) : List JRec :=
  s.thm.calibrate.map fun e => jrec jCalibration (e.1.toNat + at' 16 e.2.1.toNat + at' 32 e.2.2.1) []

/-- Lifetime corrected codewords, uncorrectable granules, patrol passes, and seconds above 85 °C. -/
def dramWear (s : State) (d : Nat) : List Byte :=
  leBytes 8 (tabGetD 0 s.mmu.lifeCe d) ++ leBytes 8 (tabGetD 0 s.mmu.lifeUe d) ++ leBytes 8 (tabGetD 0 s.mmu.lifePasses d) ++
    leBytes 8 (tabGetD 0 s.mmu.hotSeconds d)

def dramRecords (s : State) : List JRec :=
  (presentDies s).flatMap fun d =>
    let p := dramWear s d
    let old := (jnlGet s jDramWear d).map (·.payload)
    if old = some p ∨ (old = none ∧ p = List.replicate 32 0) then [] else [jrec jDramWear d p]

def addHot (l : List Word) (s : State) : State :=
  (presentDies s).foldl (fun s d =>
    let n := (l.getD d 0).toNat
    if n = 0 then s
    else
      let t := tabPut s.mmu.hotSeconds d (tabGetD 0 s.mmu.hotSeconds d + n)
      { s with mmu.hotSeconds := t }) s

/-- The measurements of the window become current. -/
def currentFigures (s : State) : State :=
  let s := mapStreams (fun _ x => { x with d.deltaNs := x.d.deltaCur.orElse fun _ => x.d.deltaNs, d.deltaCur := none }) s
  { s with thm.wMeas := newW s.thm.wMeas s.thm.wCur, thm.wCur := [], thm.lMeas := newL s.thm.lMeas s.thm.lCur, thm.lCur := [] }

/-- Insertion by temperature, cooler first; a die without a reading comes last. -/
def insertCool (s : State) (d : Nat) : List Nat → List Nat
  | [] => [d]
  | e :: r => if (tempOf s d).t ≠ 0x8000 ∧ ((tempOf s e).t = 0x8000 ∨ (tempOf s d).t.toInt < (tempOf s e).t.toInt)
      then d :: e :: r else e :: insertCool s d r

/-- R318: the compute dies by temperature. -/
def rankDies (s : State) : State :=
  if s.thm.coolPlace then { s with thm.dieRank := (diesInUse s).foldl (fun l d => insertCool s d l) [] } else s

def endWindow (env : WindowEnv) (s : State) : State :=
  let s' := currentFigures s
  let s' := addHot env.dramHotSeconds s'
  let s' := (List.range 4).foldl (fun s m => laserWindow m (env.lasers.getD m ⟨false, none⟩) s) s'
  let s' := journalNote (figureRecords s s' ++ calibrationRecords s' ++ wearRecords s' ++ dramRecords s') s'
  powerWindow (tempWindow (rankDies { s' with thm.calibrate := [] }))

def execThymeWindowEnd (env : WindowEnv) (s : State) : Out :=
  if thymeOn s then
    let s := advanceTo s (nextMultiple s.clk.windowAt windowNs)
    .next (endWindow env { s with clk.windowAt := lastMultiple s windowNs })
  else .next s

end Sys2Proof.Machine
end

