-- ==== Sys2Proof/Machine/CommandOps.lean ====
section
/-! DEFINITION. What every host command shares (R389-R396, R406): the checks of an entry, the commands that wait, and
the ends of a command. -/

namespace Sys2Proof.Machine

/-- R382, R389, R451, R494, R495: the device fetches and starts commands. -/
def commandsOn (s : State) : Bool := agentsOn s && s.hub.ready && !s.pwr.hot && !s.pwr.resuming

/-! The entry (Table 12.6, Table 12.9). -/

def knownOps : List Nat :=
  [0x00, 0x01, 0x10, 0x11, 0x12, 0x20, 0x21, 0x28, 0x29, 0x2A, 0x30, 0x31, 0x38, 0x39, 0x40, 0x41, 0x48, 0x49]

def longOps : List Nat := [0x10, 0x11, 0x20, 0x21, 0x28, 0x29, 0x2A, 0x30, 0x31, 0x38, 0x39, 0x40, 0x41]

/-- The bits of operand word i that Table 12.9 names. -/
def operandMask (op i : Nat) : Nat :=
  let full := 0xFFFFFFFF
  match op, i with
  | 0x01, 2 => 3
  | 0x10, 8 | 0x11, 8 => 1
  | 0x10, _ | 0x11, _ => if 4 ≤ i ∧ i ≤ 7 then full else 0
  | 0x20, 2 | 0x21, 2 | 0x30, 2 | 0x2A, 2 | 0x2A, 3 | 0x38, 2 => 0xFFF
  | 0x20, _ | 0x21, _ => if 4 ≤ i ∧ i ≤ 6 then full else 0
  | 0x28, 2 | 0x29, 2 => 0xFF0FFF
  | 0x28, 3 | 0x29, 3 => 0xFF
  | 0x28, _ => if i = 4 ∨ i = 5 ∨ i = 6 ∨ i = 8 ∨ i = 9 then full else 0
  | 0x29, _ => if i = 4 ∨ i = 5 ∨ i = 8 ∨ i = 9 then full else 0
  | 0x2A, 4 => full
  | 0x2A, 5 => 0xFFFF
  | 0x30, _ => if i = 4 ∨ i = 5 then full else 0
  | 0x31, 2 => 0x1FFFFFF
  | 0x31, _ => if 4 ≤ i ∧ i ≤ 6 then full else 0
  | 0x38, _ => if 4 ≤ i ∧ i ≤ 7 then full else 0
  | 0x40, 2 | 0x41, 2 => 3
  | 0x48, _ => if 4 ≤ i ∧ i ≤ 14 then full else 0
  | 0x49, _ => if 4 ≤ i ∧ i ≤ 6 then full else 0
  | _, _ => 0

/-- Every reserved bit of the entry is 0. -/
def reservedOk (c : HostCmd) : Bool :=
  decide (fld (cmdW c 0) 8 8 = 0) && decide (fld (cmdW c 1) 17 15 = 0) &&
  (List.range 14).all fun j => decide ((cmdW c (j + 2)).toNat ||| operandMask (cmdOp c) (j + 2) = operandMask (cmdOp c) (j + 2))

/-- CHECK_OWNER is set and a named stream has another OWNER_TAG. -/
def ownerDiffers (s : State) (c : HostCmd) : Bool :=
  bit (cmdW c 1) 16 && (namedStreams c).any fun n => decide ((getStream s n).r.ownerTag.toNat ≠ fld (cmdW c 1) 0 16)

/-- The status of an entry that is refused before it starts, or 0. -/
def entryStatus (s : State) (c : HostCmd) : Nat :=
  if cmdOp c ∉ knownOps then 1 else if !reservedOk c then stBadField else if ownerDiffers s c then 3 else 0

/-! Ends of a command. -/

/-- A refusal of chapter 10: CFG_REJECT is raised and the command completes with it. -/
def rejectLong (slot : Nat) (c : HostCmd) (cause : Nat) (s : State) : State :=
  finishLong slot stReject cause [] (cfgReject cause (cmdOp c) noStream s)

def rejectShort (c : HostCmd) (cause : Nat) (s : State) : State := reply c stReject cause [] (cfgReject cause (cmdOp c) noStream s)

/-- Status STATE with the stream's cause. -/
def wrongState (slot n : Nat) (s : State) : State := finishLong slot stState (getStream s n).r.cause.toNat [] s

/-- R394. -/
def hostFault (slot va : Nat) (s : State) : State := finishLong slot stHostFault 0 (words64 va) s

/-- Units in all. -/
def setTotal (slot n : Nat) (s : State) : State := modPrg s slot fun p => { p with total := BitVec.ofNat 32 n }

/-- A load, switch or persist is in progress. -/
def cfgBusy (s : State) : Bool := s.cfg.load.isSome || s.cfg.persist

/-- Bytes moved 64 at a time, each unit with its own poison mark (R365), up to the first that does not translate. -/
def copyUnits (read : State → Nat → Except Nat (List Byte × Bool)) (dst : Nat) : Nat → Nat → State → State × Option Nat
  | 0, _, s => (s, none)
  | f + 1, i, s =>
    match read s (64 * i) with
    | .error va => (s, some va)
    | .ok r => match vwrite s (dst + 64 * i) r.1 r.2 with
      | (s, some e) => (s, some e.2)
      | (s, none) => copyUnits read dst f (i + 1) s

/-- A unit of device-virtual memory. -/
def unitAt (base : Nat) (s : State) (off : Nat) : Except Nat (List Byte × Bool) := (vread s (base + off) 64).mapError (·.2)

/-- A unit of DRAM. -/
def dramUnit (base : Nat) (s : State) (off : Nat) : Except Nat (List Byte × Bool) := .ok (readPlace s (false, base + off) 64)

/-! Writes of STE_CTRL that waited for a command (R390). -/

def applyWrites (s : State) : State :=
  let ready := s.waitState.filter fun e => !streamBusy s e.1.toNat
  let s := { s with waitState := s.waitState.filter fun e => streamBusy s e.1.toNat }
  ready.foldl (fun s e =>
    if cmdAccepted (getStream s e.1.toNat).state (fld e.2 0 3) (bit e.2 3) then runCmd e.1.toNat (fld e.2 0 3) s else s) s

end Sys2Proof.Machine
end

