-- ==== Sys2Proof/Machine/StreamCommands.lean ====
section
/-! DEFINITION. Commands that name streams: CHECKPOINT and RESTORE (R168, R169, R399), the KV commands (R195, R198,
R400), and adaptation (R401). -/

namespace Sys2Proof.Machine

/-! Checkpoints. -/

def ckpMagic : Nat := 0x50435346

/-- Header, layer records and padding; the block follows. -/
def ckpHeadBytes (t : ImgTemplate) : Nat := alignUp (64 + 16 * t.layers.length) 4096
def ckpBytes (t : ImgTemplate) : Nat := ckpHeadBytes t + t.blockBytes

/-- RERUN_HIST: bit i for chunk number NEXT_CHUNK - 1 - i. -/
def rerunHist (next : Nat) (l : List DWord) : Nat :=
  ((List.range 64).map fun i => if l.any fun k => decide (k.toNat + 1 + i = next) then 2 ^ i else 0).foldl (· + ·) 0

/-- Tables 5.9 and 5.10. -/
def ckpHead (x : Stream) (t : ImgTemplate) : List Byte :=
  let h := leBytes 4 ckpMagic ++ leBytes 2 1 ++ leBytes 2 t.layers.length ++ leBytes 8 x.r.chunksDone.toNat ++ leBytes 8 x.r.position.toNat ++
    leBytes 4 t.blockBytes ++ leBytes 4 (x.r.model.toNat + bw x.d.pendingReset 16) ++ t.modelDigest.take 16 ++ leBytes 8 x.d.nextChunk.toNat ++ leBytes 8 0
  let rec_ (j : Nat) : List Byte :=
    leBytes 4 (tabGetD 0 x.d.formats j).toNat ++ leBytes 8 (rerunHist x.d.nextChunk.toNat (tabGetD [] x.d.reruns j)) ++ leBytes 4 0
  padTo (ckpHeadBytes t) (h ++ (List.range t.layers.length).flatMap rec_)

def ckpTemplate (s : State) (x : Stream) : Option ImgTemplate := (imageAt s x.d.epoch).bind fun g => templateIn g x.r.model.toNat

def ckpState (x : Stream) : Bool :=
  match x.state with
  | .running | .paused | .idle | .ended => decide (x.r.statePtr ≠ 0)
  | _ => false

/-- CHECKPOINT starts: the releases of a RUNNING stream are held. -/
def beginCheckpoint (slot : Nat) (c : HostCmd) (s : State) : State :=
  let n := cmdStream c
  let x := getStream s n
  match (if ckpState x then ckpTemplate s x else none) with
  | none => wrongState slot n s
  | some t =>
    let size := ckpBytes t
    if (cmdW c 6).toNat < size then finishLong slot stBadField 0 [word size] s
    else
      let s := setTotal slot (ceilDiv size 4096) s
      if x.state = .running then modStream s n fun x => { x with d.hold := true } else s

/-- R170: the sections of a stream whose placement spans packages are gathered first; false while they have still to come. -/
def gatherFirst (n : Nat) (s : State) : Bool × State :=
  let x := getStream s n
  if x.d.gathering then (decide (x.d.gatherDue = []), s)
  else
    let ms := if crosses s then farMembers s x else []
    (decide (ms = []), sendAll ms n (.gather (BitVec.ofNat 12 n))
      (modStream s n fun x => { x with d.gathering := true, d.gatherDue := ms, d.gatherGot := [], d.sections := [] }))

/-- The gathered sections of the layers that have no group on this package. -/
def farSections (s : State) (x : Stream) : List (Nat × List Byte × Bool) :=
  let own := ((s.cfg.cur.bind fun g => replicaIn g x.r.model.toNat x.d.replica.toNat).map (·.groups.length)).getD 0
  x.d.sections.filter fun e => decide (own ≤ e.1)

/-- The checkpoint is captured once no chunk is in flight. -/
def capture (l : LongCmd) (s : State) : State :=
  let n := cmdStream l.cmd
  let x := getStream s n
  let far := farSections s x
  let s := modStream s n fun x => { x with d.hold := false, d.gathering := false, d.sections := [] }
  match (if ckpState x then ckpTemplate s x else none) with
  | none => finishLong l.slot stFault 0 [] s
  | some t =>
    let dst := cmdAddr l.cmd 4
    match vwrite s dst (ckpHead x t) false with
    | (s, some e) => hostFault l.slot e.2 s
    | (s, none) =>
      match copyUnits (unitAt x.r.statePtr.toNat) (dst + ckpHeadBytes t) (t.blockBytes / 64) 0 s with
      | (s, some va) => hostFault l.slot va s
      | (s, none) => finishLong l.slot stSuccess 0 [word (ckpBytes t)] (putSections t (dst + ckpHeadBytes t) far s)

def checkpointOf (s : State) (n : Nat) : Option LongCmd := s.long.find? fun l => decide (cmdOp l.cmd = 0x20) && decide (cmdStream l.cmd = n)

/-! Restore (R169). -/

/-- The checkpoint matches the stream's model in the current image. -/
def ckpMatches (x : Stream) (t : ImgTemplate) (bs : List Byte) : Bool :=
  decide (natAt bs 0 4 = ckpMagic) && decide (natAt bs 4 2 = 1) && decide (natAt bs 6 2 = t.layers.length) && decide (natAt bs 24 4 = t.blockBytes) &&
  decide (natAt bs 28 2 = x.r.model.toNat) && decide (cut bs 32 16 = t.modelDigest.take 16) &&
  (List.range t.layers.length).all fun j => decide (natAt bs (64 + 16 * j) 1 ≤ 2)

def histOf (next v : Nat) : List DWord :=
  ((List.range 64).filter fun i => v.testBit i && decide (i < next)).reverse.map fun i => BitVec.ofNat 64 (next - 1 - i)

/-- The die on which a restore allocates a block: the pinned replica's, or that of the replica with the lowest U. -/
def restoreDie (s : State) (g : Image) (x : Stream) : Option Nat :=
  let m := x.r.model.toNat
  if x.r.placement ≠ 0xFFFF then (replicaIn g m x.r.placement.toNat).map (·.die.toNat)
  else
    let jobs := admittedJobs s g
    (extremeReplica false ((g.replicas.filter fun r => decide (r.template = x.r.model)).map fun r =>
      (r.replica.toNat, replicaU s g jobs m r.replica.toNat))).map fun r => repDie g m r.1

/-- The stream's block, allocated where the device places it and it has none. -/
def blockForRestore (n : Nat) (g : Image) (t : ImgTemplate) (s : State) : Option State :=
  let x := getStream s n
  if !needsBlock x t then some s
  else (restoreDie s g x).bind fun die => if (allocBlock s g t die).isSome then some (placeBlock n g t die s) else none

/-- The effects of an accepted restore, but for the block's bytes: the next chunk continues the restored state, and of the
layers that were to start anew only those with attention still do. -/
def reinstate (n : Nat) (t : ImgTemplate) (bs : List Byte) (s : State) : State :=
  let next := natAt bs 48 8
  let fmts := (List.range t.layers.length).foldl (fun (f : Table (BitVec 2)) j =>
    let v := natAt bs (64 + 16 * j) 1
    if v = 0 then f else tabPut f j (BitVec.ofNat 2 v)) []
  let hist := (List.range t.layers.length).foldl (fun (f : Table (List DWord)) j =>
    let l := histOf next (natAt bs (68 + 16 * j) 8)
    if l = [] then f else tabPut f j l) []
  modStream s n fun x => { x with
    r.chunksDone := dwordAt bs 2, r.position := BitVec.ofNat 48 (natAt bs 16 8), r.carry := true
    d.nextChunk := BitVec.ofNat 64 next, d.formats := fmts, d.reruns := hist, d.undoWide := [], d.pendingReset := bit (wordAt bs 7) 16
    d.continueStart := true, d.restart := x.d.restart.filter fun l => (findState t l).isNone, d.scatterDue := true }

def beginRestore (slot : Nat) (c : HostCmd) (s : State) : State :=
  let n := cmdStream c
  let x := getStream s n
  if cfgBusy s then rejectLong slot c 2 s
  else if x.state ≠ .idle ∧ x.state ≠ .paused then wrongState slot n s
  else match s.cfg.cur, templateOf s x with
    | some g, some t =>
      let size := ckpBytes t
      let src := cmdAddr c 4
      if (cmdW c 6).toNat < size then finishLong slot stBadField 0 [word size] s
      else match vread s src size with
        | .error e => hostFault slot e.2 s
        | .ok r =>
          if !ckpMatches x t r.1 then finishLong slot stMismatch 0 [] s
          else match blockForRestore n g t s with
            | none => finishLong slot stNoResource 0 [] s
            | some s' =>
              match copyUnits (unitAt (src + ckpHeadBytes t)) (getStream s' n).r.statePtr.toNat (t.blockBytes / 64) 0 s' with
              | (s', some va) => hostFault slot va s'
              | (s', none) => finishLong slot stSuccess 0 [word size] (setTotal slot (ceilDiv size 4096) (reinstate n t r.1 s'))
    | _, _ => finishLong slot stMismatch 0 [] s

/-! The KV commands (R198, R400). -/

/-- What a KV command works on: table, header, image, pool, layer and head. -/
structure KvRef where
  t : Nat
  h : KvHead
  g : Image
  p : ImgPool
  a : Nat
  hd : Nat

def kvRef (s : State) (c : HostCmd) : Option KvRef :=
  let x := getStream s (cmdStream c)
  if x.state = .free ∨ x.r.kvTable = 0 then none
  else (readHead s x.r.kvTable.toNat).bind fun h => (kvPool s h.pool).map fun gp =>
    { t := x.r.kvTable.toNat, h := h, g := gp.1, p := gp.2, a := fld (cmdW c 2) 16 8, hd := fld (cmdW c 3) 0 8 }

/-- The descriptor of page number k, where a flushed page stands there. -/
def pageAt (s : State) (x : Stream) (r : KvRef) (k : Nat) : Option Nat :=
  if (retained s x r.t r.h r.a r.hd).contains k then
    let n := dirGet s r.t r.h r.a r.hd k
    if n = 0xFFFFFFFF ∨ r.p.frames ≤ n then none else some n
  else none

/-- Named pages that may hold something: those below the flushed count. -/
def kvSpan (s : State) (c : HostCmd) (r : KvRef) : List Nat :=
  let x := getStream s (cmdStream c)
  List.range (min (cmdW c 5).toNat (tabGetD 0 x.d.kvFlushed (256 * r.a + r.hd) - (cmdW c 4).toNat))

/-- The pages that move: operand index and descriptor; `toHost` for an eviction. -/
def kvMoves (s : State) (c : HostCmd) (r : KvRef) (toHost : Bool) : List (Nat × Nat) :=
  (kvSpan s c r).filterMap fun i =>
    (pageAt s (getStream s (cmdStream c)) r ((cmdW c 4).toNat + i)).bind fun n =>
      let d := descOf s r.g r.p n
      if d.refs ≠ 0 ∧ d.host ≠ toHost ∧ !d.moving then some (i, n) else none

def slotNamed (s : State) (r : KvRef) (slot : Nat) : Bool :=
  (List.range r.p.frames).any fun n => let d := descOf s r.g r.p n; decide (d.refs ≠ 0) && d.host && decide (d.addr = slot)

/-- A page goes to a host slot, with MOVING set while it is copied; a host fault leaves it where it was. -/
def evictPage (r : KvRef) (n slot : Nat) (s : State) : State × Option Nat :=
  let d := descOf s r.g r.p n
  let s := putDesc r.g r.p n { d with moving := true } s
  let dst := r.h.evict + 69632 * slot
  match copyUnits (dramUnit (r.p.dataBase + 65536 * d.addr)) dst 1024 0 s with
  | (s, some va) => (putDesc r.g r.p n d s, some va)
  | (s, none) => match copyUnits (dramUnit (r.p.scaleBase + 4096 * d.addr)) (dst + 65536) 64 0 s with
    | (s, some va) => (putDesc r.g r.p n d s, some va)
    | (s, none) => (putDesc r.g r.p n { d with host := true, addr := slot } s, none)

def evictAll (slot : Nat) (r : KvRef) (c : HostCmd) (skipped : Nat) : List (Nat × Nat) → Nat → State → State
  | [], done, s => finishLong slot stSuccess 0 [word done, word skipped] s
  | m :: rest, done, s =>
    match evictPage r m.2 ((cmdW c 6).toNat + m.1) s with
    | (s, some va) => hostFault slot va s
    | (s, none) => evictAll slot r c skipped rest (done + 1) (setDone slot (done + 1) s)

def beginKvEvict (slot : Nat) (c : HostCmd) (s : State) : State :=
  match kvRef s c with
  | none => wrongState slot (cmdStream c) s
  | some r =>
    let ms := kvMoves s c r true
    if r.h.layers ≤ r.a ∨ r.h.heads ≤ r.hd ∨
        ms.any (fun m => slotNamed s r ((cmdW c 6).toNat + m.1) || decide (2 ^ 32 ≤ (cmdW c 6).toNat + m.1)) then finishLong slot stBadField 0 [] s
    else evictAll slot r c ((cmdW c 5).toNat - ms.length) ms 0 (setTotal slot (cmdW c 5).toNat s)

/-- A page comes back into a frame, with MOVING set while it is copied; the host slot that it leaves. -/
def restorePage (r : KvRef) (n frame : Nat) (s : State) : State × Except Nat Nat :=
  let d := descOf s r.g r.p n
  let s := putDesc r.g r.p n { d with moving := true } s
  let src := r.h.evict + 69632 * d.addr
  let copy (src dst units : Nat) (s : State) : State × Option Nat :=
    (List.range units).foldl (fun (acc : State × Option Nat) i => match acc.2 with
      | some _ => acc
      | none => match vread acc.1 (src + 64 * i) 64 with
        | .error e => (acc.1, some e.2)
        | .ok b => (dramWrite acc.1 (dst + 64 * i) b.1 b.2, none)) (s, none)
  match copy src (r.p.dataBase + 65536 * frame) 1024 s with
  | (s, some va) => (putDesc r.g r.p n d s, .error va)
  | (s, none) => match copy (src + 65536) (r.p.scaleBase + 4096 * frame) 64 s with
    | (s, some va) => (putDesc r.g r.p n d s, .error va)
    | (s, none) => (putDesc r.g r.p n { d with host := false, addr := frame } s, .ok d.addr)

/-- The freed slots are written at FREED_LIST, and the command ends. -/
def endKvRestore (slot status : Nat) (c : HostCmd) (skipped : Nat) (freed : List Nat) (s : State) : State :=
  let list := cmdAddr c 8
  let p := if list = 0 then (s, none) else vwrite s list (freed.flatMap (leBytes 4)) false
  match p with
  | (s, some e) => hostFault slot e.2 s
  | (s, none) => finishLong slot status 0 [word freed.length, word skipped, word freed.length] s

def restoreAll (slot : Nat) (r : KvRef) (c : HostCmd) (skipped : Nat) : List (Nat × Nat) → List Nat → State → State
  | [], freed, s => endKvRestore slot stSuccess c skipped freed s
  | m :: rest, freed, s =>
    match freeFrames s r.g r.p with
    | [] => endKvRestore slot stNoResource c skipped freed s
    | f :: _ => match restorePage r m.2 f s with
      | (s, .error va) => hostFault slot va s
      | (s, .ok h) => restoreAll slot r c skipped rest (freed ++ [h]) (setDone slot (freed.length + 1) s)

def beginKvRestore (slot : Nat) (c : HostCmd) (s : State) : State :=
  match kvRef s c with
  | none => wrongState slot (cmdStream c) s
  | some r =>
    let ms := kvMoves s c r false
    if r.h.layers ≤ r.a ∨ r.h.heads ≤ r.hd then finishLong slot stBadField 0 [] s
    else restoreAll slot r c ((cmdW c 5).toNat - ms.length) ms [] (setTotal slot (cmdW c 5).toNat s)

/-! Fork (R195). -/

def quiescentState (st : SteState) : Bool :=
  match st with
  | .idle | .paused | .ended => true
  | _ => false

def layerHeads (h : KvHead) : List (Nat × Nat) := (List.range h.layers).flatMap fun a => (List.range h.heads).map fun hd => (a, hd)

/-- The pages that a fork shares, by (layer, head) and directory index. -/
def forkPages (s : State) (r : KvRef) (p : Nat) : List (Nat × Nat × Nat × Nat) :=
  (layerHeads r.h).flatMap fun l => (List.range (p / pagePos r.h.i8)).map fun k => (l.1, l.2, k, dirGet s r.t r.h l.1 l.2 k)

/-- The bytes of a page of the parent: flushed, in its owning core's staging buffer, or, of a fork that has no
cores yet, as that fork holds them (R195). -/
def parentPage (s : State) (x : Stream) (r : KvRef) (a hd k : Nat) : List Byte :=
  if k < tabGetD 0 x.d.kvFlushed (256 * a + hd) then
    let d := descOf s r.g r.p (dirGet s r.t r.h a hd k)
    if d.host then
      match vread s (r.h.evict + 69632 * d.addr) 69632 with
      | .ok b => b.1
      | .error _ => List.replicate 69632 0
    else memRead s.dram (r.p.dataBase + 65536 * d.addr) 65536 ++ memRead s.dram (r.p.scaleBase + 4096 * d.addr) 4096
  else
    match kvOwner x a hd with
    | some c => spRead (getCore s c) (stagingAt x.r.model.toNat a hd) 69632
    | none => (tabGetD (0, []) x.d.kvStaged (256 * a + hd)).2

def forkAllowed (s : State) (par child : Stream) (r : KvRef) (h : KvHead) (p : Nat) : Bool :=
  quiescentState par.state && !inFlight par && decide (child.state = .idle) && !child.d.kvPages && decide (par.r.ownerTag = child.r.ownerTag) &&
  decide (par.r.model = child.r.model) && decide ((r.h.i8, r.h.layers, r.h.heads, r.h.cap) = (h.i8, h.layers, h.heads, h.cap)) &&
  decide (r.h.firstPos = 0) && (List.range r.h.layers).all (fun a => decide (originOf s r.t r.h a = 0)) && decide (p ≤ r.h.length) &&
  (forkPages s r p).all fun e => decide ((descOf s r.g r.p e.2.2.2).refs < 65535)

/-- The fork itself: pages shared, a partly filled page copied, and the child's header. -/
def forkPrefix (n : Nat) (par : Stream) (r : KvRef) (h : KvHead) (p : Nat) (s : State) : State :=
  let child := getStream s n
  let t := child.r.kvTable.toNat
  let P := pagePos r.h.i8
  let m := s
  let s := (forkPages m r p).foldl (fun s e =>
    let d := descOf s r.g r.p e.2.2.2
    dirSet t h e.1 e.2.1 e.2.2.1 e.2.2.2 (putDesc r.g r.p e.2.2.2 { d with refs := d.refs + 1 } s)) s
  let s := (List.range h.layers).foldl (fun s a => setLayer t h a 0 0 s) s
  let s := setFirstPos t h (setLength t p s)
  let keys := (layerHeads r.h).map fun l => (l.1, l.2, 256 * l.1 + l.2)
  let flushed := keys.foldl (fun (f : Table Nat) e => if p / P = 0 then f else tabPut f e.2.2 (p / P)) []
  let staged := keys.foldl (fun (f : Table (Nat × List Byte)) e =>
    if p % P = 0 then f else tabPut f e.2.2 (p % P, parentPage m par r e.1 e.2.1 (p / P))) []
  modStream s n fun x => { x with d.kvPages := decide (0 < p), d.kvFlushed := flushed, d.kvStaged := staged }

def beginKvFork (slot : Nat) (c : HostCmd) (s : State) : State :=
  let child := fld (cmdW c 3) 0 12
  let par := getStream s (cmdStream c)
  let p := cmdAddr c 4
  if cfgBusy s then rejectLong slot c 2 s
  else match kvRef s c, readHead s (getStream s child).r.kvTable.toNat with
    | some r, some h =>
      if forkAllowed s par (getStream s child) r h p then
        let n := (forkPages s r p).length
        finishLong slot stSuccess 0 [word n] (setTotal slot n (forkPrefix child par r h p s))
      else wrongState slot (cmdStream c) s
    | _, _ => wrongState slot (cmdStream c) s

/-! Adaptation (R401). -/

/-- The fields of a job descriptor are in their ranges. -/
def jobOk (l : LongCmd) (t : ImgTemplate) : Bool :=
  let w := jobWord l
  let rank := fld (w 1) 0 7
  decide (1 ≤ rank) && decide (rank ≤ 64) && decide (fld (w 1) 8 2 ≤ 2) && decide (fld (w 1) 7 1 = 0) && decide (fld (w 1) 10 22 = 0) &&
  decide (1 ≤ (w 2).toNat) && decide (250 ≤ (w 13).toNat) && decide ((w 13).toNat ≤ 40000) &&
  decide (fld (w 0) 0 16 + fld (w 0) 16 16 ≤ t.layers.length)

def adaptState (x : Stream) : Bool :=
  x.r.adaptEn && match x.state with
    | .free | .starting | .faulted => false
    | _ => true

def beginAdapt (slot : Nat) (c : HostCmd) (s : State) : State :=
  let n := cmdStream c
  let x := getStream s n
  if !adaptState x then wrongState slot n s
  else match vread s (cmdAddr c 4) 64, s.cfg.cur, templateOf s x with
    | .error e, _, _ => hostFault slot e.2 s
    | .ok b, some g, some t =>
      let l : LongCmd := { LongCmd.init with slot := slot, cmd := { c with words := padWords c.words ++ wordsOf 16 b.1 } }
      if !jobOk l t then finishLong slot stBadField 0 [] s
      else
        match admits { s with long := s.long.filter fun k => decide (k.slot ≠ slot) } g (admittedJobs s g) (adaptJob s l) with
        | none => finishLong slot stNoResource 0 [] s
        | some u =>
          let l := { l with count2 := predictNs s g true x.r.model.toNat u }
          setTotal slot (jobWord l 2).toNat (modLong s slot fun _ => l)
    | .ok _, _, _ => wrongState slot n s
where
  /-- The sixteen words of a command. -/
  padWords (ws : List Word) : List Word := (ws ++ List.replicate 16 0).take 16

/-- R68, R71, R75: the saturations of a job's step count for its stream, and a layer with a tensor over the threshold raises
SAT_EVENT; it is never re-run. Each tensor gives its layer, its saturated elements and its elements (log entry 57). -/
def stepSats (l : LongCmd) (tensors : List (BitVec 8 × Nat × Nat)) (s : State) : State :=
  let n := cmdStream l.cmd
  let past := tensors.filter fun e => decide (s.thm.ratio.toNat ≠ 0) && decide (s.thm.ratio.toNat * e.2.2 < e.2.1 * 65536)
  let s := modStream s n fun x => { x with r.satCount := satAdd x.r.satCount ((tensors.map (·.2.1)).foldl (· + ·) 0) }
  (past.map (·.1)).eraseDups.foldl (fun s b => match past.find? fun e => decide (e.1 = b) with
    | some e => satEvent n b.toNat (BitVec.ofNat 64 l.cursor) e.2 s
    | none => s) s

/-- One step of a job ends: its saturations count, and its adapters and its loss are written. -/
def adaptStep (l : LongCmd) (loss : Word) (adapter : List Byte) (tensors : List (BitVec 8 × Nat × Nat)) (fault : Bool) (s : State) : State :=
  let s := stepSats l tensors s
  if fault then finishLong l.slot stFault 0 [] s
  else match vwrite s (nth64 l.cmd.words 20) adapter false with
    | (s, some e) => hostFault l.slot e.2 s
    | (s, none) => match vwrite s (nth64 l.cmd.words 30 + 4 * l.cursor) (leBytes 4 loss.toNat) false with
      | (s, some e) => hostFault l.slot e.2 s
      | (s, none) =>
        let k := l.cursor + 1
        let s := setDone l.slot k (modLong s l.slot fun l => { l with cursor := k })
        if (jobWord l 2).toNat ≤ k then finishLong l.slot stSuccess 0 [word k, loss] s else s

def adaptKey (c : HostCmd) : Nat := fld (cmdW c 2) 0 16 + at' 16 (fld (cmdW c 2) 16 8)

/-- ADAPT_STORE, DIR 0: the set is in the journal once its transaction commits. -/
def beginAdaptSave (slot : Nat) (c : HostCmd) (s : State) : State :=
  let len := (cmdW c 6).toNat
  if 16777216 < len then finishLong slot stBadField 0 [] s
  else match vread s (cmdAddr c 4) len with
    | .error e => hostFault slot e.2 s
    | .ok b => match journalPut [jrec jAdapter (adaptKey c) b.1] s with
      | none => finishLong slot stNoResource 0 [] s
      | some p => modLong (setTotal slot (ceilDiv len 4096) p.2) slot fun l => { l with count := p.1.toNat }

/-- The saves whose transactions have committed complete. -/
def endAdaptSaves (s : State) : State :=
  (s.long.filter fun l => decide (cmdOp l.cmd = 0x31) && decide (l.count ≠ 0) && decide (l.count ≤ s.jnl.seq.toNat)).foldl
    (fun s l => finishLong l.slot stSuccess 0 [cmdW l.cmd 6] s) s

/-- ADAPT_STORE, DIR 1. -/
def beginAdaptRecall (slot : Nat) (c : HostCmd) (s : State) : State :=
  match jnlGet s jAdapter (adaptKey c) with
  | none => finishLong slot stBadField 0 [] s
  | some r =>
    let n := r.payload.length
    if (cmdW c 6).toNat < n then finishLong slot stBadField 0 [word n] s
    else match vwrite s (cmdAddr c 4) r.payload false with
      | (s, some e) => hostFault slot e.2 s
      | (s, none) => finishLong slot stSuccess 0 [word n] (setTotal slot (ceilDiv n 4096) s)

def beginAdaptStore (slot : Nat) (c : HostCmd) (s : State) : State :=
  if bit (cmdW c 2) 24 then beginAdaptRecall slot c s else beginAdaptSave slot c s

end Sys2Proof.Machine
end

