-- ==== Sys2Proof/Machine/Security.lean ====
section
/-! DEFINITION. The security root: signed records (R478, R479, R435), debug (R482), attestation (R481), the kept
request to clear the levels (R469), and the test port (R483). -/

namespace Sys2Proof.Machine

/-! Debug challenges (R482). -/

/-- The nonce, HUB_SERIAL, SCOPE and the start count. -/
def newChallenge (scope : Nat) (s : State) : State :=
  let n := drawBytes s 32
  { n.2 with sec.challenge := n.1 ++ leBytes 8 s.fixed.serial.toNat ++ leBytes 4 scope ++ leBytes 4 s.boot.startCount.toNat
             sec.challengeOut := true, sec.challengeAt := s.clk.time }

def endDebug (s : State) : State := { s with sec.scope := 0, sec.unlockRecord := [] }

/-- A write of SEC_DEBUG_CTRL. -/
def debugCtrl (v : Word) (s : State) : State :=
  let s := { s with sec.dbgScope := BitVec.ofNat 4 (fld v 0 4) }
  let s := if bit v 4 then newChallenge (fld v 0 4) s else s
  if bit v 5 then endDebug s else s

def execSecDebugRequest (value : Word) (s : State) : Out := hostWrite (debugCtrl value) s

/-- The same register with LOCK. -/
def execSecDebugLock (value : Word) (s : State) : Out := hostWrite (debugCtrl value) s

def execDebugChallengeLapse (s : State) : Out :=
  .next (if s.sec.challengeOut && agentsOn s then
    { advanceTo s (s.sec.challengeAt.toNat + challengeNs) with sec.challengeOut := false } else s)

/-! Signed records (Tables 16.8 and 16.9). -/

def recType (bs : List Byte) : Nat := fld (wordAt bs 1) 0 8
def recSlot (bs : List Byte) : Nat := fld (wordAt bs 1) 8 2
def recVendor (bs : List Byte) : Bool := bit (wordAt bs 1) 10
def recSeq (bs : List Byte) : Nat := natAt bs 24 8

/-- Payload bytes of each TYPE. -/
def recPayload (type : Nat) : Nat :=
  match type with
  | 1 | 2 => 8
  | 3 => 1952
  | 4 => 4
  | _ => 48

def payloadOf (bs : List Byte) : List Byte := cut bs 64 (recPayload (recType bs))
def signatureOf (bs : List Byte) : List Byte := cut bs (64 + recPayload (recType bs)) 3309
def signedPart (bs : List Byte) : List Byte := bs.take (64 + recPayload (recType bs))

/-- MAGIC, TYPE, LENGTH and the reserved fields. -/
def recFormOk (bs : List Byte) : Bool :=
  decide (64 ≤ bs.length) && decide (natAt bs 0 4 = 0x5244564F) && decide (1 ≤ recType bs) && decide (recType bs ≤ 5) &&
  decide (natAt bs 8 4 = recPayload (recType bs)) && decide (64 + recPayload (recType bs) + 3309 ≤ bs.length) &&
  decide (fld (wordAt bs 1) 11 21 = 0) && allZero (cut bs 12 4) && allZero (cut bs 32 32)

def ownerSlot (s : State) (i : Nat) : OwnerSlot := vget OwnerSlot.init s.sec.slots i
def usable (o : OwnerSlot) : Bool := o.programmed && !o.revoked
def enrolled (s : State) : Bool := s.sec.slots.toList.any (·.programmed)

/-- The signature holds with the key that the record's TYPE and header call for (R478, R479, R482). -/
def recSigned (s : State) (bs : List Byte) : Bool :=
  let ok (key : List Byte) : Bool := Config.mldsaVerify key (signedPart bs) (signatureOf bs)
  let slotOk : Bool := usable (ownerSlot s (recSlot bs)) && ok (ownerSlot s (recSlot bs)).key
  if recType bs = 3 then
    if enrolled s then !recVendor bs && s.sec.slots.toList.any fun o => usable o && ok o.key else ok (payloadOf bs)
  else if recType bs = 5 then
    challengeLive s && decide (payloadOf bs = s.sec.challenge) &&
      (if recVendor bs then ok Config.vendorKey else slotOk && decide (natAt s.sec.challenge 40 4 < 8))
  else !recVendor bs && slotOk

/-- What an owner record may not do: a slot that the record may not name (BAD_FIELD, none), or a static one (R479). -/
def recForbidden (s : State) (bs : List Byte) : Option (Option Nat) :=
  let n := leNat (payloadOf bs)
  if recType bs = 3 then
    if !enrolled s && decide (recSlot bs ≠ 0) then some none
    else if (ownerSlot s (recSlot bs)).programmed then some (some 1) else none
  else if recType bs = 4 then
    if 4 ≤ n then some none
    else if (List.range 4).all fun i => decide (i = n) || !usable (ownerSlot s i) then some (some 1) else none
  else none

/-- The key of a slot's journal record; an override's key is its module's serial (log entry 40). -/
def ownerKeyOf (slot : Nat) : Nat := 2 ^ 63 + slot

def setSlot (i : Nat) (f : OwnerSlot → OwnerSlot) (s : State) : State := { s with sec.slots := vmod OwnerSlot.init s.sec.slots i f }

/-- An accepted record takes effect; one of TYPE 1 to 4 sets SEC_OVR_SEQ and is kept in the journal. -/
def recEffect (bs : List Byte) (s : State) : State :=
  let r := bs.take (64 + recPayload (recType bs) + 3309)
  let serial : DWord := BitVec.ofNat 64 (leNat (payloadOf bs))
  let keep (key : Nat) (s : State) : State := journalNote [jrec jOverride key r] { s with sec.ovrSeq := BitVec.ofNat 64 (recSeq bs) }
  match recType bs with
  | 1 => keep serial.toNat { s with sec.overrides := (s.sec.overrides.filter fun o => decide (o.1 ≠ serial)) ++ [(serial, r)] }
  | 2 => keep serial.toNat { s with sec.overrides := s.sec.overrides.filter fun o => decide (o.1 ≠ serial) }
  | 3 => keep (ownerKeyOf (recSlot bs)) (setSlot (recSlot bs) (fun _ => { key := payloadOf bs, programmed := true, revoked := false }) s)
  | 4 => keep (ownerKeyOf (leNat (payloadOf bs))) (setSlot (leNat (payloadOf bs)) (fun o => { o with revoked := true }) s)
  | _ => { s with sec.scope := BitVec.ofNat 4 (natAt s.sec.challenge 40 4), sec.unlockRecord := r, sec.challengeOut := false }

/-- The ends of a record that came with a command, or through the test port's UNLOCK register. -/
def recReply (c : Option HostCmd) (status : Nat) (s : State) : State :=
  match c with
  | some c => reply c status 0 [] s
  | none => s

def recReject (c : Option HostCmd) (cause : Nat) (s : State) : State :=
  match c with
  | some c => rejectShort c cause s
  | none => cfgReject cause 0 noStream s

/-- R478: a record is refused, or takes effect. -/
def takeRecord (c : Option HostCmd) (bs : List Byte) (s : State) : State :=
  if !recFormOk bs then recReply c stBadField s
  else if natAt bs 16 8 ≠ s.fixed.serial.toNat then recReject c 0x07 s
  else if !recSigned s bs then recReject c 0x05 s
  else if recType bs ≠ 5 ∧ recSeq bs ≤ s.sec.ovrSeq.toNat then recReject c 0x06 s
  else match recForbidden s bs with
    | some none => recReply c stBadField s
    | some (some cause) => recReject c cause s
    | none => recReply c stSuccess (recEffect bs s)

/-- The OVERRIDE command (R396, R402). -/
def beginOverride (c : HostCmd) (s : State) : State :=
  match vread s (cmdAddr c 4) (cmdW c 6).toNat with
  | .error e => reply c stHostFault 0 (words64 e.2) s
  | .ok b => takeRecord (some c) b.1 s

/-- The TYPE of the record that an OVERRIDE command brings, where it can be read. -/
def overrideType (s : State) (c : HostCmd) : Option Nat :=
  match vread s (cmdAddr c 4) (cmdW c 6).toNat with
  | .error _ => none
  | .ok b => if recFormOk b.1 then some (recType b.1) else none

/-! Attestation (R480, R481). -/

def reportBytes : Nat := 10029

/-- An entry of Table 16.11; an absent object has the digest 0. -/
def measurement (index info : Nat) (object : Option (List Byte)) : List Byte :=
  leBytes 4 index ++ leBytes 4 0 ++ leBytes 8 info ++
  match object with
  | some bs => padTo 64 (Config.shake256 64 bs)
  | none => List.replicate 64 0

def someBytes (bs : List Byte) : Option (List Byte) := if bs = [] then none else some bs

/-- The bytes of an image up to its signature. -/
def imageObject (s : State) (g : Option Image) : Option (List Byte) := g.map fun g => memRead s.dram g.base g.sigOffset

def measurements (s : State) : List Byte :=
  let laser (m : Nat) : List Byte :=
    let l := getLaser s m
    measurement (6 + m) (if laserKnown l then l.serial.toNat else 0) (if l.auth then some l.certificate else none)
  measurement 0 s.fixed.rom.toNat (some Config.romContents) ++
  measurement 1 (s.sec.fwVersion.toNat + 2 ^ 63 * b2n s.sec.fwCopy) (some (Config.firmwareContents s.sec.fwCopy)) ++
  measurement 2 s.cfg.epoch.toNat (imageObject s s.cfg.cur) ++
  measurement 3 (stagedEpoch s) (imageObject s s.cfg.staged) ++
  measurement 4 s.sec.scope.toNat (someBytes s.sec.unlockRecord) ++
  measurement 5 (slotBits (·.programmed) s + 16 * slotBits (·.revoked) s) (someBytes ((s.sec.slots.toList.filter usable).flatMap (·.key))) ++
  laser 0 ++ laser 1 ++ laser 2 ++ laser 3 ++
  measurement 10 s.sec.overrides.length (someBytes (s.sec.overrides.flatMap (·.2))) ++
  measurement 11 s.boot.startCount.toNat (some (startLogBytes s.boot.log))

/-- Table 16.10. -/
def reportHeader (nonce : List Word) (s : State) : List Byte :=
  padTo 128 (bytesOfWords ([0x54544154, word (1 + at' 16 12), word reportBytes, 0] ++ nonce) ++
    leBytes 8 s.fixed.serial.toNat ++ leBytes 8 (now s) ++ leBytes 4 s.sec.fwCounter.toNat ++ leBytes 4 (imgCounter s) ++
    leBytes 4 (hubStatus s).toNat ++ leBytes 4 s.hub.coreCount.toNat)

def report (nonce : List Word) (s : State) : List Byte :=
  let body := reportHeader nonce s ++ measurements s ++ padTo 5632 Config.deviceCert
  body ++ padTo 3309 (Config.identitySign body)

def beginAttest (c : HostCmd) (s : State) : State :=
  if (cmdW c 14).toNat < reportBytes then reply c stBadField 0 [word reportBytes] s
  else match vwrite s (cmdAddr c 12) (report ((List.range 8).map fun i => cmdW c (4 + i)) s) false with
    | (s, some e) => reply c stHostFault 0 (words64 e.2) s
    | (s, none) => reply c stSuccess 0 [word reportBytes] s

/-! BOOT_CTRL (R469). -/

/-- The SETTING record that keeps CLEAR_LEVELS (log entry 40). -/
def clearKey : Nat := 2 ^ 32

def clearLevels (s : State) : State := journalNote [jrec jSetting clearKey [1]] { s with boot.clearLevels := true }

def execClearLevels (s : State) : Out := hostWrite clearLevels s

/-! The test port (R483): its instructions work at all times. -/

/-- An instruction other than EXTEST leaves the pins to the device. -/
def tapIr (n : Nat) (s : State) : State := { s with tap.ir := BitVec.ofNat 2 n, tap.pinsTaken := decide (n = 3) }

/-- Bits shifted out, the first at bit 0. -/
def bitsNat : List Bool → Nat
  | [] => 0
  | b :: r => b2n b + 2 * bitsNat r

/-- The data passes through one register, which captures 0. -/
def execTapBypass (tdi : List Bool) (s : State) : Out :=
  let s := tapIr 0 s
  .next { s with tap.tdo := BitVec.ofNat 64 (bitsNat ((false :: tdi).take tdi.length)), tap.bypass := tdi.getLast?.getD false }

def idcode (s : State) : Nat := b2n true + 2 * s.fixed.jedec.toNat + 2 ^ 12 * 0x0F40 + 2 ^ 28 * (s.fixed.stepping.toNat % 16)

def execTapIdcode (s : State) : Out := .next { tapIr 1 s with tap.tdo := BitVec.ofNat 64 (idcode s) }

/-- The boundary register captures the pins, in an order that the manual does not give, and takes the preload. -/
def execTapSamplePreload (preload : DWord) (s : State) : Out :=
  let d := draw (tapIr 2 s)
  .next { d.2 with tap.tdo := BitVec.ofNat 64 d.1, tap.boundary := preload }

def execTapExtest (s : State) : Out := .next (tapIr 3 s)

end Sys2Proof.Machine
end

