-- ==== Sys2Proof/Machine/Commands.lean ====
section
/-! DEFINITION. The host's commands (R389-R402): how one starts, what each does, and the device's own part: fetching
entries, ending the work of long commands, and writing completions. -/

namespace Sys2Proof.Machine

/-! Phases (R397). -/

def beginPhase (c : HostCmd) (s : State) : State :=
  let p := s.hub.phase
  if fld (cmdW c 2) 0 2 = 1 ∧ (p = Phase.test ∨ p = Phase.recovery) then reply c stSuccess 0 [1] { s with hub.phase := .service }
  else if fld (cmdW c 2) 0 2 = 2 ∧ (p = Phase.service ∨ p = Phase.recovery) then reply c stSuccess 0 [2] { s with hub.phase := .test }
  else reply c stState 0 [] s

/-! Images (R337-R354, R398). -/

/-- The image store of one NVM die: 1,536 MiB. -/
def storeBytes : Nat := 1536 * 1048576

/-- IMAGE_LOAD and EPOCH: the checks ahead of the copy; the copy is under way until IMAGE_VERIFY_COMPLETE. -/
def beginImage (isEpoch : Bool) (slot : Nat) (c : HostCmd) (s : State) : State :=
  let n := cmdAddr c 6
  if cfgBusy s then rejectLong slot c 0x02 s
  else if !isEpoch && !streamsQuiet s then rejectLong slot c 0x0C s
  else if bit (cmdW c 8) 0 && decide (storeBytes < n) then rejectLong slot c 0x10 s
  else
    let l : Load := { Load.init with cmd := findLong s slot, src := BitVec.ofNat 64 (cmdAddr c 4), bytes := n, isEpoch := isEpoch, persist := bit (cmdW c 8) 0 }
    setTotal slot (ceilDiv n 4096)
      { s with cfg.load := some l, cfg.phase := if isEpoch then CfgPhase.stage else CfgPhase.load, cfg.pct := 0, cfg.waves := 0, cfg.wave := 0 }

/-- No load or switch is in progress any more. -/
def loadOver (s : State) : State := { s with cfg.load := none, cfg.phase := if s.cfg.cur.isSome then CfgPhase.loaded else CfgPhase.none }

def finishLoad (l : Load) (status cause : Nat) (result : List Word) (s : State) : State :=
  match l.cmd with
  | some k => finishLong k.slot status cause result s
  | none => s

/-- R337: a failed check ends the command, and nothing of the image takes effect. -/
def rejectImage (l : Load) (cause : Nat) (s : State) : State :=
  let op := if l.isEpoch then 0x11 else 0x10
  finishLoad l stReject cause [] (cfgReject cause op noStream (loadOver s))

/-- The image's bytes in DRAM, with the poison of what was read (R365). -/
def copyImage (src dst n : Nat) (s : State) : State :=
  (List.range (ceilDiv n 64)).foldl (fun s i =>
    let k := min 64 (n - 64 * i)
    match vread s (src + 64 * i) k with
    | .ok r => dramWrite s (dst + 64 * i) r.1 r.2
    | .error _ => s) s

/-- R339, R354: a verified image is applied. -/
def endLoad (l : Load) (g : Image) (s : State) : State :=
  if !streamsQuiet s then rejectImage l 0x0C s
  else
    let s := freshFigures (applyImage g { s with cfg.pct := 100 })
    if l.persist then { s with cfg.persist := true, cfg.pct := 0, cfg.load := some { l with committed := true, work := 0 } }
    else finishLoad l stSuccess 0 [s.cfg.epoch.zeroExtend 32] { s with cfg.load := none }

/-- R344, R345: Stage ends; Prepare begins as soon as every core's other bank is free. -/
def endStage (l : Load) (g : Image) (s : State) : State :=
  let cause := switchCheck s g
  if cause ≠ 0 then rejectImage l cause s
  else prepareIfFree { s with cfg.staged := some g, cfg.pct := 100, cfg.wavesOn := decide (g.waves ≠ []) }

/-- R337, Table 10.6: copying and verification end. -/
def verifyImage (l : Load) (s : State) : State :=
  match vread s l.src.toNat l.bytes with
  | .error e => finishLoad l stHostFault 0 (words64 e.2) (loadOver s)
  | .ok r =>
    let bs := r.1
    let cause := headCheck s bs l.bytes
    if cause ≠ 0 then rejectImage l cause s
    else
      let g := parseImage bs
      let s := copyImage l.src.toNat g.base g.bytes s
      let cause := bodyCheck s bs g
      if cause ≠ 0 then rejectImage l cause s
      else if l.isEpoch then endStage l g s else endLoad l g s

/-- R352, R398: EPOCH_ABORT. -/
def beginEpochAbort (c : HostCmd) (s : State) : State :=
  match s.cfg.phase with
  | .stage | .prepare | .switch => reply c stSuccess 0 [] (beginRollback 1 s)
  | .rollback => reply c stSuccess 0 [] s
  | _ => if (s.cfg.load.map fun l => l.isEpoch && l.committed).getD false then rejectShort c 0x02 s else reply c stState 0 [] s

/-! The remaining long commands (R402). -/

/-- Another command with this opcode is in progress. -/
def otherOf (s : State) (op slot : Nat) : Bool := s.long.any fun l => decide (cmdOp l.cmd = op) && decide (l.slot ≠ slot)

def beginScrub (slot : Nat) (c : HostCmd) (s : State) : State :=
  let off := scrubOff c
  let len := scrubLen c
  if otherOf s 0x38 slot then finishLong slot stBusy 0 [] s
  else if off % 64 ≠ 0 ∨ len % 64 ≠ 0 ∨ dieBytes < off + len then finishLong slot stBadField 0 [] s
  else
    let s := setTotal slot (ceilDiv ((scrubDies s c).length * len) 4096) s
    if scrubDies s c = [] ∨ len = 0 then finishLong slot stSuccess 0 [0, 0] s else s

/-- R462: a compaction already under way serves the command too. -/
def beginCompact (slot : Nat) (s : State) : State :=
  if otherOf s 0x39 slot then finishLong slot stBusy 0 [] s
  else
    let s := setTotal slot (ceilDiv (liveBytes (journal s)) 4096) s
    if s.jnl.compacting then s else { s with jnl.compacting := true, jnl.pct := 0, jnl.copied := 0 }

def beginQuiesce (slot : Nat) (c : HostCmd) (s : State) : State :=
  finishLong slot stSuccess 0 [] (quiesceLaser (fld (cmdW c 2) 0 2) (setTotal slot 100 s))

/-! Starting commands (R389, R390, R406). -/

/-- A long command that has its progress entry. -/
def beginLong (slot : Nat) (c : HostCmd) (envs : List LaserEnv) (s : State) : State :=
  match cmdOp c with
  | 0x10 => beginImage false slot c s
  | 0x11 => beginImage true slot c s
  | 0x20 => beginCheckpoint slot c s
  | 0x21 => beginRestore slot c s
  | 0x28 => beginKvEvict slot c s
  | 0x29 => beginKvRestore slot c s
  | 0x2A => beginKvFork slot c s
  | 0x30 => beginAdapt slot c s
  | 0x31 => beginAdaptStore slot c s
  | 0x38 => beginScrub slot c s
  | 0x39 => beginCompact slot s
  | 0x40 => beginQuiesce slot c s
  | _ => match envs[fld (cmdW c 2) 0 2]? with
    | some e => beginResume slot (fld (cmdW c 2) 0 2) e (setTotal slot 100 s)
    | none => s

/-- A command that is not long. -/
def beginShort (c : HostCmd) (s : State) : State :=
  match cmdOp c with
  | 0x01 => beginPhase c s
  | 0x12 => beginEpochAbort c s
  | 0x48 => beginAttest c s
  | 0x49 => beginOverride c s
  | _ => reply c stSuccess 0 [] s

/-- The progress entry of a long command that may start now: one is free, no command in progress or listed as
blocked names a stream of its own, and a LASER_RESUME can see its module. -/
def entryFor (s : State) (c : HostCmd) (envs : List LaserEnv) (blocked : List Nat) : Option Nat :=
  if (namedStreams c).any (fun n => streamBusy s n || blocked.contains n) then none
  else if cmdOp c = 0x41 ∧ envs = [] then none
  else freePrg s

def startLong (slot : Nat) (c : HostCmd) (envs : List LaserEnv) (s : State) : State :=
  let s := takePrg slot c 0 s
  beginLong slot c envs { s with long := s.long ++ [{ LongCmd.init with slot := slot, cmd := c }] }

/-- A command starts, is refused at once, or waits without stopping its queue. -/
def startCommand (c : HostCmd) (envs : List LaserEnv) (s : State) : State :=
  if entryStatus s c ≠ 0 then reply c (entryStatus s c) 0 [] s
  else if cmdOp c ∈ longOps then
    match entryFor s c envs (s.waitCmds.flatMap namedStreams) with
    | some slot => startLong slot c envs s
    | none => { s with waitCmds := s.waitCmds ++ [c] }
  else beginShort c s

/-- The waiting commands in order; one that goes on waiting blocks its streams for those behind it. -/
def retryWaiting (envs : List LaserEnv) : List HostCmd → List Nat → State → State
  | [], _, s => s
  | c :: r, blocked, s =>
    match entryFor s c envs blocked with
    | some slot => retryWaiting envs r blocked (startLong slot c envs s)
    | none => retryWaiting envs r (blocked ++ namedStreams c) { s with waitCmds := s.waitCmds ++ [c] }

/-- After commands have ended: what waited for them goes on. -/
def settle (envs : List LaserEnv) (s : State) : State :=
  let s := applyWrites s
  applyWrites (retryWaiting envs s.waitCmds [] { s with waitCmds := [] })

/-- A command entry with one of some opcodes starts. -/
def rowCommand (ok : Bool) (c : HostCmd) (envs : List LaserEnv) (s : State) : Out :=
  .next (if commandsOn s && ok then settle envs (startCommand c envs s) else s)

def execNop (c : HostCmd) (s : State) : Out := rowCommand (decide (cmdOp c = 0x00)) c [] s
def execPhaseService (c : HostCmd) (s : State) : Out := rowCommand (decide (cmdOp c = 0x01 ∧ fld (cmdW c 2) 0 2 = 1)) c [] s
def execPhaseTest (c : HostCmd) (s : State) : Out := rowCommand (decide (cmdOp c = 0x01 ∧ fld (cmdW c 2) 0 2 = 2)) c [] s
def execImageLoad (c : HostCmd) (s : State) : Out := rowCommand (decide (cmdOp c = 0x10)) c [] s
def execEpoch (c : HostCmd) (s : State) : Out := rowCommand (decide (cmdOp c = 0x11)) c [] s
def execEpochAbort (c : HostCmd) (s : State) : Out := rowCommand (decide (cmdOp c = 0x12)) c [] s
def execCheckpoint (c : HostCmd) (s : State) : Out := rowCommand (decide (cmdOp c = 0x20)) c [] s
def execRestore (c : HostCmd) (s : State) : Out := rowCommand (decide (cmdOp c = 0x21)) c [] s
def execKvEvict (c : HostCmd) (s : State) : Out := rowCommand (decide (cmdOp c = 0x28)) c [] s
def execKvRestore (c : HostCmd) (s : State) : Out := rowCommand (decide (cmdOp c = 0x29)) c [] s
def execKvFork (c : HostCmd) (s : State) : Out := rowCommand (decide (cmdOp c = 0x2A)) c [] s
def execAdaptRun (c : HostCmd) (s : State) : Out := rowCommand (decide (cmdOp c = 0x30)) c [] s
def execAdaptStoreSave (c : HostCmd) (s : State) : Out := rowCommand (decide (cmdOp c = 0x31) && !bit (cmdW c 2) 24) c [] s
def execAdaptStoreRecall (c : HostCmd) (s : State) : Out := rowCommand (decide (cmdOp c = 0x31) && bit (cmdW c 2) 24) c [] s
def execScrub (c : HostCmd) (s : State) : Out := rowCommand (decide (cmdOp c = 0x38)) c [] s
def execJournalCompact (c : HostCmd) (s : State) : Out := rowCommand (decide (cmdOp c = 0x39)) c [] s
def execLaserQuiesce (c : HostCmd) (s : State) : Out := rowCommand (decide (cmdOp c = 0x40)) c [] s
def execLaserResume (c : HostCmd) (env : LaserEnv) (s : State) : Out := rowCommand (decide (cmdOp c = 0x41)) c [env, env, env, env] s
def execAttest (c : HostCmd) (s : State) : Out := rowCommand (decide (cmdOp c = 0x48)) c [] s

/-- An OVERRIDE command whose record, where it can be told, has the row's TYPE. -/
def overrideRow (type : Nat) (c : HostCmd) (s : State) : Out :=
  rowCommand (decide (cmdOp c = 0x49) && decide ((overrideType s c).getD type = type)) c [] s

def execLaserOverride (c : HostCmd) (s : State) : Out := overrideRow 1 c s
def execLaserRevoke (c : HostCmd) (s : State) : Out := overrideRow 2 c s
def execOwnerEnrol (c : HostCmd) (s : State) : Out := overrideRow 3 c s
def execOwnerRevoke (c : HostCmd) (s : State) : Out := overrideRow 4 c s

/-- R482: a DEBUG_UNLOCK record, with OVERRIDE or through the test port. -/
def execDebugUnlock (c : Option HostCmd) (testPortRecord : List Byte) (s : State) : Out :=
  match c with
  | some c => overrideRow 5 c s
  | none => .next (if agentsOn s && s.hub.fwRunning && recFormOk testPortRecord && decide (recType testPortRecord = 5)
      then takeRecord none testPortRecord s else s)

/-! The device's part. -/

/-- The next queue in turn that is enabled and not empty (R389). -/
def nextQueue (s : State) : Option Nat :=
  ((List.range 4).map fun i => (s.que.turn.toNat + i) % 4).find? fun n => (getQ s n).cmdEn && decide ((getQ s n).head ≠ (getQ s n).tail)

/-- Up to a number of entries of one queue; an entry that does not translate stops the fetch (log entry 31). -/
def fetchSome (envs : List LaserEnv) (n : Nat) : Nat → State → State
  | 0, s => s
  | f + 1, s =>
    let q := getQ s n
    if q.head = q.tail then s
    else match vread s (q.cmdBase.toNat + 64 * q.head.toNat) 64 with
      | .error _ => s
      | .ok b =>
        let h := (q.head.toNat + 1) % 2 ^ q.cmdSize.toNat
        let s := modQ s n fun q => { q with head := BitVec.ofNat 12 h }
        fetchSome envs n f (startCommand { queue := BitVec.ofNat 2 n, words := wordsOf 16 b.1 } envs s)

/-- R389: one queue's turn. -/
def execCommandFetch (lasers : List LaserEnv) (s : State) : Out :=
  match (if commandsOn s then nextQueue s else none) with
  | none => .next s
  | some n => .next (settle lasers (fetchSome lasers n 8 { s with que.turn := BitVec.ofNat 2 (n + 1) }))

/-- R393: the oldest completion of a queue is written; a command that waited for its progress entry may start. -/
def execCompletionWrite (q : BitVec 2) (s : State) : Out :=
  .next (if agentsOn s && !s.pwr.hot then settle [] (writeCompletion q.toNat s) else s)

/-- R337: copying and verification of the image end. -/
def execImageVerifyComplete (s : State) : Out :=
  match s.cfg.load with
  | some l =>
    if agentsOn s && (decide (s.cfg.phase = .load) || (decide (s.cfg.phase = .stage) && s.cfg.staged.isNone)) then .next (settle [] (verifyImage l s))
    else .next s
  | none => .next s

/-- R168: the checkpoint of a stream none of whose chunks is in flight. -/
def execCheckpointBoundary (n : StreamId) (s : State) : Out :=
  match checkpointOf s n.toNat with
  | some l =>
    if agentsOn s && !inFlight (getStream s n.toNat) then
      (let p := gatherFirst n.toNat s
      .next (if p.1 then settle [] (capture l p.2) else p.2))
    else .next s
  | none => .next s

/-- R401: a step of the job in a progress entry ends. -/
def execAdaptStepComplete (slot : BitVec 4) (loss : Word) (adapter : AdaptOut) (fault : Bool) (s : State) : Out :=
  match findLong s slot.toNat with
  | some l => if agentsOn s && decide (cmdOp l.cmd = 0x30) then .next (settle [] (adaptStep l loss adapter.bytes adapter.tensors fault s)) else .next s
  | none => .next s

/-- R369. -/
def execDemandScrubRead (die : BitVec 4) (errors : List CwError) (s : State) : Out :=
  .next (if dramOn s && agentsOn s then settle [] (demandStep die.toNat errors s) else s)

/-- R460: the oldest transaction commits; the saves of adapter sets that it holds complete. -/
def execJournalCommit (ok0 ok1 : Bool) (s : State) : Out :=
  .next (if agentsOn s && s.jnl.mounted then settle [] (endAdaptSaves (commitTxn ok0 ok1 s)) else s)

/-- R462: the new half takes over, and JOURNAL_COMPACT completes. -/
def execCompactionSwitch (s : State) : Out :=
  if agentsOn s && s.jnl.mounted && s.jnl.compacting then
    let s := switchHalves s
    .next (match longOf s 0x39 with
      | some l => settle [] (finishLong l.slot stSuccess 0 [word s.jnl.fill.toNat] s)
      | none => s)
  else .next s

end Sys2Proof.Machine
end

