-- ==== Sys2Proof/Machine/EventCommands.lean ====
section
/-! DEFINITION. The error queue at work (R445-R450), injection (R405), summaries (R455) and the grace of a DEVICE
record (R448). -/

namespace Sys2Proof.Machine

/-- Table 15.2. -/
def eventCodes : List Nat :=
  [0x0101, 0x0102, 0x0103, 0x0104, 0x0105, 0x0106, 0x0107, 0x0108, 0x0201, 0x0202, 0x0203, 0x0301, 0x0302, 0x0303, 0x0304, 0x0305,
   0x0401, 0x0402, 0x0403, 0x0404, 0x0405, 0x0501, 0x0502, 0x0503, 0x0601, 0x0602, 0x0603, 0x0701, 0x0702, 0x0703, 0x0704,
   0x0801, 0x0802, 0x0901, 0x0902, 0x0903, 0x0A01, 0x0A02, 0x0A03]

/-- The management processors run, in safe halt as well; the hold-up stops them (R464). -/
def handlersOn (s : State) : Bool := !s.hub.resetLow && !s.hub.holdUp

/-- R443: a unit raises an event; POWER_FAIL comes with its sequence alone (R464). -/
def execEventRaise (code : Half) (stream : Half) (core : CoreId) (detail : List Word) (s : State) : Out :=
  if !handlersOn s || !eventCodes.contains code.toNat then .next s
  else if code = 0x0903 then .next (holdUp (s.bay.buffer.length + s.bay.waitingIn.length + 1) s)
  else .next (raise code.toNat stream core detail s)

/-- R446: the waiting record of highest class, the oldest of its class. -/
def nextWaiting (l : List Record) : Option Record :=
  l.foldl (fun m r => match m with
    | none => some r
    | some q => if q.cls.toNat < r.cls.toNat then some r else some q) none

/-- R446: the next to run, once a handling has ended. -/
def nextHandling (e : Evt) : Evt :=
  match e.preempted, nextWaiting e.waiting with
  | p :: rest, some w =>
    if w.cls.toNat ≤ p.cls.toNat then { e with handling := some p, preempted := rest }
    else { e with handling := some w, waiting := e.waiting.filter (· ≠ w) }
  | p :: rest, none => { e with handling := some p, preempted := rest }
  | [], some w => { e with handling := some w, waiting := e.waiting.filter (· ≠ w) }
  | [], none => { e with handling := none }

/-- Table 2.12, Table 15.1: the response to a GROUP record. -/
def groupResponse (r : Record) (s : State) : State :=
  if r.cls = 4 ∧ s.hub.phase ≠ .start then { s with hub.phase := .recovery } else s

/-- R445, R447: the record in handling is counted, its response is taken, and its entry waits to be written. -/
def endHandling (r : Record) (s : State) : State :=
  let s := countClass r.cls.toNat (groupResponse r s)
  { s with evt := { nextHandling s.evt with handled := s.evt.handled ++ [r] } }

/-- Entries go out unless the function is in D3hot. -/
def sendEvents (s : State) : State := if s.pwr.hot then s else flushEvents s

def execEventHandlingEnd (s : State) : Out :=
  match (if handlersOn s then s.evt.handling else none) with
  | some r => .next (sendEvents (endHandling r s))
  | none => .next s

/-- R447: the entry of the oldest handled record, while the event queue has room. -/
def execEventEntryWrite (s : State) : Out := .next (if handlersOn s && !s.pwr.hot then flushHandled 1 s else s)

/-- R448: the grace ends after 1 ms, or once no chunk is in flight (log entry 46). -/
def execDeviceGraceExpiry (s : State) : Out :=
  match (if agentsOn s then s.evt.graceUntil else none) with
  | none => .next s
  | some t => .next (safeHalt false (if s.streams.any fun e => inFlight e.2 then advanceTo s t.toNat else s))

/-- R455: after the end of a window in which records were summarised. -/
def execSummaryWindowEnd (s : State) : Out :=
  if handlersOn s && decide (s.evt.summarised ≠ []) then
    .next (raiseSummaries (advanceTo s ((s.evt.window + 1) * 1000000000)))
  else .next s

/-- R405: accepted in TEST alone. -/
def inject (value : Word) (s : State) : State :=
  if s.hub.phase = .test then raiseAs (fld value 0 16) 0 true false noStream noCore [] s else s

def execEvtInject (value : Word) (s : State) : Out := hostWrite (inject value) s

end Sys2Proof.Machine
end

