-- ==== Sys2Proof/Machine/Registers.lean ====
section
/-! DEFINITION. Accesses of BAR0 by address (R11, R12, Table 12.3): which register an offset names, 64-bit registers in two
halves, the registers whose write has no command of its own, and remote accesses (R425). -/

namespace Sys2Proof.Machine

/-! Writes of the blocks. `v` is the whole value of a 64-bit register, or holds a 32-bit one in its low word. -/

def clear4 (x : BitVec 4) (v : Word) (lo : Nat) : BitVec 4 := x &&& ~~~(BitVec.ofNat 4 (fld v lo 4))

/-- Table 12.5. -/
def queWrite (o : Nat) (v : DWord) (s : State) : State :=
  let w : Word := v.truncate 32
  if o < 0x100 then
    let n := o / 0x40
    match o % 0x40 with
    | 0x00 => cmdBase n v s
    | 0x08 => cmdCtrl n w s
    | 0x0C => cmdDoorbell n w s
    | 0x18 => cplBase n v s
    | 0x20 => cplCtrl n w s
    | 0x24 => cplDoorbell n w s
    | _ => s
  else if o = 0x100 then evBase v s
  else if o = 0x108 then evCtrl w s
  else if o = 0x10C then evDoorbell w s
  else if o = 0x120 then streamDb (fld w 0 12) (bit w 16) (bit w 17) s
  else if o = 0x124 then { s with que.holdoffUs := w.truncate 16 }
  else if o = 0x130 then
    { s with que.err := clear4 s.que.err w 0, que.cplLost := clear4 s.que.cplLost w 4, que.evqErr := s.que.evqErr && !bit w 8 }
  else if 0x200 ≤ o ∧ o < 0x400 then { s with que.resIrqEn := tabSetD 0 s.que.resIrqEn ((o - 0x200) / 4) w }
  else s

/-- Table 11.7. -/
def mmuWrite (o : Nat) (v : DWord) (s : State) : State :=
  let w : Word := v.truncate 32
  if o = 0x00 then { s with mmu.badResume := s.mmu.badResume && !bit w 0, mmu.aperMiss := s.mmu.aperMiss && !bit w 1 }
  else if o = 0x08 then { s with mmu.root := BitVec.ofNat 64 (v.toNat / 8192 * 8192) }
  else if o = 0x10 then { s with mmu.invalVa := BitVec.ofNat 64 (v.toNat % 2 ^ 48 / 65536 * 65536) }
  else if o = 0x18 then invalCtrl w s
  else if o = 0x20 then resumeWrite w s
  else if o = 0x28 then aperBase v s
  else if o = 0x40 then { s with mmu.scrubEn := bit w 0 }
  else s

/-- R404: a word of the MSI-X table; a vector that is unmasked while its pending bit is set fires. -/
def msixWrite (o : Nat) (w : Word) (s : State) : State :=
  let v := o / 16
  if o % 16 = 12 then
    let s := { s with que.msix := memSet s.que.msix o (if bit w 0 then 1 else 0) }
    if !bit w 0 && s.que.pba.getLsbD v then fireVector v { s with que.pba := s.que.pba &&& ~~~(BitVec.ofNat 64 (2 ^ v)) } else s
  else { s with que.msix := memWrite s.que.msix o (leBytes 4 w.toNat) }

/-- R482: a word of a core, under a grant that allows writes. -/
def debugWrite (o : Nat) (w : Word) (s : State) : State :=
  let t := tabPut s.hub.scratch o w
  if s.sec.scope.getLsbD 1 then { s with hub.scratch := t } else s

/-- Table 9.8. -/
def thmRegister (o : Nat) (v : DWord) (s : State) : State :=
  if o = 0x48 then telemWrite v s else if o < 0x30 then thmWrite o (v.truncate 32) s else s

/-! Accesses in 32-bit words (R12). -/

def dropLatch (off : Nat) (s : State) : State := { s with hub.latches := tabDel s.hub.latches off }

/-- The register that a 32-bit write changes, and its value, with the low word that was held when it came; none when the
word is a low word, which is held. -/
def target32 (held : Option (Nat × Word)) (off : Nat) (w : Word) (s : State) : Option (Nat × DWord) × State :=
  if isReg64 off then (none, { dropLatch off s with hub.heldLow := some (off, w) })
  else if 4 ≤ off && isReg64 (off - 4) then
    let low := match held with
      | some (o, l) => if o = off - 4 then l else regWord s (off - 4)
      | none => regWord s (off - 4)
    (some (off - 4, w ++ low), dropLatch (off - 4) s)
  else (some (off, w.zeroExtend 64), s)

/-- A 32-bit read. -/
def read32 (off : Nat) (s : State) : Word × State :=
  if isReg64 off then
    let t := tabPut s.hub.latches off (regWord s (off + 4))
    (regWord s off, { s with hub.latches := t })
  else match (if 4 ≤ off && isReg64 (off - 4) then tabGet s.hub.latches (off - 4) else none) with
    | some w => (w, dropLatch (off - 4) s)
    | none => (regWord s off, s)

/-- R12: a read of any size and alignment; one that is no aligned word or pair of words returns 0. -/
def busRead (off size : Nat) (s : State) : List Byte × State :=
  if size = 4 ∧ off % 4 = 0 then (let r := read32 off s; (leBytes 4 r.1.toNat, r.2))
  else if size = 8 ∧ off % 8 = 0 then
    if isReg64 off then (leBytes 4 (regWord s off).toNat ++ leBytes 4 (regWord s (off + 4)).toNat, dropLatch off s)
    else
      let a := read32 off s
      let b := read32 (off + 4) a.2
      (leBytes 4 a.1.toNat ++ leBytes 4 b.1.toNat, b.2)
  else (List.replicate size 0, s)

/-- Table 12.2: a word of the configuration header, at the offset that the PCI type 0 header gives it (log entry 97). -/
def configWord (s : State) (off : Nat) : Word :=
  let f := s.fixed
  match off with
  | 0x00 => word (f.vendor.toNat + at' 16 0x0F40)
  | 0x08 => word (f.stepping.toNat + at' 8 0x120000)
  | 0x0C => Config.configRest off &&& 0xFF00FFFF
  | 0x10 => word (Config.barBase 0 / 2 ^ 25 * 2 ^ 25 % 2 ^ 32 + 0x4)
  | 0x14 => word (Config.barBase 0 / 2 ^ 32)
  | 0x18 => word (Config.barBase 2 / 2 ^ 34 * 2 ^ 34 % 2 ^ 32 + 0xC)
  | 0x1C => word (Config.barBase 2 / 2 ^ 34 * 2 ^ 34 / 2 ^ 32)
  | 0x20 => 0
  | 0x24 => 0
  | 0x2C => word (f.vendor.toNat + at' 16 (if f.variant = 0 then 1 else 2))
  | _ => Config.configRest off

/-- R381: bytes of the configuration header. -/
def configRead (s : State) (off size : Nat) : List Byte :=
  (List.range size).map fun i => ((leBytes 4 (configWord s ((off + i) / 4 * 4)).toNat).getD ((off + i) % 4) 0)

/-! Remote accesses (R425). GO reads 1 until the access ends; while it does, a write of the register has no effect. -/

/-- A word of the package's own stream table is read. -/
def remoteRead (off : Nat) (s : State) : Option Word × State :=
  if off % 4 = 0 then
    let r := read32 (0x100000 + off) s
    (some r.1, r.2)
  else (none, s)

/-- And written, under its own rules (R282, R293); a discarded write fails. -/
def remoteWrite (off : Nat) (w : Word) (s : State) : Option Word × State :=
  if off % 4 = 0 then
    let n := off / 0x100
    match target32 s.hub.heldLow (0x100000 + off) w (dropHeld s) with
    | (none, s) => (some 0, s)
    | (some (o, v), s) =>
      let t := steWrite n (o % 0x100) v s
      (if t = steReject n (o % 0x100) s then none else some 0, t)
  else (none, s)

/-- The access leaves for its target on VC 0; a target that is no other member ends it at once. -/
def startRemote (v : Word) (s : State) : State :=
  if bit s.cas.remote 31 then s
  else
    let s := { s with cas.remote := v &&& 0x81FFFFFF }
    let m := fld v 20 4
    if !bit v 31 then s
    else if !s.cas.members.getLsbD m then endRemote none s
    else if m = casMe s then
      let r := if bit v 24 then remoteWrite (fld v 0 20) s.cas.remoteData s else remoteRead (fld v 0 20) s
      endRemote r.1 r.2
    else sendMsg 0 m 0 (if bit v 24 then .write (BitVec.ofNat 20 (fld v 0 20)) s.cas.remoteData else .read (BitVec.ofNat 20 (fld v 0 20))) s

/-! The map (Table 12.3). -/

/-- The register at an offset takes a value; registers that a write does not change ignore it. -/
def writeReg (off : Nat) (v : DWord) (s : State) : State :=
  let o := off % 0x1000
  let w : Word := v.truncate 32
  match off / 0x1000 with
  | 0x1 => queWrite o v s
  | 0x2 => if o = 0x30 then inject w s else s
  | 0x5 => thmRegister o v s
  | 0x6 => pwrWrite o v s
  | 0x8 => portWrite (o / 0x100) (o % 0x100) v s
  | 0x9 => if o = 0x20 then startRemote w s else casWrite o v s
  | 0xA => if o = 0x14 then bbxIndex w s else s
  | 0xB => if o = 0x20 then debugCtrl w s else if o = 0x80C && bit w 0 then clearLevels s else s
  | blk =>
    if 0xC ≤ blk ∧ blk < 0x11 then mmuWrite (off - 0xC000) v s
    else if 0x11000 ≤ off ∧ off < 0x11400 then msixWrite (off - 0x11000) w s
    else if 0x100000 ≤ off ∧ off < 0x200000 then steWrite ((off - 0x100000) / 0x100) (off % 0x100) v s
    else if 0x1000000 ≤ off then debugWrite (off - 0x1000000) w s
    else s

/-! Accesses of the host (R12). -/

def write32 (held : Option (Nat × Word)) (off : Nat) (w : Word) (s : State) : State :=
  match target32 held off w s with
  | (some (o, v), s) => writeReg o v s
  | (none, s) => s

/-- A write of any size. -/
def busWrite (off size : Nat) (v : DWord) (s : State) : State :=
  let held := s.hub.heldLow
  let s := dropHeld s
  if size = 4 ∧ off % 4 = 0 then write32 held off (v.truncate 32) s
  else if size = 8 ∧ off % 8 = 0 then
    if isReg64 off then writeReg off v (dropLatch off s)
    else write32 none (off + 4) (BitVec.ofNat 32 (v.toNat / 2 ^ 32)) (write32 none off (v.truncate 32) s)
  else s

/-! The commands. -/

/-- R451: in safe halt BBX_READ_INDEX alone takes a write, which may be the high word of a 64-bit one (R12). -/
def barWrite (off size : Nat) (v : DWord) (s : State) : Out :=
  .next (if hostOn s && (!s.hub.halted || decide ((off = 0xA014 ∧ size = 4) ∨ (off = 0xA010 ∧ size = 8))) then busWrite off size v s else s)

def execRegisterWrite (off : BitVec 25) (size : Nat) (value : DWord) (s : State) : Out := barWrite off.toNat size value s

/-- R12: the low word of a 64-bit register is held until its high word is written. -/
def execReg64LowWordWrite (off : BitVec 25) (value : Word) (s : State) : Out := barWrite off.toNat 4 (value.zeroExtend 64) s

/-- R12, R381: a read of BAR0 or of the configuration header; hub.busData shows what it returns. -/
def execReg64LowWordRead (read : HostRead) (s : State) : Out :=
  .next (if hostOn s then
    let r := if read.config then (configRead s read.off.toNat read.size, s) else busRead read.off.toNat read.size s
    { r.2 with hub.busData := r.1, hub.busPoison := false }
  else s)

/-- R282: a write of an entry of the stream table. -/
def execSteConfigWrite (n : StreamId) (off : BitVec 8) (value : DWord) (wide : Bool) (s : State) : Out :=
  barWrite (steBase n.toNat + off.toNat) (if wide then 8 else 4) value s

/-- R320: a write of the THM_ block. -/
def execThmRegisterWrite (off : BitVec 12) (value : DWord) (wide : Bool) (s : State) : Out :=
  barWrite (0x5000 + off.toNat) (if wide then 8 else 4) value s

end Sys2Proof.Machine
end

