-- ==== Sys2Proof/Machine/Ethernet.lean ====
section
/-! DEFINITION. Ethernet frames received (R411-R413) and stream datagrams (R414-R419). Bytes of a frame run from the
destination address to the FCS; numbers in the protocols' headers are most significant byte first. -/

namespace Sys2Proof.Machine

/-! Stream datagrams (Table 13.4). -/

structure Datagram where
  reset : Bool
  last : Bool
  flow : Nat
  seq : Word
  frames : Nat
  len : Nat
  time : Nat
  period : Nat
  body : List Byte
  deriving DecidableEq, Repr

def datagramOf (bs : List Byte) : Datagram :=
  { reset := bit (wordAt bs 0) 24, last := bit (wordAt bs 0) 25, flow := (wordAt bs 1).toNat, seq := wordAt bs 2
    frames := fld (wordAt bs 3) 0 16, len := fld (wordAt bs 3) 16 16, time := (dwordAt bs 4).toNat, period := (wordAt bs 6).toNat
    body := bs.drop 32 }

/-- R414. -/
def datagramValid (bs : List Byte) : Bool :=
  let d := datagramOf bs
  decide (32 ≤ bs.length) && decide (fld (wordAt bs 0) 0 16 = 0x5344) && decide (fld (wordAt bs 0) 16 8 = 1) && decide (fld (wordAt bs 0) 26 6 = 0) &&
  decide (wordAt bs 7 = 0) && decide (0 < d.frames) && decide (0 < d.len)

/-- The header of a frame's slot (Table 9.4). -/
def slotHeader (seq len : Nat) (mark gap last : Bool) (time : Nat) : List Byte :=
  leBytes 4 seq ++ leBytes 4 (len + bw mark 16 + bw gap 17 + bw last 18) ++ leBytes 8 time

/-- R288: the gap frames written for a run of missing numbers: those of the last F numbers when it is longer than
LAG_LIMIT × F. -/
def gapsWritten (lag f run : Nat) : Nat := if lag * f < run then f else run

/-- R415, R417: the frames that a datagram writes: its gap frames, then its own. RESET_MARK is set on the first of its own
when the datagram resets, or when the run before it was cut (R288). -/
def datagramSlots (gaps : Nat) (mark : Bool) (d : Datagram) : List (List Byte) :=
  ((List.range gaps).map fun i => slotHeader (d.seq.toNat + 2 ^ 32 - gaps % 2 ^ 32 + i) 0 false true false d.time) ++
  (List.range d.frames).map fun i =>
    slotHeader (d.seq.toNat + i) d.len ((d.reset || mark) && decide (i = 0)) false (d.last && decide (i + 1 = d.frames)) (d.time + i * d.period) ++
    cut d.body (i * d.len) d.len

/-- R416, R415: the stream takes the datagram. -/
def takesInput (s : State) (x : Stream) (d : Datagram) : Bool :=
  observes x && ringInDram s x.d.inR && decide (d.len + 16 ≤ x.d.inR.slotBytes)

/-- SEQ - E as a signed 32-bit number, 0 where E is empty or the datagram resets. -/
def seqAhead (x : Stream) (d : Datagram) : Int :=
  match (if d.reset then none else x.d.seqE) with
  | none => 0
  | some e => (d.seq - e).toInt

/-- The slots are written, then WR_IDX once over all of them (R419). -/
def writeSlots (x : Stream) (slots : List (List Byte)) (s : State) : State :=
  let s := (List.range slots.length).foldl (fun s i =>
    (vwrite s (ringSlot x.d.inR ((x.d.wrSeen + i) % 2 ^ 64)) (slots.getD i []) false).1) s
  (vwrite s (x.r.inRing.toNat + 16) (leBytes 8 (x.d.wrSeen + slots.length)) false).1

/-- Steps 12 to 14 for a stream, and the writing of an accepted datagram: the counter of the step that fails, or the gap
frames written. -/
def takeDatagram (n stamp : Nat) (d : Datagram) (s : State) : Except Nat (Nat × State) :=
  let x := getStream s n
  let ahead := seqAhead x d
  let gaps := gapsWritten x.d.lagLimit (((inputTemplate s x).map (·.f)).getD 1) ahead.toNat
  if !takesInput s x d then .error ctrFlow
  else if ahead < 0 then .error ctrLate
  else if x.d.inR.nslots < idxSub x.d.wrSeen x.d.rdIdx + gaps + d.frames then .error ctrFull
  else
    let s := modStream (writeSlots x (datagramSlots gaps (decide (gaps < ahead.toNat)) d) s) n fun x => { x with d.seqE := some (d.seq + BitVec.ofNat 32 d.frames) }
    .ok (gaps, observeAt n stamp s)

/-- R428: the home forwards an accepted datagram to the other members. -/
def forwardDatagram (n : Nat) (stamp : DWord) (payload : List Byte) (s : State) : State :=
  if crosses s then
    ((List.range 16).filter fun i => s.cas.members.getLsbD i && decide (i ≠ casMe s)).foldl (fun s i =>
      sendMsg 2 i n (.datagram (BitVec.ofNat 12 n) stamp payload) s) s
  else s

/-- A forwarded datagram: a member whose flow tables name its stream takes it (R428). -/
def takeForwarded (n : Nat) (stamp : DWord) (payload : List Byte) (s : State) : State :=
  let d := datagramOf payload
  if opticalFed s n then
    match takeDatagram n stamp.toNat d s with
    | .ok r => r.2
    | .error _ => s
  else s

/-! The headers of a frame. -/

/-- The VLAN tag's place, and where the EtherType stands: tagged once, twice, or not. -/
def tagged (f : List Byte) : Bool := decide (beAt f 12 2 = 0x8100)
def typeAt (f : List Byte) : Nat := if tagged f then 16 else 12
def etherType (f : List Byte) : Nat := beAt f (typeAt f) 2

/-- Step 4. -/
def vlanOk (x : Port) (f : List Byte) : Bool :=
  let v := x.vlan.zeroExtend 32
  if bit v 15 then tagged f && decide (beAt f 14 2 % 4096 = fld v 0 12) && decide (etherType f ≠ 0x8100) && decide (etherType f ≠ 0x88A8)
  else !tagged f

/-- The solicited-node multicast address of PORT_IPV6. -/
def solicitedMac (x : Port) : Nat := 0x3333FF000000 + x.ipv6.toNat % 2 ^ 24

/-- An IPv6 address on the wire: the most significant byte of the register first. -/
def v6Bytes (a : BitVec 128) : List Byte := beBytes 16 a.toNat

/-- Step 5. -/
def macOk (x : Port) (f : List Byte) : Bool :=
  let m := beAt f 0 6
  decide (m = x.mac.toNat) || (decide (m = 0xFFFFFFFFFFFF) && decide (etherType f = 0x0806)) ||
  (decide (x.ipv6 ≠ 0) && decide (m = solicitedMac x))

/-- The frame without its MAC header and FCS. -/
def packetOf (f : List Byte) : List Byte := (f.take (f.length - 4)).drop (typeAt f + 2)

/-! ARP and neighbour discovery (step 6). -/

def arpForUs (x : Port) (p : List Byte) : Bool :=
  decide (beAt p 0 8 = 0x0001080006040001) && decide (28 ≤ p.length) && decide (x.ipv4 ≠ 0) && decide (beAt p 24 4 = x.ipv4.toNat)

/-- A frame of at least 64 bytes. -/
def frameOf (x : Port) (dst type : Nat) (packet : List Byte) : List Byte :=
  let b := macHeader x dst type ++ packet
  withFcs (b ++ List.replicate (60 - b.length) 0)

def arpReply (x : Port) (p : List Byte) : List Byte :=
  frameOf x (beAt p 8 6) 0x0806
    (beBytes 8 0x0001080006040002 ++ beBytes 6 x.mac.toNat ++ beBytes 4 x.ipv4.toNat ++ cut p 8 6 ++ cut p 14 4)

/-- The checksum of an ICMPv6 message with its pseudo-header. -/
def icmpSum (src dst msg : List Byte) : Nat := inetSum (src ++ dst ++ beBytes 4 msg.length ++ [0, 0, 0, 58] ++ msg)

def icmp6 (f p : List Byte) : Bool := decide (etherType f = 0x86DD) && decide (beAt p 6 1 = 58)

/-- A neighbour solicitation for PORT_IPV6, as RFC 4861 validates it; one from the unspecified address asks for duplicate
address detection, which the port does not take part in. -/
def nsForUs (x : Port) (p : List Byte) : Bool :=
  let msg := cut p 40 (beAt p 4 2)
  decide (x.ipv6 ≠ 0) && decide (beAt p 40 2 = 0x8700) && decide (24 ≤ msg.length) && decide (beAt p 7 1 = 255) &&
  decide (icmpSum (cut p 8 16) (cut p 24 16) msg = 0) && decide (beAt p 8 16 ≠ 0) && decide (cut msg 8 16 = v6Bytes x.ipv6)

/-- The solicited neighbour advertisement, with the target's link-layer address. -/
def advertisement (x : Port) (f p : List Byte) : List Byte :=
  let src := v6Bytes x.ipv6
  let dst := cut p 8 16
  let m (sum : Nat) : List Byte := beBytes 2 0x8800 ++ beBytes 2 sum ++ beBytes 4 0x60000000 ++ src ++ [2, 1] ++ beBytes 6 x.mac.toNat
  let msg := m (icmpSum src dst (m 0))
  frameOf x (beAt f 6 6) 0x86DD (beBytes 4 0x60000000 ++ beBytes 2 msg.length ++ [58, 255] ++ src ++ dst ++ msg)

/-! IP and UDP (steps 7 to 11). -/

def isV4 (f : List Byte) : Bool := decide (etherType f = 0x0800)
def isV6 (f : List Byte) : Bool := decide (etherType f = 0x86DD)

/-- Step 7. -/
def ipAddrOk (x : Port) (f p : List Byte) : Bool :=
  if isV4 f then decide (x.ipv4 ≠ 0) && decide (beAt p 16 4 = x.ipv4.toNat)
  else if isV6 f then decide (x.ipv6 ≠ 0) && decide (cut p 24 16 = v6Bytes x.ipv6)
  else true

/-- Step 8. -/
def ipFragment (f p : List Byte) : Bool :=
  if isV4 f then decide (beAt p 6 2 % 0x4000 ≠ 0) else isV6 f && decide (beAt p 6 1 = 44)

/-- The extension headers of IPv6 beside Fragment. -/
def v6Extensions : List Nat := [0, 43, 50, 51, 60, 135, 139, 140]

/-- Step 9 (log entry 66): the packet may be shorter than the frame, which is padded. -/
def ipOk (f p : List Byte) : Bool :=
  if isV4 f then
    decide (beAt p 0 1 = 0x45) && decide (inetSum (cut p 0 20) = 0) && decide (20 ≤ beAt p 2 2) && decide (beAt p 2 2 ≤ p.length)
  else if isV6 f then
    decide (beAt p 0 1 / 16 = 6) && !v6Extensions.contains (beAt p 6 1) && decide (40 + beAt p 4 2 ≤ p.length)
  else true

/-- The payload of the IP packet. -/
def ipPayload (f p : List Byte) : List Byte := if isV4 f then cut p 20 (beAt p 2 2 - 20) else cut p 40 (beAt p 4 2)

/-- Step 10. -/
def udpOurs (x : Port) (f p : List Byte) : Bool :=
  (if isV4 f then decide (beAt p 9 1 = 17) else isV6 f && decide (beAt p 6 1 = 17)) &&
  decide (x.udpDst ≠ 0) && decide (beAt (ipPayload f p) 2 2 = x.udpDst.toNat)

def udpSumOk (f p u : List Byte) : Bool :=
  let v6 := isV6 f
  if beAt u 6 2 = 0 then !v6
  else decide (udpSum v6 (if v6 then cut p 8 16 else cut p 12 4) (if v6 then cut p 24 16 else cut p 16 4) u = 0)

/-- Step 11: the datagram of a frame. -/
def datagramIn (f p : List Byte) : Option (List Byte) :=
  let q := ipPayload f p
  let u := cut q 0 (beAt q 4 2)
  let d := datagramOf (u.drop 8)
  if decide (u.length = beAt q 4 2) && decide (8 ≤ u.length) && udpSumOk f p u && datagramValid (u.drop 8) && decide (u.length = 40 + d.frames * d.len)
  then some (u.drop 8) else none

/-! The checks in order (Table 13.3). -/

def answerFrame (p : Nat) (frame : List Byte) (s : State) : State := bumpCtr p ctrNd 1 (sendFrame p frame s)

/-- Steps 12 to 14, and acceptance. -/
def receiveDatagram (p stamp : Nat) (x : Port) (bs : List Byte) (s : State) : State :=
  let d := datagramOf bs
  let e := flowAt s x d.flow
  if x.flowCount.toNat ≤ d.flow || !e.valid then bumpCtr p ctrFlow 1 s
  else match takeDatagram e.stream stamp d s with
    | .error c => bumpCtr p c 1 s
    | .ok (gaps, s) => forwardDatagram e.stream (BitVec.ofNat 64 stamp) bs (bumpCtr p ctrGap gaps s)

/-- Steps 7 to 14. -/
def receivePacket (p stamp : Nat) (x : Port) (f : List Byte) (s : State) : State :=
  let k := packetOf f
  if !ipAddrOk x f k then bumpCtr p ctrAddr 1 s
  else if ipFragment f k then bumpCtr p ctrFrag 1 s
  else if !ipOk f k then bumpCtr p ctrIp 1 s
  else if !udpOurs x f k then bumpCtr p ctrProto 1 s
  else match datagramIn f k with
    | none => bumpCtr p ctrFormat 1 s
    | some bs => receiveDatagram p stamp x bs s

/-- Steps 2 to 14 for a frame with a good FCS. -/
def receiveFrame (p stamp : Nat) (x : Port) (f : List Byte) (s : State) : State :=
  let k := packetOf f
  if 9216 < f.length then bumpCtr p ctrOversize 1 s
  else if beAt f 12 2 = 0x8808 then bumpCtr p ctrPause 1 s
  else if !vlanOk x f then bumpCtr p ctrVlan 1 s
  else if !macOk x f then bumpCtr p ctrAddr 1 s
  else if etherType f = 0x0806 then (if arpForUs x k then answerFrame p (arpReply x k) s else bumpCtr p ctrProto 1 s)
  else if icmp6 f k then (if nsForUs x k then answerFrame p (advertisement x f k) s else bumpCtr p ctrProto 1 s)
  else receivePacket p stamp x f s

def fcsOk (f : List Byte) : Bool :=
  let n := f.length - 4
  decide (4 < f.length) && decide ((crc32 (f.take n)).toNat = natAt f n 4)

/-- A frame on a port in ETHERNET mode; in any other it is discarded uncounted (R409). -/
def takeFrame (p : Nat) (f : List Byte) (fec : FecCount) (stamp : Nat) (s : State) : State :=
  let x := getPort s p
  if x.active ≠ 1 || !x.linkUp then s
  else
    let s := countFec p fec s
    if fec.failed ≠ 0 || !fcsOk f then bumpCtr p ctrFcs 1 s
    else receiveFrame p stamp x f (bumpLong p 1 f.length (bumpLong p 0 1 s))

/-- R412: a frame, its receive timestamp, and what the FEC found in it. -/
def execEthFrameReceive (port : PortId) (frame : List Byte) (fec : FecCount) (stamp : DWord) (s : State) : Out :=
  .next (if agentsOn s && !s.pwr.hot then takeFrame port.toNat frame fec stamp.toNat (advanceTo s stamp.toNat) else s)

end Sys2Proof.Machine
end

