-- ==== Sys2Proof/Machine/Cascade.lean ====
section
/-! DEFINITION. Quanak flits received (R422-R424), and what their messages do (R425-R428). -/

namespace Sys2Proof.Machine

/-! The receiver (R423). -/

/-- A discard: the first one, and a flit that fails again, asks for a resend; after eight requests for one SEQ the link
retrains. -/
def discardFlit (p : Nat) (ask : Bool) (s : State) : State :=
  let l := getLink s p
  let s := bumpCtr p ctrCasCrc 1 (modLink s p fun l => { l with discarding := true })
  if !ask then s
  else if 8 ≤ l.retries then linkDown p s
  else transmit p (plainFlit s 3) (modLink s p fun l => { l with retries := l.retries + 1 })

/-- ACK frees the flits that it covers, and CREDITS come back. -/
def takeHeader (p : Nat) (f : Flit) (s : State) : State :=
  modLink s p fun l =>
    let gone := (f.ack + 4096 - l.acked.toNat) % 4096
    let l := if gone ≤ l.replay.length then { l with replay := l.replay.drop gone, acked := BitVec.ofNat 12 f.ack } else l
    { l with credits := vmod 0 l.credits f.creditVc fun n => min 256 (n + f.credits) }

/-! Messages. -/

/-- R428: a slot of a cross route is written into the ring of core i of its group. -/
def takeRouteSlot (src route i group ring : Nat) (tag : Half) (data : List Byte) (poison : Bool) (s : State) : State :=
  match s.cfg.cur.bind fun g => groupIn g group with
  | none => s
  | some g =>
    let c := g.coreFirst + i
    if g.coreCount ≤ i then s
    else dmaRun c (slotArrives c ring { Slot.init with poison := poison, route := some (BitVec.ofNat 4 src, route, i) } tag data poison noCore s)

/-- R225: a credit of a cross route comes back. -/
def takeCredit (route i : Nat) (s : State) : State :=
  match (xRoutes s).find? fun e => decide (e.index = route) with
  | none => s
  | some e => setCredits e i (min e.credits (heldCredits s e i + 1)) s

/-- R425: a remote access is answered on VC 1. -/
def answerRemote (src : Nat) (r : Option Word × State) : State := sendMsg 1 src 0 (.answer r.1) r.2

/-- What a message of a package does here; stream traffic only in FORMED (R426). -/
def takeMessage (p src : Nat) (m : Config.CasMsg) (s : State) : State :=
  match m with
  | .ident id mstr topo size => takeIdent p src (id, mstr, topo, size) s
  | .beat time => takeBeat time s
  | .read off => answerRemote src (remoteRead off.toNat s)
  | .write off v => answerRemote src (remoteWrite off.toNat v s)
  | .answer v => if bit s.cas.remote 31 ∧ fld s.cas.remote 20 4 = src then endRemote v s else s
  | .slot route i group ring tag data poison =>
    if crosses s && islandsOn s then takeRouteSlot src route i group.toNat ring.toNat tag data poison s else s
  | .credit route i => if crosses s then takeCredit route i s else s
  | .datagram n stamp payload => if crosses s then takeForwarded n.toNat stamp payload s else s
  | .token home n model replica num deadline frames express init final gapRun context out =>
    if crosses s then takeFarToken src home n.toNat model replica num deadline frames express init final gapRun context out s else s
  | .report n num flags fault more result => if crosses s then takeReport src n.toNat num flags fault more result s else s
  | .withdraw n num => if crosses s then takeWithdrawal n.toNat num s else s
  | .gather n => if crosses s then answerGather src n.toNat s else s
  | .gathered n more formats secs => if crosses s then takeGathered src n.toNat more formats secs s else s
  | .scatter home n formats secs => if crosses s then takeScatter src home n.toNat formats secs s else s

/-! Data flits. -/

def assemblyKey (f : Flit) : Nat := 64 * (Config.casPart f.payload).1 + 4 * f.src + f.vc

/-- A flit's payload joins its message; the last one completes it. -/
def deliverFlit (p : Nat) (f : Flit) (s : State) : State :=
  let k := assemblyKey f
  let bs := tabGetD [] s.cas.assembly k ++ f.payload
  match Config.casDecode bs with
  | some m =>
    let t := tabDel s.cas.assembly k
    takeMessage p f.src m { s with cas.assembly := t }
  | none =>
    let t := tabPut s.cas.assembly k bs
    { s with cas.assembly := t }

/-- R424, R426: a flit for another package goes on by the route. -/
def passOn (f : Flit) (s : State) : State :=
  match portTo s f.dst (Config.casPart f.payload).2 with
  | some q => pumpAll q (modLink s q fun l => { l with outbox := l.outbox ++ [flitBytes f] })
  | none => s

/-- The data flit that was expected: its buffer is free again once it has been delivered or passed on. -/
def acceptFlit (p : Nat) (f : Flit) (s : State) : State :=
  let s := modLink s p fun l => { l with rxSeq := l.rxSeq + 1, discarding := false, retries := 0, rxBuf := vmod 0 l.rxBuf f.vc (· + 1) }
  let s := if f.dst = casMe s ∨ f.dst = f.src then deliverFlit p f s else passOn f s
  let s := flushCascade s
  if quanakUp s p then transmit p (plainFlit s 0) s else s

def dataFlit (p : Nat) (f : Flit) (s : State) : State :=
  let l := getLink s p
  let ahead := (f.seq + 4096 - l.rxSeq.toNat) % 4096
  if ahead = 0 then acceptFlit p f s
  else if l.discarding then discardFlit p false s
  else if ahead < 2048 then discardFlit p true s
  else s

def takeFlit (p : Nat) (bs : List Byte) (s : State) : State :=
  if !quanakUp s p then s
  else if !flitOk bs then discardFlit p true s
  else
    let f := flitOf bs
    match f.type with
    | 0 | 2 => pumpAll p (takeHeader p f s)
    | 1 => dataFlit p f (pumpAll p (takeHeader p f s))
    | 3 => pumpAll p (resendFrom p f.ack (takeHeader p f s))
    | _ => s

/-! The commands. -/

/-- A flit, and what the FEC found in it: an uncorrectable codeword is counted, and the CRC judges the flit. -/
def execFlitReceive (port : PortId) (flit : FlitIn) (s : State) : Out :=
  .next (if agentsOn s && !s.pwr.hot && quanakUp s port.toNat then takeFlit port.toNat flit.bytes (countFec port.toNat flit.fec s) else s)

/-- R423: a retry request names the last good SEQ. -/
def execRetryRequest (port : PortId) (ack : BitVec 12) (s : State) : Out :=
  .next (if agentsOn s && quanakUp s port.toNat then pumpAll port.toNat (resendFrom port.toNat ack.toNat s) else s)

/-- A write of CAS_REMOTE, and the end of the access that it starts. -/
def remoteDone (value : Word) (answer : Option Word) (s : State) : State :=
  if bit s.cas.remote 31 then s
  else
    let s := startRemote value s
    if bit s.cas.remote 31 then endRemote answer s else s

/-- R425: with WRITE 0; what the target answers, none when the access fails. -/
def execCasRemoteRead (value : Word) (answer : Option Word) (s : State) : Out := hostWrite (remoteDone value answer) s

/-- R425: with WRITE 1; whether the target accepted the write. -/
def execCasRemoteWrite (value : Word) (accepted : Bool) (s : State) : Out :=
  hostWrite (remoteDone value (if accepted then some 0 else none)) s

end Sys2Proof.Machine
end

