-- ==== Sys2Proof/Machine/Start.lean ====
section
/-! DEFINITION. The start (R467-R473, R475-R477, R454, R461, R354): its fourteen steps, their levels, the start log and
what a failure leads to. One command runs a start to its end, to a halt or to a step failure; StartEnv says what the
hardware shows it. -/

namespace Sys2Proof.Machine

/-! The state before a start. -/

/-- What a bay holds across a reset: the module, with the record in its memory. -/
def coldLaser (l : Laser) : Laser := { Laser.init with present := l.present, moduleRecord := l.moduleRecord }

/-- Every register at its reset value; the NVM and the one-time-programmable array keep their contents (R496). -/
def coldState (s : State) : State :=
  { State.reset with
    pending := s.pending, fresh := s.fresh, fixed := s.fixed, hostMem := s.hostMem, tap := s.tap
    hub.powerGood := s.hub.powerGood
    pwr.limitW := if s.fixed.variant = 1 then 600 else 750
    bay.copy0 := s.bay.copy0, bay.copy1 := s.bay.copy1
    jnl.copy0 := s.jnl.copy0, jnl.copy1 := s.jnl.copy1, jnl.gen := s.jnl.gen, jnl.torn0 := s.jnl.torn0
    jnl.image0 := s.jnl.image0, jnl.image1 := s.jnl.image1
    sec.slots := s.sec.slots, sec.fwFloor := s.sec.fwFloor, sec.imgFloor := s.sec.imgFloor
    las := s.las.map coldLaser }

/-- A reset pin is low: the device is held in reset, and a start follows its rise. -/
def heldReset (s : State) : State :=
  let c := coldState s
  { c with hub.resetLow := true }

/-! The start log (R472). -/

def bitsOf (l : List Nat) : Nat := l.foldl (fun a u => a + 2 ^ u) 0

def parseStepLog (bs : List Byte) : StepLog :=
  { outcome := BitVec.ofNat 3 (fld (wordAt bs 0) 0 3), level := BitVec.ofNat 2 (fld (wordAt bs 0) 3 2)
    attempts := BitVec.ofNat 4 (fld (wordAt bs 0) 8 4), reason := BitVec.ofNat 4 (fld (wordAt bs 0) 12 4)
    unitFail := BitVec.ofNat 16 (fld (wordAt bs 1) 0 16), unitLevel := wordAt bs 2 }

def parseStartLog (bs : List Byte) : StartLog :=
  { start := wordAt bs 0, cause := BitVec.ofNat 4 (fld (wordAt bs 1) 0 4), cleared := bit (wordAt bs 1) 4, degraded := bit (wordAt bs 1) 5
    durationMs := wordAt bs 2, fwVersion := BitVec.ofNat 16 (fld (wordAt bs 3) 0 16), fwCopy := bit (wordAt bs 3) 16
    steps := Vector.ofFn fun (i : Fin 14) => parseStepLog (bs.drop (32 + 16 * i.val)) }

/-- The log of a start, from the journal. -/
def startLogOf (s : State) (count : Nat) : Option StartLog := (jnlGet s jStartLog count).map fun r => parseStartLog r.payload

/-- What the device writes in the journal during a start is committed before the start goes on. -/
def startNote (recs : List JRec) (s : State) : State :=
  match journalPut recs s with
  | some p => commitTxn true true p.2
  | none => s

/-- The START_LOG record, once the journal is mounted. -/
def writeLog (s : State) : State := if s.jnl.mounted then startNote [jrec jStartLog s.boot.log.start.toNat (startLogBytes s.boot.log)] s else s

def stepLog (s : State) (n : Nat) : StepLog := vget StepLog.init s.boot.log.steps (n - 1)
def setStep (n : Nat) (f : StepLog → StepLog) (s : State) : State :=
  { s with boot.log.steps := vmod StepLog.init s.boot.log.steps (n - 1) f }

/-- A step begins. -/
def beginStep (n : Nat) (s : State) : State :=
  { s with boot.step := BitVec.ofNat 4 n, boot.level := (stepLog s n).level, boot.attempts := 0 }

/-- A step ends with an outcome of Table 16.5; STEP counts the steps completed without a gap. -/
def endStep (n outcome attempts reason failed : Nat) (s : State) : State :=
  let s := setStep n (fun e => { e with outcome := BitVec.ofNat 3 outcome, attempts := BitVec.ofNat 4 (min 15 attempts), reason := BitVec.ofNat 4 reason, unitFail := BitVec.ofNat 16 failed }) s
  let done := outcome ≠ 3
  writeLog { s with boot.attempts := BitVec.ofNat 4 (min 15 attempts)
                    hub.step := if done ∧ s.hub.step.toNat + 1 = n then BitVec.ofNat 4 n else s.hub.step }

/-- R471: START_STEP_FAIL. -/
def stepFail (n attempts reason failed : Nat) (restart : Bool) (s : State) : State :=
  raisePlain 0x0801 [0, 0, word (n + at' 4 (stepLog s n).level.toNat + at' 8 (min 15 attempts) + at' 12 reason + bw restart 16), word failed] s

/-! Levels (R469, Table 16.2). -/

def topLevel (n : Nat) : Nat := if n = 7 ∨ n = 13 then 1 else 2

/-- The steps with units, in the order of StartEnv.steps, and the units of each. -/
def unitSteps : List Nat := [6, 7, 8, 9, 10, 11, 13]

def stepUnits (n : Nat) : List Nat :=
  if n = 7 then List.range 16 else if n ∈ [8, 9, 10] then List.range 12 else if n = 11 then List.range 4 else [0]

def loggedLevel (e : StepLog) (u : Nat) : Nat := fld e.unitLevel (2 * u) 2

/-- The level of a unit, by the logs of the two starts before. -/
def nextLevel (l1 l2 : Option StartLog) (n u : Nat) : Nat :=
  match l1 with
  | none => 0
  | some a =>
    let e := vget StepLog.init a.steps (n - 1)
    let v := loggedLevel e u
    let again := match l2 with
      | some b =>
        let d := vget StepLog.init b.steps (n - 1)
        !a.cleared && e.unitFail.getLsbD u && d.unitFail.getLsbD u && decide (loggedLevel d u = v)
      | none => false
    if again then min (topLevel n) (v + 1) else v

/-- The levels of this start go into its log. -/
def setLevels (l1 l2 : Option StartLog) (s : State) : State :=
  unitSteps.foldl (fun s n =>
    let ls := (stepUnits n).map fun u => (u, nextLevel l1 l2 n u)
    setStep n (fun e => { e with
      unitLevel := word ((ls.map fun p => at' (2 * p.1) p.2).foldl (· + ·) 0)
      level := BitVec.ofNat 2 ((ls.map (·.2)).foldl max 0) }) s) s

def levelOf (s : State) (n u : Nat) : Nat := loggedLevel (stepLog s n) u

def envOf (env : StartEnv) (n : Nat) : StepEnv := env.steps.getD (unitSteps.findIdx (· = n)) ⟨[], 1, 0⟩

/-- The unit fails every attempt at its level. -/
def failsAt (env : StartEnv) (s : State) (n u : Nat) : Bool := ((envOf env n).failUnits.getD (levelOf s n u) 0).getLsbD u

/-! The ends of a start that does not reach step 14. -/

/-- A start's result so far: it goes on, or it has ended. -/
abbrev Run := Except State State

/-- R468: a step failure: an automatic restart follows, or after 8 of them safe halt. -/
def failStart (n failed : Nat) (env : StartEnv) (s : State) : State :=
  let e := envOf env n
  let again := decide (s.boot.restarts.toNat ≤ 8)
  let s := endStep n 3 e.attempts.toNat e.reason.toNat failed s
  let s := stepFail n e.attempts.toNat e.reason.toNat failed again s
  if again then { s with boot.failedAt := some s.clk.time }
  else safeHalt false { s with boot.haltedInStart := true }

/-! The Bay record opens (R454). -/

/-- Entries that fail their CRC in one copy are rewritten from the other. -/
def mendBay (bad good : Table (List Word)) : Table (List Word) :=
  good.foldl (fun t e => if bayValid e.2 && !((tabGet t e.1).map bayValid).getD false then tabPut t e.1 e.2 else t) bad

def openBay (ok0 ok1 : Bool) (s : State) : State :=
  let b := { s.bay with
    copy0 := if ok0 && ok1 then mendBay s.bay.copy0 s.bay.copy1 else s.bay.copy0
    copy1 := if ok0 && ok1 then mendBay s.bay.copy1 s.bay.copy0 else s.bay.copy1 }
  let h := bayHeads { b with copy0 := if ok0 then b.copy0 else [], copy1 := if ok1 then b.copy1 else [] }
  let b := { b with opened := ok0 || ok1, bad0 := !ok0, bad1 := !ok1 }
  { s with bay := match h with
    | none => b
    | some (i, q) => { b with head := BitVec.ofNat 20 (i + 1), seq := q, nextSeq := q + 1
                              wrapped := (tabGet (if ok0 then b.copy0 else b.copy1) ((i + 1) % 1048576)).isSome } }

/-- R471: a halt before step 4: the record goes into the Bay record with no start count. -/
def earlyHalt (n reason : Nat) (env : StartEnv) (s : State) : State :=
  let s := stepFail n 3 reason 0 false (endStep n 3 3 reason 0 s)
  let s := { s with bay.buffer := s.bay.buffer.map fun r => { r with start := 0xFFFFFFFF } }
  safeHalt false { openBay env.bayOk0 env.bayOk1 s with boot.haltedInStart := true }

/-! Steps 1 to 3. -/

def step1 (env : StartEnv) (s : State) : Run :=
  if !env.railsOk || !env.refclkOk then .error s
  else .ok (endStep 1 (if env.sysref then 1 else 2) 1 0 0 { beginStep 1 s with clk.sysref := env.sysref })

def step2 (env : StartEnv) (s : State) : Run :=
  let s := beginStep 2 s
  if env.romOk then .ok (endStep 2 1 1 0 0 s) else .error (earlyHalt 2 5 env s)

/-- R475: a firmware copy verifies and is not below its floor. -/
def copyOk (env : StartEnv) (s : State) (b : Bool) : Bool :=
  (if b then env.fwOkB else env.fwOkA) && decide (s.sec.fwFloor ≤ (if b then env.fwVersionB else env.fwVersionA).toNat)

/-- The reason of a copy that fails: VERIFY or ROLLBACK. -/
def copyReason (env : StartEnv) (b : Bool) : Nat := if if b then env.fwOkB else env.fwOkA then 6 else 2

/-- Table 16.2: the copy of higher SECURITY_VERSION first, then the other. -/
def step3 (env : StartEnv) (s : State) : Run :=
  let s := beginStep 3 s
  let first := decide (env.fwVersionA.toNat < env.fwVersionB.toNat)
  let run (b : Bool) (s : State) : State :=
    let v := if b then env.fwVersionB else env.fwVersionA
    { s with hub.fwRunning := true, sec.fwCopy := b, sec.fwVersion := v, boot.log.fwVersion := v, boot.log.fwCopy := b }
  if copyOk env s first then .ok (endStep 3 1 1 0 0 (run first s))
  else if copyOk env s (!first) then
    .ok (stepFail 3 2 (copyReason env first) 0 false (endStep 3 2 2 (copyReason env first) 0 (run (!first) s)))
  else .error (earlyHalt 3 (copyReason env first) env s)

/-! Step 4: the journal (R461, R472). -/

def lastSeq (l : List Txn) : DWord := ((l.getLast?).map (·.seq)).getD 0

/-- The copy that ends higher is taken, and the other is rewritten from it. -/
def mountJournal (ok0 ok1 : Bool) (s : State) : State :=
  let j := s.jnl
  let best := if (lastSeq j.copy0).toNat < (lastSeq j.copy1).toNat then j.copy1 else j.copy0
  let l := if ok0 && ok1 then best else if ok0 then j.copy0 else if ok1 then j.copy1 else []
  let keep := ok0 || ok1
  { s with jnl := { j with
      mounted := true, suspended := !keep, bad0 := !ok0, bad1 := !ok1
      copy0 := if ok0 || !keep then l else j.copy0, copy1 := if ok1 || !keep then l else j.copy1
      seq := lastSeq l, fill := BitVec.ofNat 28 (64 + txnsBytes l), torn := word (if keep then j.torn0 else 0), torn0 := 0, queue := [] } }

/-- What the records in force restore: counters, overrides, the wear of the DRAM dies, and the request to clear levels. -/
def replayJournal (s : State) : State :=
  let counter (k : Nat) : Nat := ((jnlGet s jRollback k).map fun r => leNat (r.payload.take 4)).getD 0
  let recs := (jnlAll s jOverride).map (·.payload)
  let wear (i : Nat) : Table Nat := (jnlAll s jDramWear).foldl (fun t r => tabPut t r.key.toNat (natAt r.payload (8 * i) 8)) []
  { s with
    sec.fwCounter := word (counter 0), sec.imgCounter := word (counter 1)
    sec.ovrSeq := BitVec.ofNat 64 ((recs.map recSeq).foldl max 0)
    sec.overrides := (recs.filter fun r => decide (recType r = 1)).map fun r => (BitVec.ofNat 64 (leNat (payloadOf r)), r)
    mmu.lifeCe := wear 0, mmu.lifeUe := wear 1, mmu.lifePasses := wear 2, mmu.hotSeconds := wear 3
    boot.clearLevels := (jnlGet s jSetting clearKey).isSome }

/-- One above the highest START_LOG key. -/
def nextStart (s : State) : Nat := ((jnlAll s jStartLog).map (·.key.toNat)).foldl max 0 + 1

/-- The start count is taken, and the levels with it; the records raised so far belong to this start. -/
def countStart (s : State) : State :=
  let n := nextStart s
  let cleared := s.boot.clearLevels
  let s := if cleared then setLevels none none s else setLevels (startLogOf s (n - 1)) (startLogOf s (n - 2)) s
  let s := { s with
    boot.startCount := word n, boot.log.start := word n, boot.log.cleared := cleared, boot.clearLevels := false
    bay.buffer := s.bay.buffer.map fun r => { r with start := word n } }
  if cleared then startNote [{ jrec jSetting clearKey [] with delete := true }] s else s

def step4 (env : StartEnv) (s : State) : Run :=
  let ok := (env.jnlOk0, env.jnlOk1)
  let s := countStart (replayJournal (mountJournal ok.1 ok.2 (beginStep 4 s)))
  let s := endStep 4 (if ok.1 && ok.2 then 1 else 2) 1 0 0 s
  .ok (if ok.1 && ok.2 then s else stepFail 4 1 2 0 false s)

/-! Steps 5 and 6. -/

def step5 (env : StartEnv) (s : State) : Run :=
  let whole := env.bayOk0 && env.bayOk1
  let s := openBay env.bayOk0 env.bayOk1 (beginStep 5 s)
  let s := endStep 5 (if whole then 1 else 2) 1 0 0 s
  .ok (if whole then s else stepFail 5 1 2 0 false s)

/-- Table 16.2: at its highest level the start goes on with the link down. -/
def step6 (env : StartEnv) (s : State) : Run :=
  let s := { beginStep 6 s with hub.training := true }
  let l := levelOf s 6 0
  let e := envOf env 6
  if !failsAt env s 6 0 then
    .ok (endStep 6 (if l = 0 then 1 else 2) e.attempts.toNat 0 0 { s with hub.linkUp := true, boot.slowLink := decide (0 < l) || !env.linkFull })
  else if l < 2 then .error (failStart 6 1 env s)
  else .ok (stepFail 6 e.attempts.toNat e.reason.toNat 1 false (endStep 6 3 e.attempts.toNat e.reason.toNat 1 { s with boot.slowLink := true }))

/-! Steps 7 to 11: dies, DRAM, mesh, cores and optics. -/

/-- The dies left by the levels at which a step excludes its units. -/
def keepDies (s : State) (n least : Nat) (m : BitVec 12) : BitVec 12 :=
  BitVec.ofNat 12 (bitsOf ((List.range 12).filter fun u => m.getLsbD u && decide (levelOf s n u < least)))

/-- The units that run a step and fail it. -/
def failed (env : StartEnv) (s : State) (n : Nat) (us : List Nat) : Nat := bitsOf (us.filter fun u => failsAt env s n u)

/-- R468: a step whose units failed, or that would have to exclude every compute die, fails; else it ends. -/
def endUnits (n : Nat) (us : List Nat) (env : StartEnv) (s : State) : Run :=
  let f := failed env s n us
  let e := envOf env n
  if f ≠ 0 then .error (failStart n f env s)
  else if s.hub.cd = 0 then .error (failStart n 0xFFF env s)
  else .ok (endStep n (if (stepLog s n).level = 0 then 1 else 2) e.attempts.toNat 0 0 s)

def diesOf (m : BitVec 12) : List Nat := (List.range 12).filter fun u => m.getLsbD u

def step7 (env : StartEnv) (s : State) : Run :=
  let s := beginStep 7 s
  let opt := (List.range 4).filter fun u => decide (levelOf s 7 (12 + u) = 0)
  let s := { s with hub.cd := keepDies s 7 1 0xFFF, hub.od := BitVec.ofNat 4 (bitsOf opt) }
  endUnits 7 (diesOf s.hub.cd ++ opt.map (12 + ·)) env
    { s with hub.enumerated := true, hub.cascId := env.cascId, hub.cascMstr := env.cascMstr }

/-- Results that a start keeps, each in a transaction of its own (R460); the manual does not give their contents (log entry 40). -/
def settingNote (n : Nat) (dies : List Nat) (s : State) : State :=
  dies.foldl (fun s u => let d := drawBytes s 32; startNote [jrec jSetting (65536 * n + u) d.1] d.2) s

def step8 (env : StartEnv) (s : State) : Run :=
  let s := beginStep 8 s
  let s := { s with hub.cd := keepDies s 8 2 s.hub.cd }
  let relaxed := (diesOf s.hub.cd).filter fun u => decide (levelOf s 8 u = 1)
  endUnits 8 (diesOf s.hub.cd) env (settingNote 8 (diesOf s.hub.cd) { s with boot.relaxed := BitVec.ofNat 12 (bitsOf relaxed) })

def step9 (env : StartEnv) (s : State) : Run :=
  let s := beginStep 9 s
  let s := { s with hub.cd := keepDies s 9 2 s.hub.cd }
  endUnits 9 (diesOf s.hub.cd) env s

/-- Columns that fail beyond the spares. -/
def lostColumns (env : StartEnv) (u : Nat) : Nat := (env.columnsLost.getD u 0).toNat - (env.columnsSpare.getD u 0).toNat

/-- R16: each die holds 72 cores a column. -/
def columnsOn (s : State) : Nat := if s.fixed.variant = 1 then 70 else 94

def dieCoreCount (s : State) (u : Nat) : Nat :=
  if s.hub.cd.getLsbD u then 72 * (columnsOn s - (vget 0 s.boot.columnsOff u).toNat) else 0

/-- R16, R386: the core numbers that the present start gives. -/
def numberCores (s : State) : State :=
  { s with
    hub.dieCores := Vector.ofFn fun (i : Fin 12) => BitVec.ofNat 13 (dieCoreCount s i.val)
    hub.coreCount := BitVec.ofNat 17 (((List.range 12).map (dieCoreCount s)).foldl (· + ·) 0) }

def step10 (env : StartEnv) (s : State) : Run :=
  let s := beginStep 10 s
  let s := { s with hub.cd := keepDies s 10 2 s.hub.cd }
  let dies := diesOf s.hub.cd
  let beyond := dies.filter fun u => decide (levelOf s 10 u = 0) && decide (0 < lostColumns env u)
  let repaired := dies.filter fun u => (env.columnsLost.getD u 0) ≠ 0
  let e := envOf env 10
  if beyond ≠ [] then .error (failStart 10 (bitsOf (ins' beyond (dies.filter fun u => failsAt env s 10 u))) env s)
  else
    let s := { s with boot.columnsOff := Vector.ofFn fun (i : Fin 12) =>
      if s.hub.cd.getLsbD i.val then BitVec.ofNat 8 (lostColumns env i.val) else 0 }
    match endUnits 10 dies env (numberCores s) with
    | .error s => .error s
    | .ok s =>
      if repaired = [] then .ok s
      else .ok (stepFail 10 e.attempts.toNat 5 (bitsOf repaired) false
        (settingNote 10 repaired (endStep 10 2 e.attempts.toNat 5 0 s)))
where
  /-- The union of two lists of units. -/
  ins' (a b : List Nat) : List Nat := b.foldl (fun l u => ins u l) a

/-- R408, R469: the ports of a die that is left out stay OFF. -/
def darkPorts (s : State) : State :=
  { s with ports := s.ports.mapIdx fun p x => { x with excluded := !s.hub.od.getLsbD (p / 4) } }

def step11 (env : StartEnv) (s : State) : Run :=
  let s := beginStep 11 s
  let ods := (List.range 4).filter fun u => s.hub.od.getLsbD u
  if !env.sysref ∨ ods.any (fun u => decide (levelOf s 11 u = 2)) then
    .ok (endStep 11 4 0 0 0 (darkPorts { s with hub.od := 0, boot.opticsSkipped := true }))
  else
    let run := ods.filter fun u => decide (levelOf s 11 u = 0)
    match endUnits 11 run env { s with hub.od := BitVec.ofNat 4 (bitsOf run) } with
    | .error s => .error s
    | .ok s => .ok (darkPorts s)

/-! Step 12 (R433): the modules of the optical dies in use. -/

def authenticateAll (envs : List LaserEnv) (s : State) : State :=
  (List.range 4).foldl (fun s m =>
    match envs[m]? with
    | some e => if (getLaser s m).present && s.hub.od.getLsbD m then authenticate m e true s else s
    | none => s) s

def step12 (env : StartEnv) (s : State) : Run := .ok (endStep 12 1 1 0 0 (authenticateAll env.lasers (beginStep 12 s)))

/-! Step 13: the stored image (R339, R354). -/

/-- The complete copies of the image store, the newest first. -/
def storedImages (s : State) : List (List Byte) :=
  let at? (k : Nat) : Option (DWord × List Byte) :=
    ((inForce (journal s)).find? fun t => t.recs.any fun r => decide (r.type = jImage ∧ r.key.toNat = k)).bind fun t =>
      (if k = 0 then s.jnl.image0 else s.jnl.image1).map fun b => (t.seq, b)
  match at? 0, at? 1 with
  | some a, some b => if a.1.toNat < b.1.toNat then [b.2, a.2] else [a.2, b.2]
  | some a, none => [a.2]
  | none, some b => [b.2]
  | none, none => []

/-- A stored copy is put in place and checked as a full load checks it: the cause, or the state with the image applied. -/
def applyStored (bs : List Byte) (s : State) : Except Nat State :=
  let c := headCheck s bs bs.length
  if c ≠ 0 then .error c
  else
    let g := parseImage bs
    let c := bodyCheck s bs g
    if c ≠ 0 then .error c
    else .ok (freshFigures (applyImage g { s with dram := memWrite s.dram g.base bs }))

/-- The newest copy, then the other; one refused with TARGET ends the step without an image. -/
def tryStored : List (List Byte) → State → Except State State
  | [], s => .error s
  | bs :: r, s =>
    match applyStored bs s with
    | .ok s => .ok { s with boot.noImage := false }
    | .error c => if c = 0x07 then .ok s else tryStored r s

/-- The newest copy fails, and not for TARGET: the other is tried. -/
def fellBack (s : State) : Bool :=
  match storedImages s with
  | bs :: _ :: _ => match applyStored bs s with
    | .ok _ => false
    | .error c => decide (c ≠ 0x07)
  | _ => false

def step13 (env : StartEnv) (s : State) : Run :=
  let s := beginStep 13 s
  let e := envOf env 13
  if levelOf s 13 0 = 1 then .ok (endStep 13 2 0 0 0 s)
  else if failsAt env s 13 0 then .error (failStart 13 1 env s)
  else if storedImages s = [] then .ok (endStep 13 1 e.attempts.toNat 0 0 s)
  else match tryStored (storedImages s) s with
    | .ok s' => .ok (endStep 13 (if fellBack s then 2 else 1) e.attempts.toNat 0 0 s')
    | .error s => .error (failStart 13 1 env s)

/-! Step 14 (R470, R477). -/

/-- Optical dies that a level of steps 7 and 11 leaves out. -/
def darkDies (s : State) : Nat :=
  bitsOf ((List.range 4).filter fun u => decide (0 < levelOf s 7 (12 + u)) || decide (levelOf s 11 u = 1))

def columnsLeftOut (s : State) : Nat := (s.boot.columnsOff.toList.map (·.toNat)).foldl (· + ·) 0

def degradedStart (s : State) : Bool :=
  decide (s.hub.cd ≠ 0xFFF) || decide (darkDies s ≠ 0) || decide (columnsLeftOut s ≠ 0) || s.boot.opticsSkipped || !s.clk.sysref ||
  s.boot.noImage || s.jnl.suspended || !s.bay.opened || s.boot.slowLink || decide (s.boot.relaxed ≠ 0)

/-- Table 16.3. -/
def degradedDetail (s : State) : List Word :=
  [0, 0, word ((~~~s.hub.cd).toNat + at' 12 (darkDies s) + bw (s.jnl.bad0 || s.bay.bad0) 16 + bw (s.jnl.bad1 || s.bay.bad1) 17 +
     bw s.boot.opticsSkipped 18 + bw s.boot.noImage 19 + bw s.jnl.suspended 20 + bw (!s.bay.opened) 21 + bw s.boot.slowLink 22 +
     bw (!s.clk.sysref) 23),
   word s.hub.coreCount.toNat, word s.boot.relaxed.toNat, word (columnsLeftOut s)]

/-- R470: the phase that a start enters. -/
def enterPhase (s : State) : State :=
  { s with hub.ready := true, hub.phase := if s.hub.degraded || s.hub.groupEvent then .recovery else .service }

/-- R477: a newer firmware has reached step 14. -/
def raiseFirmware (s : State) : State :=
  let v := s.sec.fwVersion.toNat
  if s.sec.fwCounter.toNat < v then
    startNote [jrec jRollback 0 (leBytes 4 v)] { s with sec.fwCounter := word v, sec.fwFloor := max s.sec.fwFloor (min 256 v) }
  else s

def step14 (s : State) : State :=
  let s := beginStep 14 s
  let deg := degradedStart s
  let s := { s with hub.degraded := deg, boot.log.degraded := deg }
  let s := if deg then raisePlain 0x0802 (degradedDetail s) s else s
  let s := raiseFirmware (endStep 14 1 1 0 0 (enterPhase s))
  requestVoltages { s with clk.tickAt := lastMultiple s tickNs, clk.decisionAt := lastMultiple s decisionNs, clk.windowAt := lastMultiple s windowNs }

/-! The commands. -/

/-- The steps in order. -/
def startSteps (env : StartEnv) (s : State) : Run :=
  [step1 env, step2 env, step3 env, step4 env, step5 env, step6 env, step7 env, step8 env, step9 env, step10 env, step11 env,
   step12 env, step13 env].foldl (fun (r : Run) f => r.bind f) (.ok s)

/-- A start from the cold state; device time counts from step 1 (R501). -/
def startDevice (env : StartEnv) (cause restarts : Nat) (s : State) : State :=
  let c := coldState s
  let s := { c with
    hub.powerGood := true, boot.restarts := BitVec.ofNat 4 (min 15 restarts), boot.log.cause := BitVec.ofNat 4 cause, boot.log.durationMs := env.durationMs
    clk.time := BitVec.ofNat 64 (1000000 * env.durationMs.toNat) }
  match startSteps env s with
  | .error s => s
  | .ok s => step14 s

/-- A start has begun since the last reset. -/
def startBegun (s : State) : Bool := decide (s.boot.step ≠ 0)

/-- R467: every rail is within its limits and both reset pins are high. -/
def execStartBegin (env : StartEnv) (s : State) : Out := .next (if startBegun s then s else startDevice env env.cause.toNat 0 s)

/-- R467: 10 ms after the start begins; the link comes up once firmware runs. -/
def execPcieLinkTraining (s : State) : Out :=
  .next (if startBegun s && !s.hub.training then
    let s := advanceTo s (s.clk.startedAt.toNat + 10000000)
    { s with hub.training := true, hub.linkUp := s.hub.fwRunning }
  else s)

/-- R468: 100 ms after a step failure. -/
def execAutomaticRestart (env : StartEnv) (s : State) : Out :=
  .next (match s.boot.failedAt with
    | some _ => startDevice env 3 (s.boot.restarts.toNat + 1) s
    | none => s)

/-- SYS_RST_N falls. -/
def execSysRstNAssert (s : State) : Out := .next (heldReset s)

/-- R382: PERST_N has the effect of SYS_RST_N. -/
def execPerstNAssert (s : State) : Out := .next (heldReset s)

/-- R490: stage 1 is within its limits after the board had removed every rail; a stage 1 that is already up changes nothing. -/
def execPowerGood (s : State) : Out :=
  .next (if s.hub.powerGood && !s.hub.holdUp && s.hub.thermTripN then s
    else
      let c := coldState s
      { c with hub.powerGood := true, tap := Tap.init })

end Sys2Proof.Machine
end

