-- ==== Sys2Proof/Machine/Reset.lean ====
section
/-! DEFINITION. Function Level Reset (R382) and the power states D3hot and D0 (R492, R494, R495). -/

namespace Sys2Proof.Machine

/-! Function Level Reset. -/

/-- R382: a queue disabled, its completions dropped. -/
def queueOff (q : Queue) : Queue := { q with cmdEn := false, cplEn := false, held := [], unsignalled := 0, oldest := none }

/-- The work of the host's commands is given up, without completions or entries. -/
def dropCommands (s : State) : State :=
  { s with
    long := [], waitCmds := [], waitState := [], prg := s.prg.map fun p => { p with active := false }
    cfg.load := none, cfg.staged := none, cfg.old := none, cfg.persist := false, cfg.wavesOn := false, cfg.wave := 0
    cfg.phase := if s.cfg.cur.isSome then .loaded else .none }

/-- The effects of a Function Level Reset; its end is start step 14's, with a degraded start still degraded. -/
def functionReset (s : State) : State :=
  let s := endDebug (dropCommands s)
  let s := { s with
    streams := freeStreams s, cores := [], mesh := [], passed := [], starvedArb := [], mmu.faults := [], mmu.walkFault := none
    que.q := s.que.q.map queueOff, que.evEn := false, que.dbIn := [], que.dbOut := [], que.resPending := []
    hub.heldLow := none, hub.latches := [], sec.challengeOut := false, cas.tokensDue := [], hub.groupEvent := false }
  let s := match s.cfg.cur with
    | some g => freshFigures (applyImage g s)
    | none => s
  enterPhase s

/-- R451: in safe halt the reset completes on the link and changes nothing. In D3hot its effects wait for the resume. -/
def execFunctionLevelReset (s : State) : Out :=
  .next (if !s.hub.linkUp || s.hub.resetLow || !agentsOn s || !s.hub.ready then s
    else if s.pwr.hot || s.pwr.resuming then { s with pwr.flrDue := true }
    else functionReset s)

/-! D3hot (R494). -/

/-- A transition is clean. -/
def cleanForHot (s : State) : Bool :=
  s.streams.all (fun e => (match e.2.state with
    | .free | .idle | .paused | .ended => true
    | _ => false) && !inFlight e.2) &&
  s.prg.toList.all (fun p => !p.active) && decide (s.cfg.phase = .none ∨ s.cfg.phase = .loaded) && decide (s.cas.state = 0 ∨ s.cas.state = 3)

/-- A transition that is not clean abandons what is in flight. -/
def abandonWork (s : State) : State :=
  let s := dropCommands (mapStreams (fun _ x => { x with d.chunks := x.d.chunks.filter (!·.released) }) s)
  { s with pwr.unclean := true, pwr.flrDue := true }

/-- The lasers and the ports go dark, and the islands lose their power. -/
def powerDown (s : State) : State :=
  let s := (List.range 4).foldl (fun s m => quiesceLaser m s) s
  { s with cores := [], mesh := [], passed := [], starvedArb := [], pwr.hot := true }

def execD3hotWrite (s : State) : Out :=
  .next (if !s.hub.linkUp || s.hub.resetLow || s.pwr.hot then s
    else if !agentsOn s then { s with pwr.hot := true }
    else powerDown (if cleanForHot s then s else abandonWork s))

/-! D0 (R495). -/

/-- BAR0 answers at once; commands and releases wait until RESUMING clears. -/
def execD0Write (s : State) : Out :=
  .next (if s.pwr.hot then { s with pwr.hot := false, pwr.resuming := agentsOn s } else s)

/-- The mode of a port whose module did not come back. -/
def restoreMode (s : State) (p : Nat) : State :=
  match (getPort s p).quiescedMode with
  | some m => portBegin p m (modPort s p fun x => { x with quiescedMode := none })
  | none => s

/-- Scratchpads as a full load leaves them, the modules, and the ports' modes. -/
def powerUp (lasers : List LaserEnv) (s : State) : State :=
  let s := match s.cfg.cur with
    | some g => loadCores g { s with cfg.bankOf := 0 }
    | none => s
  let s := { s with las := s.las.map fun l => { l with quiesced := false } }
  (List.range 16).foldl restoreMode (authenticateAll lasers s)

def execD0ResumeComplete (lasers : List LaserEnv) (s : State) : Out :=
  .next (if !s.pwr.resuming then s
    else
      let s := powerUp lasers s
      let s := if s.pwr.flrDue then functionReset s else s
      { s with pwr.resuming := false, pwr.flrDue := false })

end Sys2Proof.Machine
end

