-- ==== Sys2Proof/Machine/Dispatch.lean ====
section
/-! DEFINITION. The meaning of every command: one arm a constructor, one call a meaning. -/

namespace Sys2Proof.Machine

def exec (i : Instr) (s : State) : Host.Outcome State Fault Refusal :=
  match i with
  | .sysRstNAssert => Sys2Proof.Machine.execSysRstNAssert s
  | .perstNAssert => Sys2Proof.Machine.execPerstNAssert s
  | .functionLevelReset => Sys2Proof.Machine.execFunctionLevelReset s
  | .startBegin env => Sys2Proof.Machine.execStartBegin env s
  | .pcieLinkTraining => Sys2Proof.Machine.execPcieLinkTraining s
  | .automaticRestart env => Sys2Proof.Machine.execAutomaticRestart env s
  | .pwrFailNFall lowNs => Sys2Proof.Machine.execPwrFailNFall lowNs s
  | .railOutOfLimits rail => Sys2Proof.Machine.execRailOutOfLimits rail s
  | .avsRegulatorFail die => Sys2Proof.Machine.execAvsRegulatorFail die s
  | .d3hotWrite => Sys2Proof.Machine.execD3hotWrite s
  | .d0Write => Sys2Proof.Machine.execD0Write s
  | .d0ResumeComplete lasers => Sys2Proof.Machine.execD0ResumeComplete lasers s
  | .islandClockGate core => Sys2Proof.Machine.execIslandClockGate core s
  | .temperatureSample readings => Sys2Proof.Machine.execTemperatureSample readings s
  | .operatingMaximumHoldExpiry stack => Sys2Proof.Machine.execOperatingMaximumHoldExpiry stack s
  | .pwrTimeSet value => Sys2Proof.Machine.execPwrTimeSet value s
  | .pwrTimeSlew value => Sys2Proof.Machine.execPwrTimeSlew value s
  | .pwrTimeRate value => Sys2Proof.Machine.execPwrTimeRate value s
  | .pwrLimitWWrite value => Sys2Proof.Machine.execPwrLimitWWrite value s
  | .thymeTick => Sys2Proof.Machine.execThymeTick s
  | .thymeDecision env => Sys2Proof.Machine.execThymeDecision env s
  | .thymeWindowEnd env => Sys2Proof.Machine.execThymeWindowEnd env s
  | .streamStart n ctrl => Sys2Proof.Machine.execStreamStart n ctrl s
  | .streamPause n ctrl => Sys2Proof.Machine.execStreamPause n ctrl s
  | .pauseComplete n => Sys2Proof.Machine.execPauseComplete n s
  | .streamResume n ctrl => Sys2Proof.Machine.execStreamResume n ctrl s
  | .streamEnd n ctrl => Sys2Proof.Machine.execStreamEnd n ctrl s
  | .streamAbort n ctrl => Sys2Proof.Machine.execStreamAbort n ctrl s
  | .abortComplete n => Sys2Proof.Machine.execAbortComplete n s
  | .steGroupWrite n value => Sys2Proof.Machine.execSteGroupWrite n value s
  | .steConfigWrite n off value wide => Sys2Proof.Machine.execSteConfigWrite n off value wide s
  | .steParamWrite n idx value => Sys2Proof.Machine.execSteParamWrite n idx value s
  | .inputWrIdxRead n => Sys2Proof.Machine.execInputWrIdxRead n s
  | .outputRdIdxRead n => Sys2Proof.Machine.execOutputRdIdxRead n s
  | .chunkRelease n => Sys2Proof.Machine.execChunkRelease n s
  | .resultPost n => Sys2Proof.Machine.execResultPost n s
  | .resultHoldoffExpiry vector => Sys2Proof.Machine.execResultHoldoffExpiry vector s
  | .checkpointBoundary n => Sys2Proof.Machine.execCheckpointBoundary n s
  | .adaptStepComplete slot loss adapter fault => Sys2Proof.Machine.execAdaptStepComplete slot loss adapter fault s
  | .nop c => Sys2Proof.Machine.execNop c s
  | .phaseService c => Sys2Proof.Machine.execPhaseService c s
  | .phaseTest c => Sys2Proof.Machine.execPhaseTest c s
  | .imageLoad c => Sys2Proof.Machine.execImageLoad c s
  | .epoch c => Sys2Proof.Machine.execEpoch c s
  | .epochAbort c => Sys2Proof.Machine.execEpochAbort c s
  | .imageVerifyComplete => Sys2Proof.Machine.execImageVerifyComplete s
  | .prepareComplete => Sys2Proof.Machine.execPrepareComplete s
  | .waveReconfigure => Sys2Proof.Machine.execWaveReconfigure s
  | .rollbackComplete => Sys2Proof.Machine.execRollbackComplete s
  | .imagePersistComplete ok0 ok1 => Sys2Proof.Machine.execImagePersistComplete ok0 ok1 s
  | .checkpoint c => Sys2Proof.Machine.execCheckpoint c s
  | .restore c => Sys2Proof.Machine.execRestore c s
  | .kvEvict c => Sys2Proof.Machine.execKvEvict c s
  | .kvRestore c => Sys2Proof.Machine.execKvRestore c s
  | .kvFork c => Sys2Proof.Machine.execKvFork c s
  | .adaptRun c => Sys2Proof.Machine.execAdaptRun c s
  | .adaptStoreSave c => Sys2Proof.Machine.execAdaptStoreSave c s
  | .adaptStoreRecall c => Sys2Proof.Machine.execAdaptStoreRecall c s
  | .scrub c => Sys2Proof.Machine.execScrub c s
  | .journalCompact c => Sys2Proof.Machine.execJournalCompact c s
  | .laserQuiesce c => Sys2Proof.Machine.execLaserQuiesce c s
  | .laserResume c env => Sys2Proof.Machine.execLaserResume c env s
  | .attest c => Sys2Proof.Machine.execAttest c s
  | .laserOverride c => Sys2Proof.Machine.execLaserOverride c s
  | .laserRevoke c => Sys2Proof.Machine.execLaserRevoke c s
  | .ownerEnrol c => Sys2Proof.Machine.execOwnerEnrol c s
  | .ownerRevoke c => Sys2Proof.Machine.execOwnerRevoke c s
  | .debugUnlock c testPortRecord => Sys2Proof.Machine.execDebugUnlock c testPortRecord s
  | .secDebugRequest value => Sys2Proof.Machine.execSecDebugRequest value s
  | .secDebugLock value => Sys2Proof.Machine.execSecDebugLock value s
  | .debugChallengeLapse => Sys2Proof.Machine.execDebugChallengeLapse s
  | .clearLevels => Sys2Proof.Machine.execClearLevels s
  | .tapBypass tdi => Sys2Proof.Machine.execTapBypass tdi s
  | .tapIdcode => Sys2Proof.Machine.execTapIdcode s
  | .tapSamplePreload preload => Sys2Proof.Machine.execTapSamplePreload preload s
  | .tapExtest => Sys2Proof.Machine.execTapExtest s
  | .commandQueueDoorbell q value written => Sys2Proof.Machine.execCommandQueueDoorbell q value written s
  | .completionQueueDoorbell q value => Sys2Proof.Machine.execCompletionQueueDoorbell q value s
  | .eventQueueDoorbell value => Sys2Proof.Machine.execEventQueueDoorbell value s
  | .queueEnableWrite which value => Sys2Proof.Machine.execQueueEnableWrite which value s
  | .streamDbIn n written => Sys2Proof.Machine.execStreamDbIn n written s
  | .streamDbOut n written => Sys2Proof.Machine.execStreamDbOut n written s
  | .commandFetch lasers => Sys2Proof.Machine.execCommandFetch lasers s
  | .completionWrite q => Sys2Proof.Machine.execCompletionWrite q s
  | .completionCoalesceExpiry q => Sys2Proof.Machine.execCompletionCoalesceExpiry q s
  | .eventBatchExpiry => Sys2Proof.Machine.execEventBatchExpiry s
  | .hostReadError core tag => Sys2Proof.Machine.execHostReadError core tag s
  | .evtInject value => Sys2Proof.Machine.execEvtInject value s
  | .reg64LowWordRead read => Sys2Proof.Machine.execReg64LowWordRead read s
  | .reg64LowWordWrite off value => Sys2Proof.Machine.execReg64LowWordWrite off value s
  | .thmRegisterWrite off value wide => Sys2Proof.Machine.execThmRegisterWrite off value wide s
  | .registerWrite off size value => Sys2Proof.Machine.execRegisterWrite off size value s
  | .mmuInvalGo value => Sys2Proof.Machine.execMmuInvalGo value s
  | .mmuInvalidationDone => Sys2Proof.Machine.execMmuInvalidationDone s
  | .mmuResume value => Sys2Proof.Machine.execMmuResume value s
  | .mmuAbort value => Sys2Proof.Machine.execMmuAbort value s
  | .mmuAperBaseWrite value => Sys2Proof.Machine.execMmuAperBaseWrite value s
  | .bar2Read off len => Sys2Proof.Machine.execBar2Read off len s
  | .bar2Write off bytes => Sys2Proof.Machine.execBar2Write off bytes s
  | .mmuWalkComplete die va write => Sys2Proof.Machine.execMmuWalkComplete die va write s
  | .dramRead addr errors => Sys2Proof.Machine.execDramRead addr errors s
  | .patrolScrubRead die errors => Sys2Proof.Machine.execPatrolScrubRead die errors s
  | .demandScrubRead die errors => Sys2Proof.Machine.execDemandScrubRead die errors s
  | .ethFrameReceive port frame fec stamp => Sys2Proof.Machine.execEthFrameReceive port frame fec stamp s
  | .portModeOff port ctrl => Sys2Proof.Machine.execPortModeOff port ctrl s
  | .portModeEthernet port ctrl => Sys2Proof.Machine.execPortModeEthernet port ctrl s
  | .portModeCascade port ctrl => Sys2Proof.Machine.execPortModeCascade port ctrl s
  | .portCounterClear port => Sys2Proof.Machine.execPortCounterClear port s
  | .portLinkUp port => Sys2Proof.Machine.execPortLinkUp port s
  | .portDown port => Sys2Proof.Machine.execPortDown port s
  | .flitReceive port flit => Sys2Proof.Machine.execFlitReceive port flit s
  | .retryRequest port ack => Sys2Proof.Machine.execRetryRequest port ack s
  | .linkLostExpiry port => Sys2Proof.Machine.execLinkLostExpiry port s
  | .casTopoWrite value => Sys2Proof.Machine.execCasTopoWrite value s
  | .cascadeFormTimeout => Sys2Proof.Machine.execCascadeFormTimeout s
  | .heartbeatSend => Sys2Proof.Machine.execHeartbeatSend s
  | .casMasterLost => Sys2Proof.Machine.execCasMasterLost s
  | .casLocal => Sys2Proof.Machine.execCasLocal s
  | .casRemoteRead value answer => Sys2Proof.Machine.execCasRemoteRead value answer s
  | .casRemoteWrite value accepted => Sys2Proof.Machine.execCasRemoteWrite value accepted s
  | .lmPresentFall m => Sys2Proof.Machine.execLmPresentFall m s
  | .lmPresentRise m => Sys2Proof.Machine.execLmPresentRise m s
  | .lmFaultFall m => Sys2Proof.Machine.execLmFaultFall m s
  | .laserBusFail m => Sys2Proof.Machine.execLaserBusFail m s
  | .laserAuthTimeout m => Sys2Proof.Machine.execLaserAuthTimeout m s
  | .laserWearRecordWrite m => Sys2Proof.Machine.execLaserWearRecordWrite m s
  | .eventRaise code stream core detail => Sys2Proof.Machine.execEventRaise code stream core detail s
  | .eventHandlingEnd => Sys2Proof.Machine.execEventHandlingEnd s
  | .eventEntryWrite => Sys2Proof.Machine.execEventEntryWrite s
  | .deviceGraceExpiry => Sys2Proof.Machine.execDeviceGraceExpiry s
  | .summaryWindowEnd => Sys2Proof.Machine.execSummaryWindowEnd s
  | .bayEntryWrite ok0 ok1 => Sys2Proof.Machine.execBayEntryWrite ok0 ok1 s
  | .bbxReadIndexWrite value => Sys2Proof.Machine.execBbxReadIndexWrite value s
  | .mgmtBayIndexWrite value => Sys2Proof.Machine.execMgmtBayIndexWrite value s
  | .mgmtHeadSearch => Sys2Proof.Machine.execMgmtHeadSearch s
  | .journalCommit ok0 ok1 => Sys2Proof.Machine.execJournalCommit ok0 ok1 s
  | .compactionSwitch => Sys2Proof.Machine.execCompactionSwitch s
  | .ccNop core word => Sys2Proof.Machine.execCcNop core word s
  | .add core rd ra rb => Sys2Proof.Machine.execAdd core rd ra rb s
  | .sub core rd ra rb => Sys2Proof.Machine.execSub core rd ra rb s
  | .and core rd ra rb => Sys2Proof.Machine.execAnd core rd ra rb s
  | .or core rd ra rb => Sys2Proof.Machine.execOr core rd ra rb s
  | .xor core rd ra rb => Sys2Proof.Machine.execXor core rd ra rb s
  | .shl core rd ra rb => Sys2Proof.Machine.execShl core rd ra rb s
  | .shr core rd ra rb => Sys2Proof.Machine.execShr core rd ra rb s
  | .sra core rd ra rb => Sys2Proof.Machine.execSra core rd ra rb s
  | .mul core rd ra rb => Sys2Proof.Machine.execMul core rd ra rb s
  | .slt core rd ra rb => Sys2Proof.Machine.execSlt core rd ra rb s
  | .sltu core rd ra rb => Sys2Proof.Machine.execSltu core rd ra rb s
  | .addi core rd ra imm => Sys2Proof.Machine.execAddi core rd ra imm s
  | .lui core rd imm => Sys2Proof.Machine.execLui core rd imm s
  | .andi core rd ra imm => Sys2Proof.Machine.execAndi core rd ra imm s
  | .ori core rd ra imm => Sys2Proof.Machine.execOri core rd ra imm s
  | .fadd core rd ra rb => Sys2Proof.Machine.execFadd core rd ra rb s
  | .fsub core rd ra rb => Sys2Proof.Machine.execFsub core rd ra rb s
  | .fmul core rd ra rb => Sys2Proof.Machine.execFmul core rd ra rb s
  | .fma core rd ra rb => Sys2Proof.Machine.execFma core rd ra rb s
  | .fmin core rd ra rb => Sys2Proof.Machine.execFmin core rd ra rb s
  | .fmax core rd ra rb => Sys2Proof.Machine.execFmax core rd ra rb s
  | .i2f core rd ra => Sys2Proof.Machine.execI2f core rd ra s
  | .f2i core rd ra => Sys2Proof.Machine.execF2i core rd ra s
  | .flt core rd ra rb => Sys2Proof.Machine.execFlt core rd ra rb s
  | .ld core rd ra imm => Sys2Proof.Machine.execLd core rd ra imm s
  | .st core rd ra imm => Sys2Proof.Machine.execSt core rd ra imm s
  | .ldr core rd ra rb => Sys2Proof.Machine.execLdr core rd ra rb s
  | .str core rd ra rb => Sys2Proof.Machine.execStr core rd ra rb s
  | .ldt core rd ra imm => Sys2Proof.Machine.execLdt core rd ra imm s
  | .beq core ra rb off => Sys2Proof.Machine.execBeq core ra rb off s
  | .bne core ra rb off => Sys2Proof.Machine.execBne core ra rb off s
  | .blt core ra rb off => Sys2Proof.Machine.execBlt core ra rb off s
  | .bge core ra rb off => Sys2Proof.Machine.execBge core ra rb off s
  | .bltu core ra rb off => Sys2Proof.Machine.execBltu core ra rb off s
  | .bgeu core ra rb off => Sys2Proof.Machine.execBgeu core ra rb off s
  | .jal core rd off => Sys2Proof.Machine.execJal core rd off s
  | .jr core ra => Sys2Proof.Machine.execJr core ra s
  | .bsum core sense mask off => Sys2Proof.Machine.execBsum core sense mask off s
  | .mfs core rd imm => Sys2Proof.Machine.execMfs core rd imm s
  | .mts core ra imm => Sys2Proof.Machine.execMts core ra imm s
  | .issueMe core rd ra rb => Sys2Proof.Machine.execIssueMe core rd ra rb s
  | .issueEc core rd ra rb => Sys2Proof.Machine.execIssueEc core rd ra rb s
  | .issueGp core rd ra rb => Sys2Proof.Machine.execIssueGp core rd ra rb s
  | .issueAttention core rd ra rb => Sys2Proof.Machine.execIssueAttention core rd ra rb s
  | .issueDma core rd ra rb => Sys2Proof.Machine.execIssueDma core rd ra rb s
  | .issueFill core rd ra rb => Sys2Proof.Machine.execIssueFill core rd ra rb s
  | .issueCopy core rd ra rb => Sys2Proof.Machine.execIssueCopy core rd ra rb s
  | .waitop core ra => Sys2Proof.Machine.execWaitop core ra s
  | .take core rd => Sys2Proof.Machine.execTake core rd s
  | .done core ra => Sys2Proof.Machine.execDone core ra s
  | .rcfg core ra rb => Sys2Proof.Machine.execRcfg core ra rb s
  | .rwaitCommitted core rd ra => Sys2Proof.Machine.execRwaitCommitted core rd ra s
  | .rwaitAllocate core rd ra => Sys2Proof.Machine.execRwaitAllocate core rd ra s
  | .rrel core ra rb => Sys2Proof.Machine.execRrel core ra rb s
  | .rcommit core rd ra rb => Sys2Proof.Machine.execRcommit core rd ra rb s
  | .grant core rd ra rb => Sys2Proof.Machine.execGrant core rd ra rb s
  | .gwait core ra => Sys2Proof.Machine.execGwait core ra s
  | .gend core ra rb => Sys2Proof.Machine.execGend core ra rb s
  | .yield core => Sys2Proof.Machine.execYield core s
  | .bankPowerUp core bank => Sys2Proof.Machine.execBankPowerUp core bank s
  | .bankZeroFillEnd core => Sys2Proof.Machine.execBankZeroFillEnd core s
  | .bankRequestStarved core bank rank => Sys2Proof.Machine.execBankRequestStarved core bank rank s
  | .remoteWriteLand core => Sys2Proof.Machine.execRemoteWriteLand core s
  | .grantEndNotice core => Sys2Proof.Machine.execGrantEndNotice core s
  | .ringSlotCommit core ring => Sys2Proof.Machine.execRingSlotCommit core ring s
  | .ringSlotRelease core ring => Sys2Proof.Machine.execRingSlotRelease core ring s
  | .ringForwardArrival core ring => Sys2Proof.Machine.execRingForwardArrival core ring s
  | .meTileDrain core => Sys2Proof.Machine.execMeTileDrain core s
  | .meOperationComplete core => Sys2Proof.Machine.execMeOperationComplete core s
  | .meOperationHalt core => Sys2Proof.Machine.execMeOperationHalt core s
  | .ecOperationComplete core => Sys2Proof.Machine.execEcOperationComplete core s
  | .ecOperationHalt core => Sys2Proof.Machine.execEcOperationHalt core s
  | .gpOperationComplete core => Sys2Proof.Machine.execGpOperationComplete core s
  | .expressGateInsert core => Sys2Proof.Machine.execExpressGateInsert core s
  | .attentionOperationComplete core => Sys2Proof.Machine.execAttentionOperationComplete core s
  | .fillCopyComplete core id => Sys2Proof.Machine.execFillCopyComplete core id s
  | .kvFlush core n layer head => Sys2Proof.Machine.execKvFlush core n layer head s
  | .dmaResponseReturn core tag => Sys2Proof.Machine.execDmaResponseReturn core tag s
  | .dmaWriteAck core tag => Sys2Proof.Machine.execDmaWriteAck core tag s
  | .dmaOperationComplete core id => Sys2Proof.Machine.execDmaOperationComplete core id s
  | .chainSlotArrival core ring => Sys2Proof.Machine.execChainSlotArrival core ring s
  | .arbiterStarved core source => Sys2Proof.Machine.execArbiterStarved core source s
  | .ringDryWindowEnd core ring => Sys2Proof.Machine.execRingDryWindowEnd core ring s
  | .powerGood => Sys2Proof.Machine.execPowerGood s
  | .heartbeatMiss => Sys2Proof.Machine.execHeartbeatMiss s
  | .sysrefLoss => Sys2Proof.Machine.execSysrefLoss s

end Sys2Proof.Machine
end

