-- ==== Sys2Proof/Machine/Progress.lean ====
section
/-! DEFINITION. What goes on with no command waiting: device time moves on (log entry 3), the DMA engines have their
movement cycles (R249), and work whose last hindrance has gone is settled. -/

namespace Sys2Proof.Machine

/-- The streams' layers, contexts and program banks that have nothing more to wait for. -/
def settleWork (s : State) : State :=
  let s := settleStreams (dropAllLate s)
  let s := (s.streams.map (·.1)).foldl (fun s n => advanceContexts 65 n s) s
  leaveAll s

/-- R344, R354: part of an image, but not yet all of it, has been verified or stored; how much is an unstated value that does
not go back (log entry 101). -/
def copyOn (s : State) : State :=
  match copying s with
  | some l =>
    let d := draw s
    { d.2 with cfg.load := some { l with work := max l.work (d.1 % max 1 l.bytes) } }
  | none => s

/-- R462: a compaction has copied part, but not yet all, of the bytes to copy; how much is an unstated value that does not go
back (log entry 101). -/
def compactOn (s : State) : State :=
  if s.jnl.compacting then
    let d := draw s
    let n := txnsBytes (compacted (journal s))
    let k := max s.jnl.copied (d.1 % max 1 n)
    { d.2 with jnl.copied := k, jnl.pct := BitVec.ofNat 8 (min 99 (100 * k / max 1 n)) }
  else s

/-- R404, R406: PCT of the entries whose progress shows elsewhere is looked at. -/
def watchPct (s : State) : State :=
  (List.range 16).foldl (fun s i =>
    let p := getPrg s i
    if p.active && decide (p.opcode = 0x10 ∨ p.opcode = 0x11) then notePct i (prgShown s p) s else s) s

/-- One step of the block with no command waiting. -/
def goOn (s : State) : State :=
  let s := idle s
  if agentsOn s && !s.pwr.hot then watchPct (compactOn (copyOn (settleWork (moveAll s)))) else s

end Sys2Proof.Machine
end

