-- ==== Sys2Proof/Safety.lean ====
section
/-! DEFINITION. A safe run: every waiting command names a core that the device has, so that no step stops. -/

namespace Sys2Proof

/-- The step at s neither faults nor is refused. -/
def Safe (s : Machine.State) : Prop := ∃ t, Machine.step s = .next t

end Sys2Proof
end

