-- ==== Sys2Proof/Certificates/Slice0/Obligations.lean ====
section
/-! DEFINITION. The statements about the model: what each command does when it does its work, what it leaves, where it
waits or is refused, and the invariants. The helper predicates come first. -/

namespace Sys2Proof.Claims

open Sys2Proof.Machine

/-- The command completes: exec answers a next state t for which P holds. -/
def Completes (i : Instr) (s : State) (P : State → Prop) : Prop := ∃ t, exec i s = .next t ∧ P t

/-- A core on which an instruction that reads these registers runs: it exists, its island runs, and none of the registers
is the SUM_REG of an operation in flight (R241). -/
def CoreRuns (core : CoreId) (s : State) (reads : List RegId) : Prop :=
  coreExists s core = true ∧ islandsOn s = true ∧ ∀ r ∈ reads, regPending (getCore s core.toNat) r = false

/-- The command completes: exec answers a state u for which P holds, after which the core's DMA engine has done what it can
(R249-R253). -/
def EngineGoesOn (i : Instr) (core : CoreId) (s : State) (P : State → Prop) : Prop :=
  ∃ u, exec i s = .next (dmaRun core.toNat u) ∧ P u

/-- Nothing but core c differs from s. -/
def CoreOnly (c : Nat) (s t : State) : Prop := t = { s with cores := t.cores } ∧ ∀ d, d ≠ c → getCore t d = getCore s d

/-- Nothing but core c, and the number of free values drawn, differs from s. -/
def CoreAndDraws (c : Nat) (s t : State) : Prop :=
  t = { s with cores := t.cores, fresh := t.fresh } ∧ ∀ d, d ≠ c → getCore t d = getCore s d

/-- Of a core, only the executing context's registers and PC differ, and the control core waits no more: scratchpad, rings,
tags, tokens, grants, operations and counters are as before. -/
def CtxOnly (k k' : Core) : Prop :=
  k' = { k with ctx0 := k'.ctx0, ctx1 := k'.ctx1, waiting := none, waitingFree := false } ∧ otherCtx k' = otherCtx k ∧
  (getCtx k').sumw = (getCtx k).sumw

/-- rd takes v, every other register keeps its value, and the PC is p. -/
def WritesReg (k k' : Core) (rd : RegId) (v : Word) (p : BitVec 12) : Prop :=
  CtxOnly k k' ∧ getReg k' rd = v ∧ (∀ r, r ≠ rd → getReg k' r = getReg k r) ∧ (getCtx k').pc = p

/-- No register changes, and the PC is p. -/
def MovesPc (k k' : Core) (p : BitVec 12) : Prop := CtxOnly k k' ∧ (∀ r, getReg k' r = getReg k r) ∧ (getCtx k').pc = p

/-- The PC of the executing context, and the next one. -/
def pcOf (k : Core) : BitVec 12 := (getCtx k).pc

/-- An instruction that writes v to rd and goes on, and touches nothing else of the device. -/
def ComputesReg (i : Instr) (core : CoreId) (reads : List RegId) (rd : RegId) (v : Core → Word) : Prop :=
  ∀ s, CoreRuns core s reads → Completes i s fun t => CoreOnly core.toNat s t ∧
    WritesReg (getCore s core.toNat) (getCore t core.toNat) rd (v (getCore s core.toNat)) (pcOf (getCore s core.toNat) + 1)

/-- An FPU instruction: rd takes the value of v, the conditions that v meets count for the core's current token (R65, R66), and
nothing else changes. -/
def ComputesFloat (i : Instr) (core : CoreId) (reads : List RegId) (rd : RegId) (v : Core → Word × Ev) : Prop :=
  ∀ s, CoreRuns core s reads → ∃ k', exec i s = .next (tokenEv (getCore s core.toNat) (v (getCore s core.toNat)).2
      (setCore s core.toNat k')) ∧
    WritesReg (getCore s core.toNat) k' rd (v (getCore s core.toNat)).1 (pcOf (getCore s core.toNat) + 1)

/-- Conditions after a non-finite operand was met (R43), after an overflow (R42), and after neither. -/
def evNan : Ev := { Ev.init with nonfinite := 1, nan := true }
def evOvf (o : Bool) : Ev := { Ev.init with ovf := b2n o }

/-- R36, R38, R42: an exact value rounded once; an exact zero has the sign given. -/
def roundedOnce (zeroNeg : Bool) (v : Rat) : Word × Ev :=
  if v = 0 then (if zeroNeg then 0x80000000 else 0, Ev.init) else ((rnaF32 v).1, evOvf (rnaF32 v).2)

/-- R43: a NaN or infinite operand gives the quiet NaN, counted. -/
def unlessNan (nan : Bool) (r : Word × Ev) : Word × Ev := if nan then (0x7FC00000, evNan) else r

/-- A branch: when it is not taken the next word, when it is taken the target, and a control-core fault when the target lies
outside 0 to 4,095 (R238). -/
def Branches (i : Instr) (core : CoreId) (reads : List RegId) (op : Nat) (off : Int) (taken : Core → Bool) (ok : Core → Prop) : Prop :=
  ∀ s, CoreRuns core s reads → ok (getCore s core.toNat) →
    let k := getCore s core.toNat
    let target := (pcOf k).toNat + off
    (taken k = false → Completes i s fun t => CoreOnly core.toNat s t ∧ MovesPc k (getCore t core.toNat) (pcOf k + 1)) ∧
    (taken k = true → 0 ≤ target → target < 4096 →
      Completes i s fun t => CoreOnly core.toNat s t ∧ MovesPc k (getCore t core.toNat) (BitVec.ofInt 12 target)) ∧
    (taken k = true → ¬ (0 ≤ target ∧ target < 4096) →
      exec i s = .next (ccFault core.toNat op (setCore s core.toNat (unstall k))))

/-- Of a core, only the executing context, the scratchpad and its poison bits differ. -/
def CtxAndPadOnly (k k' : Core) : Prop :=
  k' = { k with ctx0 := k'.ctx0, ctx1 := k'.ctx1, sp := k'.sp, spPoison := k'.spPoison, waiting := none, waitingFree := false } ∧
  otherCtx k' = otherCtx k


/-- An ISSUE that its unit accepts (R230, R240): an id and a queue place are free, both descriptors are aligned and powered, the
unit takes a further operation, the chain descriptors read, no register that the operation names is pending, the footprint's
reserved bits are 0 and its lines powered, every range lies in the footprint, the scoreboard has room and no new write range
overlaps it, the unit's own checks pass and its rings are free. Then rd takes the lowest free id, the PC moves on, and the
operation, holding the descriptor and the registers as they are now, is the newest one in flight, with its footprint on the
scoreboard; `after` is what the core's DMA engine does at once. -/
def Issues (i : Instr) (u size align : Nat) (takes : Core → List Word → Bool)
    (chains : Core → List Word → Option (List Word × List Word))
    (plan : State → Core → Op → Plan) (after : State → State) (core : CoreId) (rd ra rb : RegId) : Prop :=
  ∀ s, CoreRuns core s [ra, rb] →
    let c := core.toNat
    let k := unstall (getCore s c)
    let a := (getReg k ra).toNat
    let f := (getReg k rb).toNat
    let desc := wordsOf (size / 4) (spRead k a size)
    let fp := wordsOf 4 (spRead k f 16)
    (∀ id pro epi, freeOpId k = some id → (unitOps k u).length < queueDepth u → a % align = 0 → powered k a size = true →
      f % 16 = 0 → powered k f 16 = true → takes k desc = true → chains k desc = some (pro, epi) →
      let o := newOp s k u id desc pro epi
      let p := plan s k o
      let es := fpEntries fp id
      (∀ r ∈ p.regs, regPending k (BitVec.ofNat 5 r) = false) → (∀ w ∈ fp, fld w 26 6 = 0) →
      (∀ e ∈ es, entryPowered k e = true) → (∀ r ∈ p.ranges, rangeOk k es r = true) →
      k.sb.length + es.length ≤ 8 → writeConflict k es = false → p.check = none → ringsTaken k p = false →
      ∃ t, exec i s = .next (after t) ∧ CoreOnly c s t ∧ getReg (getCore t c) rd = BitVec.ofNat 32 id ∧
        (∀ r, r ≠ rd → getReg (getCore t c) r = getReg k r) ∧ pcOf (getCore t c) = pcOf k + 1 ∧
        (getCore t c).sb = k.sb ++ es.map (planEntry p) ∧ (getCore t c).sp = k.sp ∧
        ∃ x, (getCore t c).ops = k.ops ++ [x] ∧ x.id = id ∧ x.unit = BitVec.ofNat 3 u ∧ x.desc = desc ∧
          x.regs = (getCtx k).regs.toList ∧ x.pos = 0) ∧
    (queueDepth u ≤ (unitOps k u).length ∨ freeOpId k = none → exec i s = .next (after (setCore s c (stall 2 k)))) ∧
    (∀ id, freeOpId k = some id → (unitOps k u).length < queueDepth u →
      ¬ (a % align = 0 ∧ powered k a size = true ∧ f % 16 = 0 ∧ powered k f 16 = true) →
      exec i s = .next (after (rejectIssue c u 3 (setCore s c (nextPc k)))))


/-- R232: the operation has left the core: its id, its scoreboard entries and its rings are free, and the operations and entries
of all others stand as in k. -/
def Left (id : Nat) (k k' : Core) : Prop :=
  k'.ops.filter (fun o => decide (o.id ≠ id)) = k'.ops ∧ k'.ops.map (·.id) = (k.ops.filter fun o => decide (o.id ≠ id)).map (·.id) ∧
  k'.sb = (k.sb.filter fun e => decide (e.op ≠ id)) ∧ ∀ r, r < 16 → (getRing k' r).writer ≠ some id ∧ (getRing k' r).reader ≠ some id

/-- The registers and the PCs of both contexts of core c are as before. -/
def KeepsRegs (c : Nat) (s t : State) : Prop :=
  (getCore t c).ctx0.regs = (getCore s c).ctx0.regs ∧ (getCore t c).ctx1.regs = (getCore s c).ctx1.regs ∧
  (getCore t c).ctx0.pc = (getCore s c).ctx0.pc ∧ (getCore t c).ctx1.pc = (getCore s c).ctx1.pc

/-- The summary word of a context (R132). -/
def sumwOf (k : Core) (ctx : BitVec 1) : Word := if ctx = 0 then k.ctx0.sumw else k.ctx1.sumw

/-- A register of a context. -/
def regOf (k : Core) (ctx : BitVec 1) (r : Nat) : Word := (if ctx = 0 then k.ctx0.regs else k.ctx1.regs).getD r 0


/-- The request of a tag leaves, and its operation: R255. -/
def TagFreed (tag : Nat) (k k' : Core) : Prop := k'.reqs = k.reqs.filter fun q => decide (q.tag ≠ tag)


/-- The fields that a write of STE_CTRL sets (Table 9.1). -/
def ctrlFields (v : Word) (r : SteRegs) : SteRegs :=
  { r with reset := r.reset || v.getLsbD 3, express := v.getLsbD 4, keepState := v.getLsbD 5, adaptEn := v.getLsbD 6, cont := v.getLsbD 7,
           dclass := v.extractLsb' 8 8, ownerTag := v.extractLsb' 16 16 }

/-- A write of STE_CTRL that changes no field that its stream's state fixes (R282). -/
def ctrlAllowed (v : Word) (x : Stream) : Prop :=
  quietState x.state = true ∨
    (v.getLsbD 4 = x.r.express ∧ v.extractLsb' 8 8 = x.r.dclass ∧ v.extractLsb' 16 16 = x.r.ownerTag)


/-- R389, R390: the entry is good, no command in progress or waiting names its streams, a LASER_RESUME sees its module, and
the progress entry `slot` is the lowest free one. -/
def MayStart (c : HostCmd) (envs : List LaserEnv) (slot : Nat) (s : State) : Prop :=
  commandsOn s = true ∧ entryStatus s c = 0 ∧ entryFor s c envs (s.waitCmds.flatMap namedStreams) = some slot

/-- A short command whose entry is good, and nothing waits. -/
def MayAnswer (c : HostCmd) (s : State) : Prop :=
  commandsOn s = true ∧ entryStatus s c = 0 ∧ s.waitCmds = [] ∧ s.waitState = []

/-- A command that is not long ends: its completion waits to be written to its queue, after those that wait already, and
nothing else changes from u. -/
def Replies (i : Instr) (c : HostCmd) (status cause : Nat) (result : List Word) (s u : State) : Prop :=
  exec i s = .next (reply c status cause result u) ∧
  (getQ (reply c status cause result u) c.queue.toNat).held = (getQ u c.queue.toNat).held ++
    [{ cmdId := cmdId c, status := BitVec.ofNat 8 status, cause := BitVec.ofNat 8 cause, result := result, slot := none }]

/-- R406: the command has the progress entry, and is the newest long command in progress. -/
def started (slot : Nat) (c : HostCmd) (s : State) : State :=
  let s := takePrg slot c 0 s
  { s with long := s.long ++ [{ LongCmd.init with slot := slot, cmd := c }] }

end Sys2Proof.Claims

open Sys2Proof Sys2Proof.Machine Sys2Proof.Claims

/-- The integer ALU and immediate instructions write their result to rd and nothing else. On a core that exists and runs, with
no register pending, ADD, SUB, AND, OR, XOR, SHL, SHR, SRA, MUL, SLT and SLTU complete: rd takes the 32-bit result (shifts
by rb[4:0]), the PC moves to the next word, and every other register, the other context, the summary word, the scratchpad,
the rings, the other cores and all the rest of the device are as before. On a core that exists and runs, with ra not
pending, ADDI writes ra + sext(imm), ANDI ra and zext(imm), ORI ra or zext(imm), LUI imm x 2^16 to rd; the PC moves to the
next word and nothing else of the device changes. (spec/07 Table 7.9; R236; R238; R239; R241) -/
def Obligations.IntegerAndImmediateArithmetic : Prop :=
  (∀ (core : CoreId) (rd ra rb : RegId),
      ComputesReg (.add core rd ra rb) core [ra, rb] rd (fun k => getReg k ra + getReg k rb) ∧
      ComputesReg (.sub core rd ra rb) core [ra, rb] rd (fun k => getReg k ra - getReg k rb) ∧
      ComputesReg (.and core rd ra rb) core [ra, rb] rd (fun k => getReg k ra &&& getReg k rb) ∧
      ComputesReg (.or core rd ra rb) core [ra, rb] rd (fun k => getReg k ra ||| getReg k rb) ∧
      ComputesReg (.xor core rd ra rb) core [ra, rb] rd (fun k => getReg k ra ^^^ getReg k rb) ∧
      ComputesReg (.shl core rd ra rb) core [ra, rb] rd (fun k => BitVec.ofNat 32 ((getReg k ra).toNat * 2 ^ ((getReg k rb).toNat % 32))) ∧
      ComputesReg (.shr core rd ra rb) core [ra, rb] rd (fun k => BitVec.ofNat 32 ((getReg k ra).toNat / 2 ^ ((getReg k rb).toNat % 32))) ∧
      ComputesReg (.sra core rd ra rb) core [ra, rb] rd (fun k => BitVec.ofInt 32 ((getReg k ra).toInt / 2 ^ ((getReg k rb).toNat % 32))) ∧
      ComputesReg (.mul core rd ra rb) core [ra, rb] rd (fun k => BitVec.ofNat 32 ((getReg k ra).toNat * (getReg k rb).toNat)) ∧
      ComputesReg (.slt core rd ra rb) core [ra, rb] rd (fun k => if (getReg k ra).toInt < (getReg k rb).toInt then 1 else 0) ∧
      ComputesReg (.sltu core rd ra rb) core [ra, rb] rd (fun k => if (getReg k ra).toNat < (getReg k rb).toNat then 1 else 0)) ∧
  (∀ (core : CoreId) (rd ra : RegId) (imm : Half),
      ComputesReg (.addi core rd ra imm) core [ra] rd (fun k => BitVec.ofInt 32 ((getReg k ra).toInt + imm.toInt)) ∧
      ComputesReg (.andi core rd ra imm) core [ra] rd (fun k => getReg k ra &&& BitVec.ofNat 32 imm.toNat) ∧
      ComputesReg (.ori core rd ra imm) core [ra] rd (fun k => getReg k ra ||| BitVec.ofNat 32 imm.toNat) ∧
      ComputesReg (.lui core rd imm) core [] rd (fun _ => BitVec.ofNat 32 (imm.toNat * 65536)))

/-- FADD, FSUB, FMUL, FMA, FMIN, FMAX, I2F, F2I and FLT round once and count what they meet. On a core that exists and runs,
with no register that the instruction reads pending, the nine FPU instructions complete: rd takes the exact sum,
difference, product, fused product-sum or integer rounded once (ties away from zero, finite, exact zero signed by R38), or
the smaller or larger operand, or the comparison; a NaN operand gives 0x7FC00000; the PC moves on, overflows and non-
finite operands count for the core's current token, and nothing else changes. (spec/07 Table 7.9; R36; R38; R42; R43; R44;
R239) -/
def Obligations.FloatArithmetic : Prop :=
  ∀ (core : CoreId) (rd ra rb : RegId),
    ComputesFloat (.fadd core rd ra rb) core [ra, rb] rd (fun k =>
      let a := getReg k ra
      let b := getReg k rb
      unlessNan (isNan a || isNan b) (roundedOnce (isZero a && isNeg a && isZero b && isNeg b) (f32val a + f32val b))) ∧
    ComputesFloat (.fsub core rd ra rb) core [ra, rb] rd (fun k =>
      let a := getReg k ra
      let b := getReg k rb
      unlessNan (isNan a || isNan b) (roundedOnce (isZero a && isNeg a && isZero b && !isNeg b) (f32val a - f32val b))) ∧
    ComputesFloat (.fmul core rd ra rb) core [ra, rb] rd (fun k =>
      let a := getReg k ra
      let b := getReg k rb
      unlessNan (isNan a || isNan b) (roundedOnce (xor (isNeg a) (isNeg b)) (f32val a * f32val b))) ∧
    ComputesFloat (.fma core rd ra rb) core [ra, rb, rd] rd (fun k =>
      let a := getReg k ra
      let b := getReg k rb
      let c := getReg k rd
      unlessNan (isNan a || isNan b || isNan c)
        (roundedOnce ((isZero a || isZero b) && xor (isNeg a) (isNeg b) && isZero c && isNeg c) (f32val a * f32val b + f32val c))) ∧
    ComputesFloat (.fmin core rd ra rb) core [ra, rb] rd (fun k =>
      let a := getReg k ra
      let b := getReg k rb
      unlessNan (isNan a || isNan b) (if fkey a ≤ fkey b then a else b, Ev.init)) ∧
    ComputesFloat (.fmax core rd ra rb) core [ra, rb] rd (fun k =>
      let a := getReg k ra
      let b := getReg k rb
      unlessNan (isNan a || isNan b) (if fkey a < fkey b then b else a, Ev.init)) ∧
    ComputesFloat (.i2f core rd ra) core [ra] rd (fun k => roundedOnce false ((getReg k ra).toInt : Rat)) ∧
    ComputesReg (.f2i core rd ra) core [ra] rd (fun k =>
      let a := getReg k ra
      if isNan a then 0
      else if 2147483647 ≤ rnaInt (f32val a) then 0x7FFFFFFF
      else if rnaInt (f32val a) ≤ -2147483647 then 0x80000001
      else BitVec.ofInt 32 (rnaInt (f32val a))) ∧
    ComputesReg (.flt core rd ra rb) core [ra, rb] rd (fun k =>
      if isNan (getReg k ra) = false ∧ isNan (getReg k rb) = false ∧ f32val (getReg k ra) < f32val (getReg k rb) then 1 else 0)

/-- BEQ to BGEU, JAL, JR and BSUM set the PC, and fault outside the bank. On a core that exists and runs, with the registers
read not pending (BSUM: no EC operation with SUM_EN of this context in flight), a branch that is not taken goes to the
next word, one that is taken to its own address plus its signed offset, JAL also writes PC + 1 to rd, JR goes to ra[11:0];
a target outside 0 to 4,095 is a control-core fault; nothing else changes. Rows that complete here: BEQ, BNE, BLT, BGE,
BLTU, BGEU, JAL, JR, BSUM. (spec/07 Table 7.8; spec/07 Table 7.9; R238; R239; R241) -/
def Obligations.BranchesAndJumps : Prop :=
  ∀ (core : CoreId) (ra rb rd : RegId) (off : Half) (joff : BitVec 21) (sense : Bool) (mask : BitVec 6),
    Branches (.beq core ra rb off) core [ra, rb] 0x18 off.toInt (fun k => decide (getReg k ra = getReg k rb)) (fun _ => True) ∧
    Branches (.bne core ra rb off) core [ra, rb] 0x19 off.toInt (fun k => decide (getReg k ra ≠ getReg k rb)) (fun _ => True) ∧
    Branches (.blt core ra rb off) core [ra, rb] 0x1A off.toInt
      (fun k => decide ((getReg k ra).toInt < (getReg k rb).toInt)) (fun _ => True) ∧
    Branches (.bge core ra rb off) core [ra, rb] 0x1B off.toInt
      (fun k => decide ((getReg k rb).toInt ≤ (getReg k ra).toInt)) (fun _ => True) ∧
    Branches (.bltu core ra rb off) core [ra, rb] 0x1C off.toInt
      (fun k => decide ((getReg k ra).toNat < (getReg k rb).toNat)) (fun _ => True) ∧
    Branches (.bgeu core ra rb off) core [ra, rb] 0x1D off.toInt
      (fun k => decide ((getReg k rb).toNat ≤ (getReg k ra).toNat)) (fun _ => True) ∧
    Branches (.bsum core sense mask off) core [] 0x20 off.toInt
      (fun k => decide (decide ((getCtx k).sumw.toNat % 64 &&& mask.toNat ≠ 0) = sense)) (fun k => sumPending k = false) ∧
    (∀ s, CoreRuns core s [] →
      let k := getCore s core.toNat
      let target := (pcOf k).toNat + joff.toInt
      (0 ≤ target → target < 4096 → Completes (.jal core rd joff) s fun t => CoreOnly core.toNat s t ∧
        WritesReg k (getCore t core.toNat) rd (BitVec.ofNat 32 ((pcOf k).toNat + 1)) (BitVec.ofInt 12 target)) ∧
      (¬ (0 ≤ target ∧ target < 4096) →
        exec (.jal core rd joff) s = .next (ccFault core.toNat 0x1E (setCore s core.toNat (unstall k))))) ∧
    (∀ s, CoreRuns core s [ra] → Completes (.jr core ra) s fun t => CoreOnly core.toNat s t ∧
      MovesPc (getCore s core.toNat) (getCore t core.toNat) (BitVec.ofNat 12 (getReg (getCore s core.toNat) ra).toNat))

/-- LD, LDT and LDR read a word or a tag, and a misaligned or unpowered word faults. On a core that exists and runs, with the
registers read not pending: LD of a 4 B-aligned word in a powered bank, under no write mark, in no ring slot it may not
read, not poisoned, writes the word to rd; LDT writes the tag of the 64 B that hold a powered byte; LDR of a clean word of
an existing core writes the far word and counts one remote-latency stall. Nothing else changes but that LDR restarts the
far island. A word that is misaligned or in an unpowered bank is a control-core fault. (spec/07 Table 7.9; R210; R213;
R222; R227; R233; R239; R247) -/
def Obligations.LoadsReadWords : Prop :=
  ∀ (core : CoreId) (rd ra rb : RegId) (imm : Half) (s : State),
    let c := core.toNat
    let k := getCore s c
    (CoreRuns core s [ra] →
      let a := (getReg k ra + imm.signExtend 32).toNat
      (a % 4 = 0 → powered k a 4 = true → readBlocked k a = false → rawViolation k true false a 4 = none →
        spPoisoned k a 4 = false → Completes (.ld core rd ra imm) s fun t => CoreOnly c s t ∧
          WritesReg k (getCore t c) rd (memWord k.sp a) (pcOf k + 1)) ∧
      (¬ (a % 4 = 0 ∧ powered k a 4 = true) → exec (.ld core rd ra imm) s = .next (ccFault c 0x10 (setCore s c (unstall k)))) ∧
      (powered k a 1 = true → Completes (.ldt core rd ra imm) s fun t => CoreOnly c s t ∧
        WritesReg k (getCore t c) rd ((tagAt k a).zeroExtend 32) (pcOf k + 1)) ∧
      (powered k a 1 = false → exec (.ldt core rd ra imm) s = .next (ccFault c 0x14 (setCore s c (unstall k))))) ∧
    (CoreRuns core s [ra, rb] →
      let far := (getReg k ra).toNat
      let a := (getReg k rb).toNat
      far < 2 ^ 17 → coreExists s (BitVec.ofNat 17 far) = true → a % 4 = 0 → powered (getCore s far) a 4 = true →
        spPoisoned (getCore s far) a 4 = false → Completes (.ldr core rd ra rb) s fun t =>
          t = { s with cores := t.cores } ∧ (∀ d, d ≠ c → d ≠ far → getCore t d = getCore s d) ∧
          (far ≠ c → getCore t far = { getCore s far with gated := false }) ∧
          getReg (getCore t c) rd = memWord (getCore s far).sp a ∧ (∀ r, r ≠ rd → getReg (getCore t c) r = getReg k r) ∧
          pcOf (getCore t c) = pcOf k + 1 ∧ (getCore t c).sp = k.sp ∧ (getCore t c).rings = k.rings ∧
          (k.gated = false → vget 0 (getCore t c).stalls 4 = vget 0 k.stalls 4 + 1))

/-- ST writes four bytes of its scratchpad, STR sends a word under a covering grant. On a core that exists and runs, with the
registers read not pending and a scratchpad in canonical form: ST to a 4 B-aligned word in a powered bank whose line no
scoreboard entry covers, in no ring slot it may not write, stores rd little-endian in the four bytes at ra + sext(imm),
clears no other byte, and only moves the PC besides; STR under a grant held from the destination that covers the word puts
the store on the mesh; a misaligned or unpowered word is a control-core fault; without a covering grant STR waits and
counts credit-wait. (spec/07 Table 7.9; R216; R227; R233; R239; R247; R365) -/
def Obligations.StoresWriteWords : Prop :=
  ∀ (core : CoreId) (rd ra rb : RegId) (imm : Half) (s : State),
    let c := core.toNat
    let k := getCore s c
    (CoreRuns core s [ra, rd] → Memory.wf k.sp →
      let a := (getReg k ra + imm.signExtend 32).toNat
      (a % 4 = 0 → powered k a 4 = true → writeBlocked k a = false → rawViolation k true true a 4 = none →
        Completes (.st core rd ra imm) s fun t => CoreOnly c s t ∧ CtxAndPadOnly k (getCore t c) ∧
          (∀ r, getReg (getCore t c) r = getReg k r) ∧ pcOf (getCore t c) = pcOf k + 1 ∧
          (∀ i, i < 4 → memGet (getCore t c).sp (a + i) = BitVec.ofNat 8 ((getReg k rd).toNat / 256 ^ i)) ∧
          (∀ x, x < a ∨ a + 4 ≤ x → memGet (getCore t c).sp x = memGet k.sp x) ∧ Memory.wf (getCore t c).sp) ∧
      (¬ (a % 4 = 0 ∧ powered k a 4 = true) → exec (.st core rd ra imm) s = .next (ccFault c 0x11 (setCore s c (unstall k))))) ∧
    (CoreRuns core s [ra, rb, rd] →
      let far := (getReg k ra).toNat
      let a := (getReg k rb).toNat
      far < 2 ^ 17 → coreExists s (BitVec.ofNat 17 far) = true → a % 4 = 0 → powered (getCore s far) a 4 = true →
        (grantCovers k far a 4 = true → Completes (.str core rd ra rb) s fun t =>
          t = { s with cores := t.cores, mesh := s.mesh ++ [Msg.write core (BitVec.ofNat 17 far) a (leBytes 4 (getReg k rd).toNat) false none] } ∧
          (∀ d, d ≠ c → getCore t d = getCore s d) ∧ MovesPc k (getCore t c) (pcOf k + 1)) ∧
        (grantCovers k far a 4 = false → exec (.str core rd ra rb) s = .next (setCore s c (stall 1 (unstall k)))))

/-- MFS reads the special registers of Table 7.7, MTS sets the stall counters and HAZARD. On a core that exists and runs, with
ra not pending: MFS writes to rd SUMW (no EC operation with SUM_EN of this context in flight), the core's number, its
group and the position in it, the executing bank, whether the other is loaded and the context, the low word of device time
(latching the high word), the latched high word, a bit for each operation in flight, the counts of grants issued and held,
a stall counter, or HAZARD; MTS sets a stall counter or HAZARD and nothing else; MTS to any other index, and MFS of an
index that Table 7.7 does not have, are control-core faults. (spec/07 Table 7.7; R237; R241; R247) -/
def Obligations.SpecialRegisterAccess : Prop :=
  ∀ (core : CoreId) (rd ra : RegId) (s : State),
    let c := core.toNat
    let k := getCore s c
    let reads (i : Half) (v : Word) : Prop := Completes (.mfs core rd i) s fun t => CoreOnly c s t ∧
      WritesReg k (getCore t c) rd v (pcOf k + 1)
    (CoreRuns core s [] →
      (sumPending k = false → reads 0 (getCtx k).sumw) ∧
      reads 1 (core.zeroExtend 32) ∧
      reads 2 (BitVec.ofNat 32 (((groupOf k k.bank).getD 0).toNat + 2 ^ 16 * groupPosOf k k.bank)) ∧
      reads 3 (BitVec.ofNat 32 (k.bank.toNat + 2 * (if k.otherLoaded then 1 else 0) + 4 * k.cur.toNat)) ∧
      (Completes (.mfs core rd 4) s fun t => CoreOnly c s t ∧
        WritesReg { k with timeHi := s.clk.time.extractLsb' 32 32 } (getCore t c) rd (s.clk.time.extractLsb' 0 32) (pcOf k + 1)) ∧
      reads 5 k.timeHi ∧
      ((∀ o ∈ k.ops, o.id < 16) → ∃ v : Word, reads 6 v ∧ ∀ n, n < 32 → v.getLsbD n = k.ops.any (fun o => decide (o.id = n))) ∧
      reads 7 (BitVec.ofNat 32 (k.grantsOut.length + 256 * k.grantsIn.length)) ∧
      (∀ i : Nat, i < 8 → reads (BitVec.ofNat 16 (8 + i)) (vget 0 k.stalls i)) ∧
      reads 16 k.hazard ∧
      (∀ i : Half, 16 < i.toNat → exec (.mfs core rd i) s = .next (ccFault c 0x21 (setCore s c (unstall k))))) ∧
    (CoreRuns core s [ra] →
      (∀ i : Nat, i < 8 → Completes (.mts core ra (BitVec.ofNat 16 (8 + i))) s fun t => CoreOnly c s t ∧
        MovesPc { k with stalls := vset k.stalls i (getReg k ra) } (getCore t c) (pcOf k + 1)) ∧
      (Completes (.mts core ra 16) s fun t => CoreOnly c s t ∧
        MovesPc { k with hazard := getReg k ra } (getCore t c) (pcOf k + 1)) ∧
      (∀ i : Half, i.toNat < 8 ∨ 16 < i.toNat → exec (.mts core ra i) s = .next (ccFault c 0x22 (setCore s c (unstall k)))))

/-- NOP, YIELD and WAITOP go on; WAITOP waits for its operations, YIELD switches contexts in COMPAT mode. On a core that
exists and runs, with ra not pending: the NOP word 0 and, outside COMPAT mode, YIELD only move the PC; WAITOP moves the PC
when the operation it names, or with 0xFFFFFFFF every operation, has left, and otherwise waits without moving; in COMPAT
mode YIELD moves the PC of the context and lets the other one execute from its own bank; a word that is no instruction is
a control-core fault. Rows that complete here: CC_NOP, WAITOP, YIELD. (spec/07 Table 7.9; R239; R241; R248) -/
def Obligations.WaitsAndSwitches : Prop :=
  ∀ (core : CoreId) (ra : RegId) (s : State),
    let c := core.toNat
    let k := getCore s c
    (CoreRuns core s [] →
      (Completes (.ccNop core 0) s fun t => CoreOnly c s t ∧ MovesPc k (getCore t c) (pcOf k + 1)) ∧
      (∀ w : Word, w ≠ 0 → ccDecode core w = none →
        exec (.ccNop core w) s = .next (ccFault c (w.toNat >>> 26) (setCore s c (unstall k)))) ∧
      (k.compat = false → Completes (.yield core) s fun t => CoreOnly c s t ∧ MovesPc k (getCore t c) (pcOf k + 1)) ∧
      (k.compat = true → Completes (.yield core) s fun t => CoreOnly c s t ∧
        (getCore t c).cur = k.cur ^^^ 1 ∧ getCtx (getCore t c) = otherCtx k ∧ (getCore t c).bank = (otherCtx k).bank ∧
        otherCtx (getCore t c) = { getCtx k with pc := pcOf k + 1, bank := k.bank } ∧ (getCore t c).sp = k.sp ∧
        (getCore t c).taken = k.taken)) ∧
    (CoreRuns core s [ra] →
      let waits := if getReg k ra = 0xFFFFFFFF then k.ops ≠ [] else ∃ o ∈ k.ops, o.id = (getReg k ra).toNat
      (¬ waits → Completes (.waitop core ra) s fun t => CoreOnly c s t ∧ MovesPc k (getCore t c) (pcOf k + 1)) ∧
      (waits → Completes (.waitop core ra) s fun t => CoreOnly c s t ∧
        getCore t c = { k with waiting := none, waitingFree := true }))

/-- TAKE writes the five token registers of the best eligible token and takes it. On a core that exists and runs: with rd at
most 27, fewer than the allowed tokens taken, every powered bank ready and t the eligible token with the earliest D (then
the lower stream number), TAKE completes: rd to rd + 4 hold stream, epoch bank, EXPRESS, INIT_ENTRY and FINAL, the chunk
number, D, the frames, and the matched slot's address with bit 31 (or 0); t moves from held to taken under the executing
context; the PC goes on, or to word 0 of t's bank when that is another; no other register and no other core changes. With
rd above 27, or the limit of taken tokens reached, TAKE is a control-core fault; with no token held it waits and counts
nothing. (spec/07 Table 7.10; R26; R242; R243; R244) -/
def Obligations.TakeGivesTheEarliestToken : Prop :=
  ∀ (core : CoreId) (rd : RegId) (s : State), CoreRuns core s [] →
    let c := core.toNat
    let k := unstall (getCore s c)
    (∀ t, rd.toNat ≤ 27 → takeFull k = false → banksReady k = true → bestToken (k.tokens.filter (eligible s k)) = some t →
      Completes (.take core rd) s fun u => CoreOnly c s u ∧
        getReg (getCore u c) rd = BitVec.ofNat 32 (t.stream.toNat + 4096 * t.bank.toNat + (if t.express then 8192 else 0) +
          (if t.initEntry then 16384 else 0) + (if t.final then 32768 else 0)) ∧
        getReg (getCore u c) (rd + 1) = t.chunk.extractLsb' 0 32 ∧
        getReg (getCore u c) (rd + 2) = t.deadline.extractLsb' 0 32 ∧
        getReg (getCore u c) (rd + 3) = BitVec.ofNat 32 t.frames.toNat ∧
        getReg (getCore u c) (rd + 4) = (match inRingOf s k t with
          | none => 0
          | some r => match inputSlot k r t with
            | none => 0
            | some i => BitVec.ofNat 32 (slotAddr (getRing k r) i + 2 ^ 31)) ∧
        (∀ r : RegId, r.toNat < rd.toNat ∨ rd.toNat + 5 ≤ r.toNat → getReg (getCore u c) r = getReg k r) ∧
        (getCore u c).tokens = k.tokens.erase t ∧
        (∃ x, (getCore u c).taken = k.taken ++ [x] ∧ x.tok = t ∧ x.ctx = k.cur) ∧
        (getCore u c).bank = t.bank ∧ pcOf (getCore u c) = (if t.bank = k.bank then pcOf k + 1 else 0) ∧
        (getCore u c).sp = k.sp ∧ (getCore u c).ops = k.ops) ∧
    (27 < rd.toNat ∨ takeFull k = true → exec (.take core rd) s = .next (ccFault c 0x26 (setCore s c k))) ∧
    (rd.toNat ≤ 27 → takeFull k = false → k.tokens = [] → Completes (.take core rd) s fun u => CoreOnly c s u ∧
      getCore u c = { k with waitingFree := true })

/-- A token of another epoch continues at word 0 of its bank, with operations in flight untouched. On a core that runs, when
TAKE's token t has a bank other than the executing one, TAKE writes rd to rd + 4, the executing bank becomes t's, the PC
is word 0, and the operations in flight, their requests and their scoreboard entries go on unchanged. (R244) -/
def Obligations.TakeContinuesInTheTokensBank : Prop :=
  ∀ (core : CoreId) (rd : RegId) (s : State) (t : Token), CoreRuns core s [] →
    let c := core.toNat
    let k := unstall (getCore s c)
    rd.toNat ≤ 27 → takeFull k = false → banksReady k = true → bestToken (k.tokens.filter (eligible s k)) = some t →
    t.bank ≠ k.bank → Completes (.take core rd) s fun u =>
      (∀ i : Nat, i < 5 → getReg (getCore u c) (BitVec.ofNat 5 (rd.toNat + i)) = (tokenWords t ((inRingOf s k t).bind fun r =>
        (inputSlot k r t).map fun j => slotAddr (getRing k r) j)).getD i 0) ∧
      (getCore u c).bank = t.bank ∧ pcOf (getCore u c) = 0 ∧
      (getCore u c).ops = k.ops ∧ (getCore u c).reqs = k.reqs ∧ (getCore u c).sb = k.sb

/-- DONE takes its stream's token off the taken ones, and faults without one. On a core that exists and runs, with ra not
pending: when x is the first taken token whose stream number is the value of ra, DONE completes: x is taken no more, and
no taken token of another core changes; while the core is in a group of the present epoch's image, or still holds a token
or an operation, DONE executions count one more, the PC goes on and no register of the core changes; without such a token
DONE is a control-core fault. (spec/07 Table 7.9; R209; R243; R245; R247) -/
def Obligations.DoneFinishesATakenToken : Prop :=
  ∀ (core : CoreId) (ra : RegId) (s : State), CoreRuns core s [ra] →
    let c := core.toNat
    let k := getCore s c
    (∀ x, (k.taken.find? fun t => decide (t.tok.stream.toNat = (getReg k ra).toNat)) = some x →
      Completes (.done core ra) s fun u => (getCore u c).taken = k.taken.erase x ∧
        (∀ d, d ≠ c → (getCore u d).taken = (getCore s d).taken) ∧
        ((coreGroup s k s.cfg.bankOf).isSome = true ∨ k.tokens ≠ [] ∨ k.ops ≠ [] →
          (getCore u c).doneCount = k.doneCount + 1 ∧ pcOf (getCore u c) = pcOf k + 1 ∧ ∀ r, getReg (getCore u c) r = getReg k r)) ∧
    ((∀ x ∈ k.taken, x.tok.stream.toNat ≠ (getReg k ra).toNat) →
      exec (.done core ra) s = .next (ccFault c 0x27 (setCore s c (unstall k))))

/-- RCFG configures a ring, RWAIT finds a committed slot or allocates a free one. On a core that exists and runs, with the
registers read not pending and r = ra[3:0]: RCFG with a readable record that passes the checks, on a ring that is disabled
or unused, makes ring r the record's ring with HEAD, TAIL and their wrap bits 0; RWAIT FN 0 on an enabled ring writes the
address of its oldest committed, unreleased slot to rd, bit 31 marking a poison slot; RWAIT FN 1 on an enabled ring with
no other writer and a free slot allocates that slot and writes its address to rd. Other rings, the scratchpad and the rest
of the device keep their values; a record that fails its checks is a control-core fault; without a slot FN 0 waits and
counts input-not-ready, or fault-wait while the ring's writer waits at a fault, and FN 1 credit-wait. Rows that complete
here: RCFG, RWAIT_COMMITTED, RWAIT_ALLOCATE. (spec/07 Table 7.3; spec/07 Table 7.9; R219; R220; R221; R224; R276; R280) -/
def Obligations.RingInstructionsConfigureAndWait : Prop :=
  ∀ (core : CoreId) (rd ra rb : RegId) (s : State),
    let c := core.toNat
    let k := unstall (getCore s c)
    let r := (getReg k ra).toNat % 16
    let x := getRing k r
    (CoreRuns core s [ra, rb] →
      let w := wordsOf 4 (spRead k (getReg k rb).toNat 16)
      let ok := powered k (getReg k rb).toNat 16 && ringRecordOk s k r w
      (ok = true → (x.en && ringInUse x) = false → Completes (.rcfg core ra rb) s fun t => CoreOnly c s t ∧
        MovesPc (setRing k r (ringRecord w)) (getCore t c) (pcOf k + 1) ∧ getRing (getCore t c) r = ringRecord w ∧
        (ringRecord w).head = 0 ∧ (ringRecord w).tail = 0 ∧ (ringRecord w).headWrap = false ∧ (ringRecord w).tailWrap = false ∧
        ∀ q, q ≠ r → getRing (getCore t c) q = getRing k q) ∧
      (ok = false → exec (.rcfg core ra rb) s = .next (ccFault c 0x28 (setCore s c k)))) ∧
    (CoreRuns core s [ra] →
      (∀ q, x.en = true → (filledSlots x).find? (fun q => decide (q.state ≠ .released)) = some q →
        Completes (.rwaitCommitted core rd ra) s fun t => CoreOnly c s t ∧
          WritesReg k (getCore t c) rd (BitVec.ofNat 32 (slotAddr x q.idx + (if q.poison then 2 ^ 31 else 0))) (pcOf k + 1)) ∧
      ((filledSlots x).find? (fun q => decide (q.state ≠ .released)) = none →
        (x.writer.toList.any (opSuspended k) = true → exec (.rwaitCommitted core rd ra) s = .next (setCore s c (stall 5 k))) ∧
        (x.writer.toList.any (opSuspended k) = false → k.compat = false →
          exec (.rwaitCommitted core rd ra) s = .next (setCore s c (stall 0 k)))) ∧
      (∀ i, x.en = true → (x.writer = none ∨ x.writer = some 16) → nextFree x = some i →
        Completes (.rwaitAllocate core rd ra) s fun t => CoreOnly c s t ∧
          WritesReg (setRing k r { x with slots := x.slots ++ [{ Slot.init with idx := i }], writer := some 16 }) (getCore t c) rd
            (BitVec.ofNat 32 (slotAddr x i)) (pcOf k + 1)) ∧
      (x.en = true → (x.writer = none ∨ x.writer = some 16) → nextFree x = none →
        exec (.rwaitAllocate core rd ra) s = .next (setCore s c (stall 1 k))))

/-- RREL frees the oldest slot of a ring, RCOMMIT commits the slot that the control core holds. On a core that exists and
runs, with the registers read not pending and r = ra[3:0]: RREL of the oldest slot of an enabled ring, filled and not yet
released, of no other writer, with the next slot not released and no slot of a halted writer waiting, removes it, advances
HEAD by one with its wrap, leaves its tag a free value, and moves the PC; RCOMMIT of an allocated slot that the control
core holds in an enabled ring makes it committed and sets its tag to rd[15:0]; no register and no other core changes; an
address that names no such slot is a control-core fault. (spec/07 Table 7.9; R220; R221; R222; R223; R247) -/
def Obligations.RingInstructionsReleaseAndCommit : Prop :=
  ∀ (core : CoreId) (rd ra rb : RegId) (s : State),
    let c := core.toNat
    let k := unstall (getCore s c)
    let r := (getReg k ra).toNat % 16
    let x := getRing k r
    (CoreRuns core s [ra, rb] →
      (∀ q rest, x.en = true → x.slots = q :: rest → isCommitted q.state = true → q.state ≠ .released →
        (∀ p ∈ rest, p.idx ≠ q.idx) → (∀ p, rest.head? = some p → p.state ≠ .released) →
        slotOf x (getReg k rb).toNat = some q.idx → q.srcCore = none → q.chain = none → q.route = none → x.poisonDue = none → x.dueSlots = [] →
        Completes (.rrel core ra rb) s fun t => CoreAndDraws c s t ∧ pcOf (getCore t c) = pcOf k + 1 ∧
          (∀ i, getReg (getCore t c) i = getReg k i) ∧ (getRing (getCore t c) r).slots = rest ∧
          (getRing (getCore t c) r).head.toNat = (x.head.toNat + x.nslots.toNat * (if x.headWrap then 1 else 0) + 1) %
            (2 * x.nslots.toNat) % x.nslots.toNat % 4096 ∧
          tagAt (getCore t c) (slotAddr x q.idx) = BitVec.ofNat 16 (Config.freeBits s.fresh) ∧
          (∀ q, q ≠ r → getRing (getCore t c) q = getRing k q) ∧ (getCore t c).sp = k.sp) ∧
      (slotOf x (getReg k rb).toNat = none → exec (.rrel core ra rb) s = .next (ccFault c 0x2A (setCore s c k)))) ∧
    (CoreRuns core s [rd, ra, rb] →
      (∀ i q, x.en = true → x.writer = some 16 → slotOf x (getReg k rb).toNat = some i → findSlot x i = some q →
        q.state = .allocated → Completes (.rcommit core rd ra rb) s fun t => CoreOnly c s t ∧ pcOf (getCore t c) = pcOf k + 1 ∧
          (∀ j, getReg (getCore t c) j = getReg k j) ∧
          findSlot (getRing (getCore t c) r) q.idx = some { q with state := .committed, tag := (getReg k rd).extractLsb' 0 16 } ∧
          tagAt (getCore t c) (slotAddr x q.idx) = (getReg k rd).extractLsb' 0 16 ∧
          (∀ j, j ≠ r → getRing (getCore t c) j = getRing k j) ∧ (getCore t c).sp = k.sp) ∧
      (slotOf x (getReg k rb).toNat = none → exec (.rcommit core rd ra rb) s = .next (ccFault c 0x2B (setCore s c k))))

/-- GRANT gives a range to a core, GEND sends the end notice, which lets GWAIT free the number. On a core that exists and
runs, with the registers read not pending: GRANT from a readable record whose range is 32 B-aligned, 32 to 65,536 bytes,
powered and outside every enabled ring, with a number free and fewer than 8 grants held by the named core, writes the
lowest free number to rd and is outstanding here and held there; GEND of a held grant gives it up and sends the end
notice, which stands on the mesh; the notice, once no write from its sender to this core is on its way, marks the grant
ended; GWAIT frees the number of an ended grant and waits for one that is not; each instruction moves the PC. Rows that
complete here: GRANT, GWAIT, GEND, GRANT_END_NOTICE. (spec/07 Table 7.9; R215; R216; R217; R247) -/
def Obligations.GrantsAreGivenAndEnded : Prop :=
  ∀ (core : CoreId) (rd ra rb : RegId) (s : State),
    let c := core.toNat
    let k := unstall (getCore s c)
    (CoreRuns core s [ra, rb] →
      let far := (getReg k ra).toNat
      let a := (getReg k rb).toNat
      let base := (memWord k.sp a).toNat
      let len := (memWord k.sp (a + 4)).toNat
      (∀ n, far < 2 ^ 17 → coreExists s (BitVec.ofNat 17 far) = true → powered k a 8 = true → base % 32 = 0 → len % 32 = 0 →
        32 ≤ len → len ≤ 65536 → powered k base len = true → ringOverlap k 16 base len = false → freeGrant k = some n →
        (getCore s far).grantsIn.length < 8 → Completes (.grant core rd ra rb) s fun t =>
          t = { s with cores := t.cores } ∧ (∀ d, d ≠ c → d ≠ far → getCore t d = getCore s d) ∧
          getReg (getCore t c) rd = BitVec.ofNat 32 n ∧ (∀ r, r ≠ rd → getReg (getCore t c) r = getReg k r) ∧
          pcOf (getCore t c) = pcOf k + 1 ∧ (getCore t c).sp = k.sp ∧
          (getCore t c).grantsOut = k.grantsOut ++
            [{ num := n, src := BitVec.ofNat 17 far, base := base, len := len, ended := false }] ∧
          (getCore t far).grantsIn = (getCore s far).grantsIn ++ [{ dst := core, num := n, base := base, len := len }]) ∧
      ((k.grantsIn.any fun g => decide (g.dst.toNat = far ∧ g.num = a)) = true →
        Completes (.gend core ra rb) s fun t => t = { s with cores := t.cores, mesh := s.mesh ++ [Msg.grantEnd core (BitVec.ofNat 17 far) a] } ∧
          (∀ d, d ≠ c → getCore t d = getCore s d) ∧
          MovesPc { k with grantsIn := k.grantsIn.filter fun g => decide (¬ (g.dst.toNat = far ∧ g.num = a)) } (getCore t c) (pcOf k + 1))) ∧
    (CoreRuns core s [ra] → ∀ g, (k.grantsOut.find? fun g => decide (g.num = (getReg k ra).toNat)) = some g →
      (g.ended = true → Completes (.gwait core ra) s fun t => CoreOnly c s t ∧
        MovesPc { k with grantsOut := k.grantsOut.filter fun g => decide (g.num ≠ (getReg k ra).toNat) } (getCore t c) (pcOf k + 1)) ∧
      (g.ended = false → k.compat = false → exec (.gwait core ra) s = .next (setCore s c (stall 0 k)))) ∧
    (CoreRuns core s [] → ∀ src n rest,
      takeMsg (fun m => match m with | .grantEnd _ d _ => decide (d = core) | _ => false) s.mesh = some (.grantEnd src core n, rest) →
      (s.mesh.any fun m => isWrite m && decide (msgDst m = core ∧ msgSrc m = src)) = false →
      Completes (.grantEndNotice core) s fun t => t = { s with cores := t.cores, mesh := rest } ∧
        (∀ d, d ≠ c → getCore t d = getCore s d) ∧
        (getCore t c).grantsOut = (getCore s c).grantsOut.map (fun g => if g.num = n ∧ g.src = src then { g with ended := true } else g) ∧
        (getCore t c).gated = false ∧ (∀ r, getReg (getCore t c) r = getReg (getCore s c) r) ∧ (getCore t c).sp = (getCore s c).sp)

/-- ISSUE of each of the seven units gives an id, puts the operation in flight and its footprint on the scoreboard. On a core
that exists and runs, with ra and rb not pending: when an id and a place in the unit's queue are free, the descriptor at
ra and the footprint at rb are aligned and powered, the unit takes a further operation, and the checks of the unit and of
the scoreboard pass, ISSUE of ME, EC, GP, attention, DMA, FILL and COPY completes: rd takes the lowest free id, the PC
moves on, the operation is the newest in flight with the descriptor and the register values read now, its ranges join the
scoreboard, and no other register, no scratchpad byte and no other core changes (DMA: the engine then sends what it can).
A full queue, or no free id, makes ISSUE wait and count resource-wait; a descriptor that is misaligned or unpowered is
rejected with SCALE_WINDOW, cause 3, and the PC moves on. Rows that complete here: ISSUE_ME, ISSUE_EC, ISSUE_GP,
ISSUE_ATTENTION, ISSUE_DMA, ISSUE_FILL, ISSUE_COPY. (spec/07 Table 7.5; spec/07 Table 7.9; R229; R230; R240; R253) -/
def Obligations.IssueStartsAnOperation : Prop :=
  ∀ (core : CoreId) (rd ra rb : RegId),
    Issues (.issueMe core rd ra rb) 0 64 32 meTakes meChains mePlan id core rd ra rb ∧
    Issues (.issueEc core rd ra rb) 1 192 32 ecTakes noChains ecPlan id core rd ra rb ∧
    Issues (.issueGp core rd ra rb) 2 64 32 gpTakes noChains gpPlan id core rd ra rb ∧
    Issues (.issueAttention core rd ra rb) 3 64 32 takesAny noChains atPlan id core rd ra rb ∧
    Issues (.issueDma core rd ra rb) 4 128 32 takesAny noChains dmaPlan (dmaRun core.toNat) core rd ra rb ∧
    Issues (.issueFill core rd ra rb) 5 16 16 takesAny noChains (fcPlan false) id core rd ra rb ∧
    Issues (.issueCopy core rd ra rb) 6 16 16 takesAny noChains (fcPlan true) id core rd ra rb

/-- A ready ME tile leaves the exact sums in its bank and moves the operation on by one tile. On a core that exists and runs,
with x the operation whose tile drains next, its inputs taken and its prologue run: when its operands are all there and no
block of the tile fails, ME_TILE_DRAIN completes, the operation stands one tile further, each cell of the tile's bank
whose sum is finite, starts from zero and fits 112 bits holds the exact sum over the K blocks of its row of A and column
of W, and the registers and PCs are as before; while something is missing the command only counts the stall cause of what
is missing; without such an operation it does nothing. Then the core's DMA engine goes on. (spec/03; R49; R76; R83; R87;
R90; R246) -/
def Obligations.MatrixTileDrains : Prop :=
  ∀ (core : CoreId) (s : State), CoreRuns core s [] →
    let c := core.toNat
    (meBegin c s = none → exec (.meTileDrain core) s = .next (dmaRun c s)) ∧
    ∀ (s1 : State) (id : Nat) (x : Op), meBegin c s = some (s1, id) →
      let s2 := prologueNext c id s1
      let k := getCore s2 c
      let as := tileRows k x (freeAcc s2)
      let ws := tileCols k x
      findOp k id = some x → meFault s2 k x = none →
      ((meReady k x).2.1 = .ok → EngineGoesOn (.meTileDrain core) core s fun u =>
        (∃ y, findOp (getCore u c) id = some y ∧ y.pos = x.pos + 1) ∧ KeepsRegs c s u ∧
        ∀ i j a w, as[i]? = some a → ws[j]? = some w → a.nan = false → w.nan = false → i < 8 → j < 8 →
          (x.wideFmt = 0 ∨ meMode x.desc = 3) → (x.pos ≠ 0 ∨ meInit x.desc = 0) → (cellSum (meMode x.desc) a w).natAbs < 2 ^ 111 →
          (((if tileBank x = 0 then (getCore u c).me.bank0 else (getCore u c).me.bank1).getD (8 * i + j) 0).toInt =
            cellSum (meMode x.desc) a w)) ∧
      (∀ r cause, (meReady k x).2 = (r, cause) → r ≠ .ok → r.halts = false →
        exec (.meTileDrain core) s = .next (dmaRun c (setCore s2 c (countStall cause 1 k))))

/-- An ME operation whose tiles have all drained and whose output is written leaves the core. On a core that exists and runs,
when x is the first ME operation with every tile drained and nothing of its output waits: ME_OPERATION_COMPLETE frees its
id, its scoreboard entries and its rings, and changes nothing else of the device but what a poisoned operation counts for
its chunk; then the core's DMA engine goes on. (spec/03; R232; R240; R365; R366) -/
def Obligations.MatrixOperationEnds : Prop :=
  ∀ (core : CoreId) (s : State) (x : Op), CoreRuns core s [] →
    let c := core.toNat
    let k := getCore s c
    ((unitOps k 0).find? fun o => decide (meTiles o.desc ≤ o.pos)) = some x → findOp k x.id = some x →
    x.outBuf = [] → (∀ p ∈ x.part, p.2 = []) →
    exec (.meOperationComplete core) s = .next (dmaRun c (opPoisoned c x (setCore s c (endOp k x.id)))) ∧
    Left x.id k (endOp k x.id) ∧ (endOp k x.id).sp = k.sp ∧ (endOp k x.id).ctx0 = k.ctx0 ∧ (endOp k x.id).ctx1 = k.ctx1

/-- A tile with a failing block, a poison slot or a raw access inside a ring halts its ME operation. On a core that exists and
runs, for the operation whose tile is next, its inputs taken and its prologue run: the first failing block among those
that are ready halts it with SCALE_WINDOW or SCALE_SKEW at the saved position; else, when a poison slot stands in the way,
it halts without an event, and when a raw access inside a ring does, with RING_OVERRUN or RING_UNDERREAD; the bank of the
tile starts from zero at its next use, and the operation leaves the core. Then the core's DMA engine goes on. Rows that
complete here: ME_OPERATION_HALT. (spec/03; R82; R83; R228; R280; R299) -/
def Obligations.MatrixOperationHalts : Prop :=
  ∀ (core : CoreId) (s s1 : State) (id : Nat) (x : Op), CoreRuns core s [] →
    let c := core.toNat
    let k := getCore s1 c
    let z := zeroBank k (tileBank x)
    meBegin c s = some (s1, id) → findOp k id = some x →
    (∀ b pass operand cause, meFault s1 k x = some (b, pass, operand, cause) →
      exec (.meOperationHalt core) s =
        .next (dmaRun c (scaleHalt c x cause (mePosition (meT x) (meJ x) b pass operand (tileBank x)) (setCore s1 c z)))) ∧
    (meFault s1 k x = none → (meReady k x).2.1 = .poisoned →
      exec (.meOperationHalt core) s = .next (dmaRun c (poisonHalt c x (setCore s1 c z)))) ∧
    (∀ w r i a, meFault s1 k x = none → (meReady k x).2.1 = .raw w r i a →
      exec (.meOperationHalt core) s = .next (dmaRun c (rawHalt c x w (if w then 4 else 1) r i a (setCore s1 c z)))) ∧
    ((if tileBank x = 0 then z.me.zero0 else z.me.zero1) = true ∧ z.sp = k.sp ∧ z.ops = k.ops)

/-- A halt ends the operation and raises its event once. For an operation that works for no token and writes no ring, with
room in the error queue: after a halt the core has neither the operation nor its scoreboard entries, and its registers are
as before. A poison halt of an operation that has reached no poison slot of a ring raises nothing and changes nothing
else; a raw halt leaves scratchpad and tags as they were and raises one record of class GROUP with the ring, the slot, the
rank and the address in its detail words. (spec/07; R83; R136; R228; R232; R280) -/
def Obligations.HaltedOperationLeaves : Prop :=
  ∀ (c : Nat) (s : State) (x : Op), x.tok = none → ringsWritten (getCore s c) x.id = [] →
    let k := getCore s c
    let v := windowCounts s
    ((∀ r, r < 16 → (getRing k r).reader = some x.id → ∀ q ∈ (getRing k r).slots, ¬ (q.poison = true ∧ q.state = .read)) →
      poisonHalt c x s = setCore s c (endOp k x.id) ∧ Left x.id k (getCore (poisonHalt c x s) c)) ∧
    (∀ w rank ring slot addr t, heldCount v.evt < 255 → t = rawHalt c x w rank ring slot addr s →
      (getCore t c).sp = k.sp ∧ (getCore t c).ctx0 = k.ctx0 ∧ (getCore t c).ctx1 = k.ctx1 ∧ (getCore t c).tags = k.tags ∧
      Left x.id k (getCore t c) ∧ t.evt.nextSeq = v.evt.nextSeq + 1 ∧
      ∃ r ∈ t.evt.handling.toList ++ t.evt.waiting, r.code = (if w then 0x0202 else 0x0203) ∧ r.cls = 4 ∧ r.seq = v.evt.nextSeq ∧
        r.detail.take 5 = evPrefix x.unit.toNat 0xFF 0 ++ ringDetail ring slot rank addr 0x1FFFF)

/-- The EC operation at the head of its queue runs every lane group, completes, and delivers its summary. On a core that
exists and runs, when no lane group of the EC operation at the head meets an obstacle: EC_OPERATION_COMPLETE completes,
and the operation has left or, where its output waits for slots, has its last output formed; with an output in scratchpad
or none and nothing formed before, it has left, the scratchpad holds what its stages write, and with SUM_EN the summary
word and SUM_REG of its context hold the condition bits, the number of results and the last 4-byte result; no other
register and no PC changes. Then the core's DMA engine goes on. (spec/04; R111; R129; R132; R136; R240; R241) -/
def Obligations.ElementWiseOperationRuns : Prop :=
  ∀ (core : CoreId) (s : State) (o : Op), CoreRuns core s [] →
    let c := core.toNat
    let k := ecPull (getCore s c) o
    let x := (findOp k o.id).getD o
    let r := ecRun k x (groupList (tX x.desc)).length s.fresh
    headOp (getCore s c) 1 = some o → o.ended = false → firstStop k x = none →
    EngineGoesOn (.ecOperationComplete core) core s fun t =>
      (∀ y, findOp (getCore t c) o.id = some y → y.ended = true) ∧
      ((getCore t c).ctx0.pc = (getCore s c).ctx0.pc ∧ (getCore t c).ctx1.pc = (getCore s c).ctx1.pc) ∧
      (∀ ctx i, i < 32 → ¬ (ecSumEn x = true ∧ (ecRed x.desc).isSome = true ∧ ctx = x.ctx ∧ i = ecSumReg x) →
        regOf (getCore t c) ctx i = regOf (getCore s c) ctx i) ∧
      (findOp k o.id = some x → tSrc (tO x.desc) ≠ 1 → x.part = [] → x.outBuf = [] →
        (findOp (getCore t c) o.id = none ∧ (getCore t c).sp = r.core.sp ∧
        (ecSumEn x = true → sumwOf (getCore t c) x.ctx = summaryWord r.ev (r.nanOut || r.results.any (·.2.2))
          (r.results.getLast?.map fun e =>
            if (match ecRed x.desc with | some w => redResultBytes w | none => 4) = 4 then BitVec.ofNat 32 (leNat e.1)
            else BitVec.ofNat 32 (Config.freeBits (s.fresh + 999))) r.results.length) ∧
        (∀ w e, ecSumEn x = true → ecRed x.desc = some w → redResultBytes w = 4 → r.results.getLast? = some e →
          regOf (getCore t c) x.ctx (ecSumReg x) = BitVec.ofNat 32 (leNat e.1))))

/-- The EC operation halts at its first lane group that fails, with the groups before it written. On a core that exists and
runs, when the EC operation at the head has not ended and the first lane group that cannot run fails for a block scale, a
poison slot or a raw access inside a ring, EC_OPERATION_HALT halts the operation there, after the work of the groups
before it; while it only waits, the command takes in ring input and nothing else. Then the core's DMA engine goes on.
(spec/04; R136; R228; R280; R299) -/
def Obligations.ElementWiseOperationHalts : Prop :=
  ∀ (core : CoreId) (s : State) (o : Op), CoreRuns core s [] →
    let c := core.toNat
    let k := ecPull (getCore s c) o
    let x := (findOp k o.id).getD o
    let done (i : Nat) : State := ecApply c x (ecRun k x i s.fresh) s
    let y (i : Nat) : Op := (findOp (getCore (done i) c) x.id).getD x
    headOp (getCore s c) 1 = some o → o.ended = false →
    (∀ i r g op cause, firstStop k x = some (i, r, g, .scale op cause) →
      exec (.ecOperationHalt core) s = .next (dmaRun c (scaleHalt c (y i) cause (ecPosition r g op) (done i)))) ∧
    (∀ i r g n, firstStop k x = some (i, r, g, .ready .poisoned n) →
      exec (.ecOperationHalt core) s = .next (dmaRun c (poisonHalt c (y i) (done i)))) ∧
    (∀ i r g w a b d n, firstStop k x = some (i, r, g, .ready (.raw w a b d) n) →
      exec (.ecOperationHalt core) s = .next (dmaRun c (rawHalt c (y i) w (if w then 4 else 3) a b d (done i)))) ∧
    (∀ i r g st n, firstStop k x = some (i, r, g, .ready st n) → st.halts = false →
      exec (.ecOperationHalt core) s = .next (dmaRun c (setCore s c k)))

/-- The GP operation at the head runs its positions, writes its outputs and its state, and completes. On a core that exists
and runs, when every position of the GP operation at the head can be processed: GP_OPERATION_COMPLETE completes, the
operation has left or, where ring output waits, has its last output formed, and no register or PC changes; with addressed
output and state and nothing formed before, it has left and the scratchpad holds what the run of all its positions writes,
the final states included. EXPRESS_GATE_INSERT puts a ready express operation before a running operation that is not
express, and counts the lane groups it takes. Then the core's DMA engine goes on. (spec/05; R138; R141; R143; R146; R240) -/
def Obligations.GatePipelineRuns : Prop :=
  ∀ (core : CoreId) (s : State), CoreRuns core s [] →
    let c := core.toNat
    let k0 := getCore s c
    (∀ o, headOp k0 2 = some o → o.ended = false →
      let k := gpPull k0 o
      let x := (findOp k o.id).getD o
      gpStop k x = none → EngineGoesOn (.gpOperationComplete core) core s fun t =>
        (∀ y, findOp (getCore t c) o.id = some y → y.ended = true) ∧ KeepsRegs c s t ∧
        (∀ b, findOp k o.id = some x → (gpY x.desc).ring = none → (gpH x.desc).ring = none → x.part = [] → x.outBuf = [] →
          initBytes s k x = some b → findOp (getCore t c) o.id = none ∧
          (getCore t c).sp = (gpRun k x b (Config.freeBits s.fresh) (gpL x.desc)).1.sp)) ∧
    (∀ run rest e, unitOps k0 2 = run :: rest → rest.find? (fun o => gpExpress o) = some e → gpExpress run = false → run.ended = false →
      let k := gpPull k0 e
      let x := (findOp k e.id).getD e
      gpStop k x = none → EngineGoesOn (.expressGateInsert core) core s fun t => CoreOnly c s t ∧
        (getCore t c).expressCut = k.expressCut + ceilDiv (gpD e.desc) 8 + ceilDiv (gpD e.desc * gpN e.desc) 8 ∧
        (getCore t c).sp = k.sp ∧ KeepsRegs c s t ∧
        ∃ a b, (getCore t c).ops = a ++ x :: b ∧ ∀ y ∈ a, y.id ≠ run.id ∧ y.id ≠ x.id)

/-- FILL writes its word and COPY the source bytes to the destination range, and the operation leaves. On a core that exists
and runs, with a scratchpad in canonical form: when the FILL or COPY operation named meets no ring slot that it may not
touch and, for COPY, no source line yet to be written, FILL_COPY_COMPLETE completes; every byte of the destination range
holds the little-endian byte of the fill word, or the byte of the source range as it was, every other byte of the
scratchpad is as before, the registers and PCs too, and the operation has left; then the core's DMA engine goes on.
(spec/07; R211; R212; R228; R232; R365) -/
def Obligations.FillAndCopyWriteTheirRange : Prop :=
  ∀ (core : CoreId) (id : BitVec 4) (s : State) (o : Op), CoreRuns core s [] →
    let c := core.toNat
    let k := getCore s c
    let n := fcLen o.desc
    Memory.wf k.sp → findOp k id.toNat = some o → (o.unit = 5 ∨ o.unit = 6) → n % 4 = 0 → 0 < n →
    rawViolation k false true (fcDst o.desc) n = none →
    (o.unit = 6 → opBlocked k o.id (fcSrc o.desc) n = false ∧ rawViolation k false false (fcSrc o.desc) n = none) →
    EngineGoesOn (.fillCopyComplete core id) core s fun t =>
      (∀ a, memGet (getCore t c).sp a = if fcDst o.desc ≤ a ∧ a < fcDst o.desc + n then
          (if o.unit = 6 then memGet k.sp (fcSrc o.desc + (a - fcDst o.desc))
           else BitVec.ofNat 8 ((nth o.desc 3).toNat / 256 ^ ((a - fcDst o.desc) % 4)))
        else memGet k.sp a) ∧
      findOp (getCore t c) id.toNat = none ∧ KeepsRegs c s t ∧ ∀ d, d ≠ c → getCore t d = getCore s d

/-- An attention operation whose inputs are there computes its partials, combines them or finishes, and ends. On a core that
exists and runs, when the attention operation at the head is neither ended nor suspended and its queries or partial
records are readable and its output writable: ATTENTION_OPERATION_COMPLETE computes the shard partials, or combines or
finishes the partial records once all are there, and the operation has left or has its last output formed, with the
registers and PCs as before; while they are not all there it waits and counts input-not-ready, or fault-wait while their
writer waits at a fault; while a read has to wait it counts that cause, and while it is suspended fault-wait; an operation
whose output waits for slots goes on writing it. Then the core's DMA engine goes on. (spec/06; R187; R188; R189; R240;
R246; R276) -/
def Obligations.AttentionOperationRuns : Prop :=
  ∀ (core : CoreId) (s : State) (o : Op), CoreRuns core s [] →
    let c := core.toNat
    headOp (getCore s c) 3 = some o →
    (o.ended = false → o.suspended = none →
      let k := atInputs (getCore s c) o
      let x := (findOp k o.id).getD o
      let d := x.desc
      let s1 := setCore s c k
      ((atReady s1 k x).1 = .ok → atOp d = 0 →
        exec (.attentionOperationComplete core) s = .next (dmaRun c (runPartial c x s1)) ∧
        ∀ l, atPartials s1 c k x = .ok l → (∀ y, findOp (getCore (runPartial c x s1) c) o.id = some y → y.ended = true) ∧
          KeepsRegs c s (runPartial c x s1)) ∧
      ((atReady s1 k x).1 = .ok → atOp d ≠ 0 → (partialsIn k x).2 = none → partialsFull d (partialsIn k x).1 = true →
        exec (.attentionOperationComplete core) s = .next (dmaRun c (runCombine c x (partialsIn k x).1 s1)) ∧
        (∀ y, findOp (getCore (runCombine c x (partialsIn k x).1 s1) c) o.id = some y → y.ended = true) ∧
        KeepsRegs c s (runCombine c x (partialsIn k x).1 s1)) ∧
      ((atReady s1 k x).1 = .ok → atOp d ≠ 0 → (partialsIn k x).2 = none → partialsFull d (partialsIn k x).1 = false →
        ((atIn d).ring.bind (poisonAt x)).isSome = false →
        exec (.attentionOperationComplete core) s = .next (dmaRun c (setCore s1 c (countStall
          (if (((atIn d).ring.bind fun r => (getRing k r).writer).toList.any (opSuspended k)) = true then 5 else 0) 1 k)))) ∧
      (∀ r cause, atReady s1 k x = (r, cause) → r ≠ .ok → r.halts = false →
        exec (.attentionOperationComplete core) s = .next (dmaRun c (setCore s1 c (countStall cause 1 k))))) ∧
    (o.ended = false → o.suspended.isSome = true →
      exec (.attentionOperationComplete core) s = .next (dmaRun c (setCore s c (countStall 5 1 (getCore s c))))) ∧
    (o.ended = true → exec (.attentionOperationComplete core) s = .next (dmaRun c (finishOp c o.id s)))

/-- A read response fills its tag's buffer, and a movement cycle puts its bytes where the transfer says. On a core that exists
and runs, for the request of a tag that reads and was sent, of an operation whose destination is no chain: a response from
another core's scratchpad leaves the bytes standing there in the tag's buffer, one from device memory the bytes of the
place that the address translates to, with the scratchpad as before; an address that does not translate keeps the request
for its operation and frees the tag. Then the engine goes on: the oldest buffer that holds data is next, and its bytes go
to the request's destination in the scratchpad and nowhere else, which frees the tag. Rows that complete here:
DMA_RESPONSE_RETURN. (spec/08; R251; R255; R258; R276; R373) -/
def Obligations.DmaResponsesDeliver : Prop :=
  (∀ (core : CoreId) (tag : BitVec 4) (s : State) (q : DmaReq) (o : Op), CoreRuns core s [] →
    let c := core.toNat
    let s0 := modCore s c restart
    let k := getCore s0 c
    let a := (srcAt k o q.idx).toNat
    let buffered (bs : List Byte) (p : Bool) (u : State) : Prop := (getCore u c).reqs =
      k.reqs.filter (fun r => decide (r.tag ≠ q.tag)) ++ [{ q with data := bs, poison := p, state := .returned }]
    findReq k tag.toNat = some q → findOp k q.op = some o → q.isWrite = false → q.state = .sent →
    (dSrc o.desc = 3 → dDst o.desc ≠ 4 → EngineGoesOn (.dmaResponseReturn core tag) core s fun u =>
      buffered (spRead (getCore s0 (spCore (dSrcAddr o.desc))) a q.len)
        (spPoisoned (getCore s0 (spCore (dSrcAddr o.desc))) a q.len) u ∧ (getCore u c).sp = k.sp ∧ KeepsRegs c s u) ∧
    (∀ pl s1, dSrc o.desc = 0 → dDst o.desc ≠ 4 → dieTranslate (coreDie s0 c) a false s0 = (.ok pl, s1) →
      EngineGoesOn (.dmaResponseReturn core tag) core s fun u =>
        buffered (readPlace s1 pl q.len).1 (readPlace s1 pl q.len).2 u ∧ (getCore u c).sp = k.sp ∧ KeepsRegs c s u) ∧
    (∀ kind s1, dSrc o.desc = 0 → o.undone = [] → dieTranslate (coreDie s0 c) a false s0 = (.error kind, s1) →
      exec (.dmaResponseReturn core tag) s = .next (dmaRun c (settleDma c q.op (faultReq c q kind a false s1))) ∧
      TagFreed tag.toNat k (getCore (faultReq c q kind a false s1) c) ∧
      ∃ y, findOp (getCore (faultReq c q kind a false s1) c) q.op = some y ∧ y.undone = [(q.idx, kind, a, false)])) ∧
  (∀ (c : Nat) (s : State) (q : DmaReq) (o : Op),
    let k := getCore s c
    (k.reqs.find? fun q => decide (q.state = .returned)) = some q → findOp k q.op = some o → o.halting = none → o.undone = [] →
    dDst o.desc = 1 → rawViolation k false true (dstAt k o q.idx).toNat q.data.length = none → Memory.wf k.sp →
    ∃ u, dmaStep c s = .ok u ∧ TagFreed q.tag k (getCore u c) ∧ KeepsRegs c s u ∧
      ∀ x, memGet (getCore u c).sp x = if (dstAt k o q.idx).toNat ≤ x ∧ x < (dstAt k o q.idx).toNat + q.data.length
        then q.data.getD (x - (dstAt k o q.idx).toNat) 0 else memGet k.sp x)

/-- A DMA operation with every request delivered leaves the core and ends its grant if asked. On a core that exists and runs,
when the DMA operation named has sent every request, holds no tag, and has no fault, halt or poison slot open:
DMA_OPERATION_COMPLETE frees its id, its scoreboard entries and its rings; with GRANT_END its grant is given up; and the
engine goes on. (spec/08; R232; R253; R256; R263) -/
def Obligations.DmaOperationsEnd : Prop :=
  ∀ (core : CoreId) (id : BitVec 4) (s : State) (o : Op), CoreRuns core s [] →
    let c := core.toNat
    let k := getCore s c
    findOp k id.toNat = some o → o.unit = 4 → nextPos o = none → o.undone = [] → o.halting = none → o.owed = [] → o.suspended = none →
    (∀ q ∈ k.reqs, q.op ≠ o.id) → EngineGoesOn (.dmaOperationComplete core id) core s fun u =>
      Left o.id k (getCore u c) ∧ (getCore u c).reqs = k.reqs ∧ KeepsRegs c s u ∧
      (dGrantEnd o.desc = true → ∀ g ∈ (getCore u c).grantsIn, ¬ (g.dst.toNat = spCore (dDstAddr o.desc) ∧ g.num = dGrant o.desc)) ∧
      (dGrantEnd o.desc = false → (getCore u c).grantsIn = k.grantsIn)

/-- The oldest full slot of a ring commits with its tag, the oldest read slot is released and HEAD follows. On a core that
exists and runs: RING_SLOT_COMMIT commits the oldest slot whose last byte is written, under its tag, where that is not the
number of a FAULTED stream; RING_SLOT_RELEASE frees a slot at HEAD that its consumer has read and no taken token matched,
in a ring that no cross route drains, counts its bytes in the ring's open window, and HEAD advances by one with its wrap;
then the engines and what is owed to other packages go on. RING_DRY_WINDOW_END puts device time to the end of the 3,200 ns
window that is open, makes the bytes released in it the ring's B and starts a new count. (spec/07; R220; R221; R222; R223;
R268) -/
def Obligations.RingSlotsCommitAndRelease : Prop :=
  ∀ (core : CoreId) (ring : BitVec 4) (s : State), CoreRuns core s [] →
    let c := core.toNat
    let r := ring.toNat
    let k := getCore s c
    let x := getRing k r
    (∀ q, x.slots.find? (fun q => decide (q.state = .full)) = some q → findSlot x q.idx = some q →
      ¬ (q.tag.toNat < 4096 ∧ (getStream s q.tag.toNat).state = .faulted) →
      EngineGoesOn (.ringSlotCommit core ring) core s fun u => CoreOnly c s u ∧
        findSlot (getRing (getCore u c) r) q.idx = some { q with state := .committed } ∧
        tagAt (getCore u c) (slotAddr x q.idx) = q.tag ∧ (getCore u c).sp = k.sp ∧ KeepsRegs c s u) ∧
    (∀ q rest, x.slots = q :: rest → q.state = .read → (∀ p ∈ rest, p.idx ≠ q.idx) → (∀ p, rest.head? = some p → p.state ≠ .released) →
      q.srcCore = none → q.chain = none → q.route = none → x.poisonDue = none → x.dueSlots = [] → k.taken = [] → routeOfRing s k r = none →
      ∃ u, exec (.ringSlotRelease core ring) s = .next (flushCascade (dmaRun c u)) ∧ CoreAndDraws c s u ∧
        (getRing (getCore u c) r).slots = rest ∧
        (getRing (getCore u c) r).windowBytes = (rollWindow (now s) x).windowBytes + slotBytes x ∧
        (getRing (getCore u c) r).head.toNat = (x.head.toNat + x.nslots.toNat * (if x.headWrap then 1 else 0) + 1) %
          (2 * x.nslots.toNat) % x.nslots.toNat % 4096 ∧ (getCore u c).sp = k.sp) ∧
    (∀ e, routeOfRing s k r = some e →
      exec (.ringSlotRelease core ring) s = .next (flushCascade (gatewayTakes c r k e.1 e.2 s))) ∧
    (let v := advanceTo s ((now s / 3200 + 1) * 3200)
     let z := getRing (getCore v c) r
     (now s + 3200 < 2 ^ 64 → now v = (now s / 3200 + 1) * 3200) ∧
     Completes (.ringDryWindowEnd core ring) s fun t => CoreOnly c v t ∧ getCore t c = setRing (getCore v c) r (rollWindow (now v) z) ∧
      (z.window + 1 = now v / 3200 → (rollWindow (now v) z).lastBytes = z.windowBytes ∧ (rollWindow (now v) z).windowBytes = 0))

/-- A forwarded or chained slot enters its ring with its tag, and a chain slot goes on to the next member. On a core that
exists and runs, when the slot message to a ring that its arbiter grants arrives, the ring is enabled and has a free slot,
and its tag is not the number of a FAULTED stream: the slot's bytes stand in the scratchpad at its address, it is
committed with the message's tag and poison, and remembers where its credit returns; a chain slot is passed on to the next
member; when the ring has no free slot or is disabled, RING_OVERRUN is raised instead. Then the engine goes on.
ARBITER_STARVED marks a source that 32 grants of its core have passed over, so that it is served first, and no other. Rows
that complete here: RING_FORWARD_ARRIVAL, CHAIN_SLOT_ARRIVAL, ARBITER_STARVED. (spec/08; R225; R226; R270; R273; R275) -/
def Obligations.SlotsArriveAtRings : Prop :=
  (∀ (core src : CoreId) (ring sr : BitVec 4) (s s1 : State) (tag : Half) (bs : List Byte) (p bad : Bool) (dry : BitVec 24),
    CoreRuns core s [] →
    let c := core.toNat
    let r := ring.toNat
    let k := getCore s c
    let x := getRing k r
    let i := (x.head.toNat + x.slots.length) % max 1 x.nslots.toNat
    grantMsg c (fun m => match m with | .slot _ _ _ r .. => decide (r = ring) | _ => false) s =
      some (.slot src core sr ring tag bs p bad dry, s1) →
    (x.en = true → nextFree x = some i → bs.length = slotBytes x → (∀ q ∈ x.slots, q.idx ≠ i) → Memory.wf k.sp →
      ¬ (tag.toNat < 4096 ∧ (getStream s tag.toNat).state = .faulted) →
      EngineGoesOn (.ringForwardArrival core ring) core s fun u => u.mesh = s1.mesh ∧
        findSlot (getRing (getCore u c) r) i =
          some { Slot.init with idx := i, state := .committed, tag := tag, poison := bad, srcCore := some (src, sr) } ∧
        (∀ a, memGet (getCore u c).sp a = if slotAddr x i ≤ a ∧ a < slotAddr x i + slotBytes x then bs.getD (a - slotAddr x i) 0
          else memGet k.sp a) ∧ tagAt (getCore u c) (slotAddr x i) = tag ∧ KeepsRegs c s u) ∧
    (x.en = false ∨ nextFree x = none → exec (.ringForwardArrival core ring) s = .next (dmaRun c
      (modCore (raise 0x0202 noStream core (evPrefix 4 0xFF 0 ++ ringDetail r i 8 (slotAddr x i) src.toNat) s1)
        src.toNat (slotLanded (16 + sr.toNat)))))) ∧
  (∀ (core src : CoreId) (ring : BitVec 4) (s s1 : State) (tag : Half) (bs : List Byte) (p bad : Bool) (op m : Nat)
      (more : List (BitVec 17 × BitVec 4)) (dry : BitVec 24), CoreRuns core s [] →
    let c := core.toNat
    let x := getRing (getCore s c) ring.toNat
    let i := (x.head.toNat + x.slots.length) % max 1 x.nslots.toNat
    grantMsg c (fun m => match m with | .chain _ _ r .. => decide (r = ring) | _ => false) s =
      some (.chain src core ring tag bs p bad op m more dry, s1) → x.en = true → nextFree x = some i → (∀ q ∈ x.slots, q.idx ≠ i) →
    ¬ (tag.toNat < 4096 ∧ (getStream s tag.toNat).state = .faulted) →
      EngineGoesOn (.chainSlotArrival core ring) core s fun u =>
        u.mesh = s1.mesh ++ (match more with | [] => [] | n :: l => [Msg.chain src n.1 n.2 tag bs p bad op (m + 1) l dry]) ∧
        findSlot (getRing (getCore u c) ring.toNat) i =
          some { Slot.init with idx := i, state := .committed, tag := tag, poison := bad, chain := some (src, op, m) } ∧
        KeepsRegs c s u) ∧
  ∀ (core source : CoreId) (s : State),
    let e := (core.toNat, source.toNat)
    Completes (.arbiterStarved core source) s fun t => t = { s with starvedArb := t.starvedArb } ∧
      (32 ≤ passCount s core.toNat source.toNat → e ∈ t.starvedArb ∧ ∀ x ∈ t.starvedArb, x = e ∨ x ∈ s.starvedArb) ∧
      (passCount s core.toNat source.toNat < 32 → t = s)

/-- A full KV page goes to a free frame of its pool, or the flush halts with a page fault. On a core that exists and runs and
owns the (layer, head) of a stream, when a chunk has filled a page of a context that is not flushed yet, the flush is not
halted and the page is none of the live context beyond its directory: KV_FLUSH with a free descriptor and frame writes the
page and its scales there, sets descriptor and directory entry, counts the page as flushed for its context, and no core
changes; without one the flush halts on a page fault of kind 5 and counts fault-wait. (spec/06; R180; R181; R182; R193;
R194) -/
def Obligations.FullPagesAreFlushed : Prop :=
  ∀ (core : CoreId) (n : StreamId) (layer head : BitVec 8) (s : State) (h : KvHead) (ch : Chunk) (w : KvSlot) (k : Nat) (g : Image) (p : ImgPool),
    CoreRuns core s [] →
    let c := core.toNat
    let a := layer.toNat
    let hd := head.toNat
    let x := getStream s n.toNat
    let t := x.r.kvTable.toNat
    readHead s t = some h → a < h.layers → hd < h.heads → kvOwner x a hd = some c → dueFlush s x t h a hd = some (ch, w, k) →
    (getCore s c).flushHalt = none → ¬ (w = .live ∧ h.cap < k + 1 - lfirstOf s t h a / pagePos h.i8) → kvPool s h.pool = some (g, p) →
    (∀ desc ds frame fs, freeDescs s g p = desc :: ds → freeFrames s g p = frame :: fs → Completes (.kvFlush core n layer head) s fun u =>
      u = flushTo c n.toNat t h g p a hd k desc frame ch.num w s ∧ u.cores = s.cores ∧
      (w = .live → tabGetD 0 (getStream u n.toNat).d.kvFlushed (256 * a + hd) = k + 1 ∧ (getStream u n.toNat).d.kvPages = true)) ∧
    (freeDescs s g p = [] ∨ freeFrames s g p = [] → Completes (.kvFlush core n layer head) s fun u =>
      (getCore u c).flushHalt = some ((joinFault 0 5 true h.pool c 16 s).1.getD 1024, n.toNat, a, hd) ∧ u.dram = s.dram)

/-- A host read that fails delivers poisoned data, and an acknowledged write has landed; each frees its tag. On a core that
exists and runs, for a request that was sent to read host memory, of an operation whose destination is no chain,
HOST_READ_ERROR completes: AER errors count one more, the tag's buffer holds poisoned data of the request's length, the
scratchpad is as before, and the engine goes on; poisoned data that a movement cycle then puts into the scratchpad poisons
the 64 B units of its destination and frees the tag. On a core that exists and runs, for a write request of a tag whose
operation has met no fault and waits for no other request: one that has landed in another core's scratchpad only frees its
tag; one to device memory outside the stream's state block and outside another package's result writes its bytes at the
place its address translates to and frees its tag; one that the MMU refuses is kept for its operation and frees its tag.
Then the engine goes on. Rows that complete here: HOST_READ_ERROR, DMA_WRITE_ACK. (spec/08; spec/11; R251; R255; R256;
R261; R276; R365; R366; R383) -/
def Obligations.HostReadErrorsAndWriteAcknowledgements : Prop :=
  (∀ (core : CoreId) (tag : BitVec 4) (s : State) (q : DmaReq) (o : Op), CoreRuns core s [] →
      let c := core.toNat
      let s0 := modCore s c restart
      let k := getCore s0 c
      let a := (srcAt k o q.idx).toNat
      findReq k tag.toNat = some q → findOp k q.op = some o → q.isWrite = false → q.state = .sent →
      ∀ pl s1, pl.1 = true → dSrc o.desc = 0 → dDst o.desc ≠ 4 → dieTranslate (coreDie s0 c) a false s0 = (.ok pl, s1) →
      EngineGoesOn (.hostReadError core tag) core s fun u => u.hub.aerErrors = s.hub.aerErrors + 1 ∧ (getCore u c).sp = k.sp ∧
        KeepsRegs c s u ∧ ∃ bs, bs.length = q.len ∧ (getCore u c).reqs =
          k.reqs.filter (fun r => decide (r.tag ≠ q.tag)) ++ [{ q with data := bs, poison := true, state := .returned }]) ∧
  (∀ (c : Nat) (s : State) (q : DmaReq) (o : Op),
      let k := getCore s c
      (k.reqs.find? fun q => decide (q.state = .returned)) = some q → findOp k q.op = some o → o.halting = none → o.undone = [] →
      dDst o.desc = 1 → rawViolation k false true (dstAt k o q.idx).toNat q.data.length = none → q.poison = true → q.data ≠ [] →
      ∃ u, dmaStep c s = .ok u ∧ TagFreed q.tag k (getCore u c) ∧
        spPoisoned (getCore u c) (dstAt k o q.idx).toNat q.data.length = true) ∧
  (∀ (core : CoreId) (tag : BitVec 4) (s : State) (q : DmaReq) (o : Op), CoreRuns core s [] →
      let c := core.toNat
      let k := getCore s c
      let a := (dstAt k o q.idx).toNat
      findReq k tag.toNat = some q → q.op < 16 → findOp k q.op = some o → q.isWrite = true → o.halting = none → o.undone = [] →
      (dDst o.desc = 3 → q.state = .landed → EngineGoesOn (.dmaWriteAck core tag) core s fun u =>
        CoreOnly c s u ∧ TagFreed tag.toNat k (getCore u c) ∧ (getCore u c).sp = k.sp ∧ KeepsRegs c s u) ∧
      (∀ pl s1, dDst o.desc = 0 → farWrite o a q.data s = none → dieTranslate (coreDie s c) a true s = (.ok pl, s1) →
        inStateBlock s o a = false → EngineGoesOn (.dmaWriteAck core tag) core s fun u => TagFreed tag.toNat k (getCore u c) ∧
          u.dram = (writePlace s1 pl q.data q.poison).dram ∧ u.hostMem = (writePlace s1 pl q.data q.poison).hostMem) ∧
      (∀ kind s1, dDst o.desc = 0 → farWrite o a q.data s = none → dieTranslate (coreDie s c) a true s = (.error kind, s1) →
        let u := faultReq c q kind a true s1
        exec (.dmaWriteAck core tag) s = .next (dmaRun c (settleDma c q.op (modCore u c fun k => freeReads k q.op))) ∧
        TagFreed tag.toNat k (getCore u c) ∧ ∃ y, findOp (getCore u c) q.op = some y ∧ y.undone = [(q.idx, kind, a, true)]))

/-- Reset pins, power-good and the function level reset leave what the spec says. SYS_RST_N and PERST_N bring every state: the
streams, cores, DRAM contents, queues, events and registers to their reset values, keep the NVM copies, the one-time-
programmable slots, the modules' records and host memory, and hold the device in reset. POWER_GOOD, where the device was
off, held up or tripped, leaves the same state out of reset with power good. A function level reset of a ready device in
D0 disables all queues, drops held completions and commands in progress, leaves every stream FREE, and enters RECOVERY in
a degraded start, else SERVICE; in D3hot it is kept for the resume. Rows that complete here: SYS_RST_N_ASSERT,
PERST_N_ASSERT, FUNCTION_LEVEL_RESET, POWER_GOOD. (spec/12; spec/17; R382; R490; R496) -/
def Obligations.ResetsAndFunctionLevelReset : Prop :=
  (∀ (s : State) (i : Instr), i = .sysRstNAssert ∨ i = .perstNAssert → Completes i s fun t =>
    t.hub.resetLow = true ∧ t.hub.powerGood = s.hub.powerGood ∧ t.streams = [] ∧ t.cores = [] ∧ t.dram = [] ∧ t.mesh = [] ∧
    t.que = Que.init ∧ t.evt = Evt.init ∧ t.cfg.cur = none ∧ t.clk = State.reset.clk ∧ t.mmu = State.reset.mmu ∧ t.cas = State.reset.cas ∧
    t.jnl.copy0 = s.jnl.copy0 ∧ t.jnl.copy1 = s.jnl.copy1 ∧ t.bay.copy0 = s.bay.copy0 ∧ t.bay.copy1 = s.bay.copy1 ∧
    t.sec.slots = s.sec.slots ∧ t.sec.fwFloor = s.sec.fwFloor ∧ t.hostMem = s.hostMem ∧ t.pending = s.pending ∧
    ∀ m : Nat, m < 4 → (getLaser t m).present = (getLaser s m).present ∧ (getLaser t m).moduleRecord = (getLaser s m).moduleRecord) ∧
  (∀ s : State, ¬ (s.hub.powerGood = true ∧ s.hub.holdUp = false ∧ s.hub.thermTripN = true) → Completes .powerGood s fun t =>
    t.hub.powerGood = true ∧ t.hub.resetLow = State.reset.hub.resetLow ∧ t.hub.holdUp = false ∧ t.hub.thermTripN = true ∧ t.streams = [] ∧
    t.cores = [] ∧ t.dram = [] ∧ t.que = Que.init ∧ t.evt = Evt.init ∧ t.jnl.copy0 = s.jnl.copy0 ∧ t.bay.copy0 = s.bay.copy0 ∧ t.hostMem = s.hostMem) ∧
  (∀ s : State, s.hub.linkUp = true → s.hub.resetLow = false → agentsOn s = true → s.hub.ready = true →
    (s.pwr.hot = false → s.pwr.resuming = false → Completes .functionLevelReset s fun t =>
      t.que.evEn = false ∧ (∀ n, n < 4 → (getQ t n).cmdEn = false ∧ (getQ t n).cplEn = false ∧ (getQ t n).held = [] ∧
        (getQ t n).cmdBase = (getQ s n).cmdBase) ∧
      t.long = [] ∧ t.waitCmds = [] ∧ t.waitState = [] ∧ (∀ e ∈ t.streams, e.2.state = .free) ∧
      t.hub.phase = (if s.hub.degraded then .recovery else .service) ∧ t.sec.scope = 0) ∧
    (s.pwr.hot = true ∨ s.pwr.resuming = true → exec .functionLevelReset s = .next { s with pwr.flrDue := true }))

/-- A start runs its fourteen steps from the cold state, and ends ready, halted or waiting for its restart. A start that has
not begun does so once rails and clock are good; when no step fails it ends in step 14, ready, in RECOVERY when degraded
and else in SERVICE, with Thyme's clocks set; a step that fails leaves what that step left; with the boot ROM bad the
device is in safe halt in step 2 without firmware. AUTOMATIC_RESTART after a failed step does the same with cause 3 and
one restart more. PCIE_LINK_TRAINING 10 ms into a start trains the link, which comes up when firmware runs. Rows that
complete here: START_BEGIN, PCIE_LINK_TRAINING, AUTOMATIC_RESTART. (spec/16; R467; R468; R470; R471; R477) -/
def Obligations.StartsRunTheirSteps : Prop :=
  (∀ (env : StartEnv) (s : State) (i : Instr) (cause restarts : Nat),
    (i = .startBegin env ∧ s.boot.step = 0 ∧ cause = env.cause.toNat ∧ restarts = 0) ∨
    (i = .automaticRestart env ∧ s.boot.failedAt.isSome = true ∧ cause = 3 ∧ restarts = s.boot.restarts.toNat + 1) →
    let c := coldState s
    let b := { c with hub.powerGood := true, boot.restarts := BitVec.ofNat 4 (min 15 restarts), boot.log.cause := BitVec.ofNat 4 cause,
                      boot.log.durationMs := env.durationMs, clk.time := BitVec.ofNat 64 (1000000 * env.durationMs.toNat) }
    (∀ u, startSteps env b = .ok u → Completes i s fun t => t = step14 u ∧ t.boot.step = 14 ∧ t.hub.ready = true ∧
      t.hub.degraded = degradedStart (beginStep 14 u) ∧ t.hub.phase = (if t.hub.degraded || u.hub.groupEvent then .recovery else .service)) ∧
    (∀ u, startSteps env b = .error u → exec i s = .next u) ∧
    (env.railsOk = false ∨ env.refclkOk = false → exec i s = .next b) ∧
    (env.railsOk = true → env.refclkOk = true → env.romOk = false → Completes i s fun t =>
      t.hub.halted = true ∧ t.boot.haltedInStart = true ∧ t.boot.step = 2 ∧ t.hub.step = 1 ∧ t.hub.fwRunning = State.reset.hub.fwRunning ∧
      t.hub.ready = State.reset.hub.ready)) ∧
  (∀ s : State, s.boot.step ≠ 0 → s.hub.training = false → Completes .pcieLinkTraining s fun t =>
    t = { s with clk := t.clk, hub.training := true, hub.linkUp := s.hub.fwRunning } ∧
    t.clk = (advanceTo s (s.clk.startedAt.toNat + 10000000)).clk)

/-- A power failure runs the hold-up, D3hot powers the islands down, and D0 brings them back. PWR_FAIL_N low for 1 us or a
rail out of its limits in D0 halts the device in hold-up, ends compaction and drops queued journal transactions and
waiting records; after the pin, a Bay record that is open on a good copy has taken every buffered entry. D3hotWrite with
the link up quiesces every module, loses the cores' state and what is on the mesh, and marks a transition with work in
flight unclean; D0 answers at once and resumes; the resume ends RESUMING and runs a function level reset that was due.
SYSREF loss ends the lock; a regulator that fails keeps its voltage. Rows that complete here: PWR_FAIL_N_FALL,
RAIL_OUT_OF_LIMITS, AVS_REGULATOR_FAIL, D3HOT_WRITE, D0_WRITE, D0_RESUME_COMPLETE, SYSREF_LOSS. (spec/15; spec/17; R464;
R489; R491; R494; R495; R501) -/
def Obligations.PowerLossAndPowerStates : Prop :=
  (∀ (s : State) (lowNs : Nat), 1000 ≤ lowNs → s.hub.resetLow = false → s.hub.holdUp = false → Completes (.pwrFailNFall lowNs) s fun t =>
    t.hub.holdUp = true ∧ t.hub.halted = true ∧ t.jnl.queue = [] ∧ t.jnl.compacting = false ∧ t.bay.waitingIn = [] ∧
    t.evt.handling = none ∧ t.evt.waiting = [] ∧ t.evt.preempted = [] ∧ t.mesh = [] ∧
    (s.bay.opened = true → ¬ (s.bay.bad0 = true ∧ s.bay.bad1 = true) → t.bay.buffer = [])) ∧
  (∀ (s : State) (rail : BitVec 5), s.hub.resetLow = false → s.pwr.hot = false → s.hub.holdUp = false →
    Completes (.railOutOfLimits rail) s fun t => t.hub.holdUp = true ∧ t.hub.halted = true ∧ t.jnl.queue = [] ∧ t.bay.waitingIn = [] ∧
      t.evt.handling = none ∧ t.evt.waiting = [] ∧ t.mesh = []) ∧
  (∀ s : State, s.hub.linkUp = true → s.hub.resetLow = false → s.pwr.hot = false → agentsOn s = true → Completes .d3hotWrite s fun t =>
    t.pwr.hot = true ∧ t.cores = [] ∧ t.mesh = [] ∧ (∀ m : Nat, m < 4 → (getLaser t m).quiesced = true) ∧
    (cleanForHot s = true → t.pwr.unclean = s.pwr.unclean ∧ t.pwr.flrDue = s.pwr.flrDue) ∧
    (cleanForHot s = false → t.pwr.unclean = true ∧ t.pwr.flrDue = true ∧ t.long = [])) ∧
  (∀ s : State, s.pwr.hot = true → exec .d0Write s = .next { s with pwr.hot := false, pwr.resuming := agentsOn s }) ∧
  (∀ (s : State) (lasers : List LaserEnv), s.pwr.resuming = true → Completes (.d0ResumeComplete lasers) s fun t =>
    t.pwr.resuming = false ∧ t.pwr.flrDue = false ∧
    (s.pwr.flrDue = false → t = { powerUp lasers s with pwr.resuming := false, pwr.flrDue := false }) ∧
    (s.pwr.flrDue = true → t = { functionReset (powerUp lasers s) with pwr.resuming := false, pwr.flrDue := false })) ∧
  (∀ s : State, exec .sysrefLoss s = .next { s with clk.sysref := false }) ∧
  (∀ (s : State) (die : BitVec 4), die.toNat < 12 → agentsOn s = true → Completes (.avsRegulatorFail die) s fun t =>
    t.pwr.avsFail.getLsbD die.toNat = true ∧ vget 0 t.pwr.mv die.toNat = vget 0 s.pwr.mv die.toNat ∧
    (∀ d : Nat, d < 12 → d ≠ die.toNat → t.pwr.avsFail.getLsbD d = s.pwr.avsFail.getLsbD d) ∧
    t = { s with pwr.avsFail := t.pwr.avsFail, pwr.mv := t.pwr.mv })

/-- Remote writes land, banks become usable and are cleared where asked, and an idle island gates its clock. On a core that
exists and runs, when the first write on the mesh to it carries the bytes bs for address a, and its scratchpad is in
canonical form: REMOTE_WRITE_LAND takes it off the mesh, writes bs at a and no other byte of this scratchpad, adds to
HAZARD the lines that in-flight entries cover, ungates the island, and leaves the core's registers and the scratchpads of
all other cores as they are. On a core that exists and runs: BANK_POWER_UP makes a powered bank that is not yet usable
usable, with contents that are not stated, or to be zero-filled where its group asks; BANK_ZERO_FILL_END makes every byte
of the banks being filled 0 and no other; where no preload is due nothing else of the scratchpad changes.
BANK_REQUEST_STARVED puts the request once behind those starved before, and 16 cycles count as bank-conflict for a request
of the core's own, as remote-latency at the core that sent the first message to it for one of rank 8, where the island
that counts is not gated. ISLAND_CLOCK_GATE gates an idle island and nothing else. (spec/07; spec/17; R206; R209; R213;
R214; R234; R235; R237; R493) -/
def Obligations.RemoteWritesBanksAndClocks : Prop :=
  (
    ∀ (core : CoreId) (s : State) (src : CoreId) (a : Nat) (bs : List Byte) (p : Bool) (req : Option Nat) (rest : List Msg),
      CoreRuns core s [] → Memory.wf (getCore s core.toNat).sp →
      takeMsg (fun m => isWrite m && decide (msgDst m = core)) s.mesh = some (.write src core a bs p req, rest) →
      let c := core.toNat
      let k := getCore s c
      let lines := ((List.range ((a + bs.length - 1) / 32 - a / 32 + 1)).map (a / 32 + ·)).filter fun l => k.sb.any fun e => sbCovers e (32 * l)
      Completes (.remoteWriteLand core) s fun t => t.mesh = rest ∧
        (∀ x, memGet (getCore t c).sp x = if a ≤ x ∧ x < a + bs.length then bs.getD (x - a) 0 else memGet k.sp x) ∧
        (bs ≠ [] → (getCore t c).hazard = k.hazard + BitVec.ofNat 32 lines.length) ∧ (getCore t c).gated = false ∧
        (∀ r, getReg (getCore t c) r = getReg k r) ∧ ∀ d, d ≠ c → (getCore t d).sp = (getCore s d).sp) ∧
  (∀ (core : CoreId) (bank : BitVec 3) (rank : BitVec 4) (s : State), CoreRuns core s [] →
      let c := core.toNat
      let k := getCore s c
      let b := bank.toNat
      let zero := ((coreGroup s k (k.preloadFrom.getD k.bank)).map fun g => g.bankZero.getLsbD b).getD false
      (k.pwr.getLsbD b = true → k.usable.getLsbD b = false → k.preloadFrom = none → Completes (.bankPowerUp core bank) s fun t =>
        (getCore t c).usable.getLsbD b = true ∧ (∀ d, d < 8 → d ≠ b → (getCore t c).usable.getLsbD d = k.usable.getLsbD d) ∧
        (zero = true → (getCore t c).zeroing.getLsbD b = true) ∧
        (Memory.wf k.sp → ∀ a, ¬ (0x4000 * b ≤ a ∧ a < 0x4000 * (b + 1)) → memGet (getCore t c).sp a = memGet k.sp a) ∧
        KeepsRegs c s t ∧ ∀ d, d ≠ c → getCore t d = getCore s d) ∧
      (k.preloadFrom = none → Memory.wf k.sp → Completes (.bankZeroFillEnd core) s fun t => CoreOnly c s t ∧ (getCore t c).zeroing = 0 ∧
        (∀ a, a < 0x20000 → memGet (getCore t c).sp a = if k.zeroing.getLsbD (a / 0x4000) then 0 else memGet k.sp a) ∧ KeepsRegs c s t) ∧
      (Completes (.bankRequestStarved core bank rank) s fun t => t = { s with cores := t.cores } ∧ KeepsRegs c s t ∧
        (getCore t c).starved = k.starved.filter (fun e => decide (e ≠ (bank, rank))) ++ [(bank, rank)] ∧
        (rank ≠ 8 → (∀ d, d ≠ c → getCore t d = getCore s d) ∧ (k.gated = false → vget 0 (getCore t c).stalls 3 = vget 0 k.stalls 3 + 16)) ∧
        (rank = 8 → ∀ m, s.mesh.find? (fun m => decide (msgDst m = core)) = some m →
          let d := (msgSrc m).toNat
          (getCore s d).gated = false → vget 0 (getCore t d).stalls 4 = vget 0 (getCore s d).stalls 4 + 16)) ∧
      (islandIdle s core k = true → exec (.islandClockGate core) s = .next (setCore s c { k with gated := true })))

/-- A temperature sample is stored, warns once an episode and trips, and a stack held too hot trips. With power good and no
hold-up, TEMPERATURE_SAMPLE stores each powered die's reading, 0x8000 for a die without power, and sets the warning of a
die at or above its warning limit; a die that newly reaches its trip limit once a start has begun puts the device in safe
halt. OPERATING_MAXIMUM_HOLD_EXPIRY of a stack that has been at its limit halts the device too, no earlier than 100 ms
after the limit was met. (spec/17; R503; R504; R505; R508) -/
def Obligations.TemperaturesActOnTheDevice : Prop :=
  (∀ (s : State) (readings : List Half), s.hub.powerGood = true → s.hub.holdUp = false → Completes (.temperatureSample readings) s fun t =>
    (∀ d, d < 32 → (tempOf t d).t = (if diePowered s d then readings.getD d 0x8000 else 0x8000) ∧
      (tempOf t d).warn = ((tempOf s d).warn || atLeast (tempOf t d).t (tempLimits d).1)) ∧
    (∀ d, d < 32 → monitorOn s = true → atLeast (tempOf t d).t (tempLimits d).2.2 = true →
      atLeast (tempOf s d).t (tempLimits d).2.2 = false → t.hub.halted = true)) ∧
  (∀ (s : State) (stack : BitVec 4) (since : DWord), monitorOn s = true → stack.toNat < 12 →
    tabGet s.pwr.limitSince stack.toNat = some since → Completes (.operatingMaximumHoldExpiry stack) s fun t =>
      t.hub.halted = true ∧ tabGet t.pwr.limitSince stack.toNat = none ∧
      (since.toNat + 100000000 < 2 ^ 64 → since.toNat + 100000000 ≤ now t))

/-- The host sets, slews and rates device time and the power limit, and a write out of place is marked. While BAR0 takes
writes: PWR_TIME_SET puts device time to the value unless time follows a cascade master or the device runs work;
PWR_TIME_SLEW adds to the slew, PWR_TIME_RATE sets a rate of at most 100,000 ppb either way, unless time follows;
PWR_LIMIT_W takes 200 to 750 W, or 600 W on an MKF3072; a write that is refused only sets BAD_WRITE. Rows that complete
here: PWR_TIME_SET, PWR_TIME_SLEW, PWR_TIME_RATE, PWR_LIMIT_W_WRITE. (spec/17; R499; R501; R502; R511) -/
def Obligations.HostSetsTimeAndPowerLimit : Prop :=
  ∀ (s : State) (t : DWord) (v : Word), writesOn s = true →
    let h := { s with hub.heldLow := none }
    let bad : State := { h with pwr.badWrite := true }
    let w := v.toNat % 1024
    let most := if s.fixed.variant = 1 then 600 else 750
    (exec (.pwrTimeSet t) s = .next (if timeFollows s ∨ deviceRunning s then bad
      else { h with clk := { s.clk with time := t, frac := 0, tickAt := t, decisionAt := t, windowAt := t } })) ∧
    (exec (.pwrTimeSlew v) s = .next (if timeFollows s then bad
      else { h with clk.slewLeft := s.clk.slewLeft + v, clk.slewFrac := 0 })) ∧
    (exec (.pwrTimeRate v) s = .next (if timeFollows s ∨ v.toInt < -100000 ∨ 100000 < v.toInt then bad else { h with clk.rate := v })) ∧
    (exec (.pwrLimitWWrite v) s = .next (if 200 ≤ w ∧ w ≤ most then { h with pwr.limitW := BitVec.ofNat 10 w } else bad))

/-- Ticks, decisions and window ends come in their order, measure, admit, throttle and make figures current. While Thyme runs:
a tick with no decision due before it does the work of the tick at its multiple of 125 us; a decision with no window end
due before it stores the measured power and energy, ends the telemetry window, and numbers a telemetry write where
enabled; a window end makes the window's W and L figures current, empties the window, and ends the warning of each die
that stayed cool all window. A tick that waits for a decision, or a decision for a window end, changes nothing. Rows that
complete here: THYME_TICK, THYME_DECISION, THYME_WINDOW_END. (spec/09; spec/17; R305; R313; R314; R317; R318; R321; R497;
R517) -/
def Obligations.ThymeKeepsItsTimeScales : Prop :=
  ∀ (s : State) (d : DecisionEnv) (w : WindowEnv), thymeOn s = true →
    (decisionFirst s = true →
      let u := advanceTo s (nextMultiple s.clk.tickAt 125000)
      exec .thymeTick s = .next (flushCascade (tickWork { u with clk.tickAt := BitVec.ofNat 64 (now u / 125000 * 125000) }))) ∧
    (decisionFirst s = false → exec .thymeTick s = .next s) ∧
    (windowFirst s = true → Completes (.thymeDecision d) s fun t =>
      t.pwr.pkgMw = d.pkgMw ∧ t.pwr.energyJ = d.energyJ ∧ t.thm.posted = 0 ∧
      t.thm.telSeq = (if s.thm.telEn then s.thm.telSeq + 1 else s.thm.telSeq) ∧
      (∀ c, (getCore t c).copyHazard = 0 ∧ (getCore t c).doneCount = 0) ∧
      ∀ n, (getStream t n).c.delays = [] ∧ (getStream t n).c.hostKvBytes = 0) ∧
    (windowFirst s = false → exec (.thymeDecision d) s = .next s) ∧
    (Completes (.thymeWindowEnd w) s fun t =>
      t.thm.wMeas = newW s.thm.wMeas s.thm.wCur ∧ t.thm.lMeas = newL s.thm.lMeas s.thm.lCur ∧ t.thm.wCur = [] ∧ t.thm.lCur = [] ∧
      t.thm.calibrate = [] ∧ t.pwr.lowPower = s.pwr.lowSoFar ∧ t.pwr.lowSoFar = true ∧
      ∀ x, x < 32 → (tempOf t x).warn = ((tempOf s x).warn && (tempOf s x).wasAbove) ∧ (tempOf t x).coolWindow = !(tempOf s x).wasAbove)

/-- A raised event is queued and recorded, a handling ends with its count and response, and a DEVICE event halts. While the
management processors run: an event of class INFO to GROUP that is not folded, with room, becomes the next record, in
handling or waiting, with code, class, source and detail, and goes to the Bay writer's buffer; THERMAL_TRIP halts at once
and another DEVICE event stops releases with a grace of 1 ms; the summaries of a 1 s window that has ended come before the
event; the end of a handling counts its class and takes the next record; an entry leaves with the event queue's next
place; the end of the grace halts; summaries are raised once; EVT_INJECT raises an INFO record marked injected, in TEST
alone. Rows that complete here: EVT_INJECT, EVENT_RAISE, EVENT_HANDLING_END, EVENT_ENTRY_WRITE, DEVICE_GRACE_EXPIRY,
SUMMARY_WINDOW_END. (spec/15; R405; R443; R445; R446; R447; R448; R449; R451; R455) -/
def Obligations.EventsAreRaisedAndHandled : Prop :=
  (∀ (s : State) (code stream : Half) (core : CoreId) (detail : List Word), handlersOn s = true → code.toNat ∈ eventCodes → code ≠ 0x0903 →
    let cls := eventClass code.toNat
    let w := windowCounts s
    (cls ≤ 4 → (cls = 0 → w.evt.infoCount < 1000) → (cls = 1 → w.evt.corrCount < 1000) → heldCount w.evt < 255 →
      Completes (.eventRaise code stream core detail) s fun t => t.evt.nextSeq = w.evt.nextSeq + 1 ∧
        (∃ r ∈ t.evt.handling.toList ++ t.evt.waiting, r.code = code ∧ r.cls.toNat = cls ∧ r.injected = false ∧ r.seq = w.evt.nextSeq ∧
          r.time = s.clk.time ∧ r.stream = stream ∧ r.core = core ∧ r.detail = detail ++ List.replicate (8 - detail.length) 0 ∧
          (w.bay.buffer.length < 1024 → r ∈ t.bay.buffer)) ∧
        t.streams = s.streams ∧ (w.bay.buffer.length < 1024 → t.cores = s.cores) ∧ t.que = s.que) ∧
    (cls = 5 → Completes (.eventRaise code stream core detail) s fun t =>
      (code = 0x0902 ∨ w.evt.handling.isSome = true ∨ w.evt.preempted ≠ [] → t.hub.halted = true ∧ t.mesh = []) ∧
      (code ≠ 0x0902 → w.evt.handling = none → w.evt.preempted = [] → w.evt.graceUntil = none →
        t.evt.stopReleases = true ∧ t.evt.graceUntil = some (BitVec.ofNat 64 (now s + 1000000))))) ∧
  (∀ (s : State) (r : Record), handlersOn s = true → s.evt.handling = some r → Completes .eventHandlingEnd s fun t =>
    t.evt.handling = (nextHandling s.evt).handling ∧ t.evt.waiting = (nextHandling s.evt).waiting ∧
    (r.cls.toNat < 6 → t.evt.classCount = vmod 0 s.evt.classCount r.cls.toNat fun w => satAdd w 1) ∧
    (r.cls = 4 → s.hub.phase ≠ .start → t.hub.phase = .recovery) ∧ (s.pwr.hot = true → t.evt.handled = s.evt.handled ++ [r])) ∧
  (∀ (s : State) (r : Record) (rest : List Record), handlersOn s = true → s.pwr.hot = false → s.evt.handled = r :: rest →
    s.que.evEn = true → evqRoom s.que = true → Completes .eventEntryWrite s fun t =>
      t.evt.handled = rest ∧ t.que.evTail = BitVec.ofNat 14 ((s.que.evTail.toNat + 1) % 2 ^ s.que.evSize.toNat) ∧ t.evt.seq = r.seq) ∧
  (∀ (s : State) (g : DWord), agentsOn s = true → s.evt.graceUntil = some g → Completes .deviceGraceExpiry s fun t =>
    t.hub.halted = true ∧ t.evt.graceUntil = none ∧ t.mesh = []) ∧
  (∀ s : State, handlersOn s = true → s.evt.summarised ≠ [] → Completes .summaryWindowEnd s fun t => t.evt.summarised = [] ∧
    (heldCount s.evt + s.evt.summarised.length ≤ 255 → t.evt.nextSeq = s.evt.nextSeq + BitVec.ofNat 32 s.evt.summarised.length)) ∧
  (∀ (s : State) (v : Word), writesOn s = true →
    (s.hub.phase = .test → (windowCounts s).evt.infoCount < 1000 → heldCount (windowCounts s).evt < 255 → Completes (.evtInject v) s fun t =>
      ∃ r ∈ t.evt.handling.toList ++ t.evt.waiting, r.code = v.extractLsb' 0 16 ∧ r.cls = 0 ∧ r.injected = true ∧
        r.seq = (windowCounts s).evt.nextSeq) ∧
    (s.hub.phase ≠ .test → exec (.evtInject v) s = .next { s with hub.heldLow := none }))

/-- The Bay record takes its entries in order, answers reads by index, and the journal commits its transactions.
BAY_ENTRY_WRITE writes the oldest buffered record to each good copy at the next index and counts on; the entry of a
THERMAL_TRIP pulls THERM_TRIP_N low. The two read indices fetch a valid entry, ND0 first, for BAR0 and for the management
bus; before firmware runs the head is found once. JOURNAL_COMMIT appends the oldest transaction to both good copies;
COMPACTION_SWITCH makes the compacted half the journal's. Rows that complete here: BAY_ENTRY_WRITE, BBX_READ_INDEX_WRITE,
MGMT_BAY_INDEX_WRITE, MGMT_HEAD_SEARCH, JOURNAL_COMMIT, COMPACTION_SWITCH. (spec/15; R452; R453; R454; R456; R460; R462;
R505) -/
def Obligations.NvmEntriesAreWrittenAndRead : Prop :=
  (∀ (s : State) (ok0 ok1 : Bool) (r : Record) (rest : List Record), s.bay.opened = true → s.hub.holdUp = false → s.hub.resetLow = false →
    s.bay.buffer = r :: rest → (s.bay.bad0 = false ∧ ok0 = true) ∨ (s.bay.bad1 = false ∧ ok1 = true) →
    let i := s.bay.nextSeq.toNat % 1048576
    Completes (.bayEntryWrite ok0 ok1) s fun t => t.bay.nextSeq = s.bay.nextSeq + 1 ∧ t.bay.seq = s.bay.nextSeq ∧
      t.bay.head = BitVec.ofNat 20 (i + 1) ∧
      (s.bay.bad0 = false → ok0 = true → tabGet t.bay.copy0 i = some (bayWords r s.bay.nextSeq)) ∧
      (s.bay.bad1 = false → ok1 = true → tabGet t.bay.copy1 i = some (bayWords r s.bay.nextSeq)) ∧
      (s.bay.bad0 = true ∨ ok0 = false → t.bay.copy0 = s.bay.copy0 ∧ t.bay.bad0 = true) ∧
      (ok0 = true → ok1 = true → s.bay.waitingIn = [] → t.bay.buffer = rest) ∧
      (r.code = 0x0902 → r.injected = false → t.hub.thermTripN = false)) ∧
  (∀ (s : State) (v : Word), hostOn s = true → exec (.bbxReadIndexWrite v) s =
    .next (let p := bayRead (v.toNat % 1048576) s.bay
           { s with hub.heldLow := none, bay.readIndex := v.extractLsb' 0 20, bay.readValid := p.1, bay.readCopy := p.2.1, bay.readData := p.2.2 })) ∧
  (∀ (s : State) (v : Word), s.hub.powerGood = true → s.hub.resetLow = false → exec (.mgmtBayIndexWrite v) s =
    .next (let p := bayRead (v.toNat % 1048576) s.bay
           { s with bay.mgmtIndex := v.extractLsb' 0 20, bay.mgmtValid := p.1, bay.mgmtCopy := p.2.1, bay.mgmtData := p.2.2 })) ∧
  (∀ s : State, s.hub.powerGood = true → s.hub.resetLow = false → s.hub.fwRunning = false → s.bay.mgmtHead = none →
    Completes .mgmtHeadSearch s fun t => t = { s with bay.mgmtHead := t.bay.mgmtHead } ∧
      (bayHeads s.bay = none → t.bay.mgmtHead = some (0, 0)) ∧
      ∀ i q, bayHeads s.bay = some (i, q) → t.bay.mgmtHead = some (BitVec.ofNat 20 (i + 1), q)) ∧
  (∀ (s : State) (x : Txn) (rest : List Txn), agentsOn s = true → s.jnl.mounted = true → s.jnl.queue = x :: rest → s.jnl.bad0 = false →
    s.jnl.bad1 = false → ¬ (s.jnl.compacting = true ∧ 128 * 1048576 < s.jnl.fill.toNat + txnBytes x) → s.waitCmds = [] → s.waitState = [] →
    Completes (.journalCommit true true) s fun t => t.jnl.queue = rest ∧ t.jnl.copy0 = s.jnl.copy0 ++ [x] ∧ t.jnl.copy1 = s.jnl.copy1 ++ [x] ∧
      t.jnl.seq = x.seq ∧ t.jnl.fill = BitVec.ofNat 28 (s.jnl.fill.toNat + txnBytes x)) ∧
  (∀ s : State, agentsOn s = true → s.jnl.mounted = true → s.jnl.compacting = true → s.waitCmds = [] → s.waitState = [] →
    Completes .compactionSwitch s fun t => t.jnl = (switchHalves s).jnl ∧ t.jnl.compacting = false ∧ t.jnl.gen = s.jnl.gen + 1 ∧
      (∀ l, longOf s 0x39 = some l → t.long = s.long.filter fun m => decide (m.slot ≠ l.slot)))

/-- start, pause, resume, end and abort act on a stream as Table 9.6 says, and are rejected elsewhere. While BAR0 takes
writes, for a write of STE_CTRL that its stream accepts and no command in progress names (a pause, end or abort of one
that a command names waits for it): start of an IDLE or ENDED stream whose checks pass makes it STARTING on its rings as
read, a failed check keeps its state and sets its cause; pause of a RUNNING stream waits for the chunks in flight, or
takes hold at once; resume ends a pending pause; end makes a RUNNING or PAUSED stream ENDING, unless its input was
overwritten; abort frees the entry, or waits for the chunks in flight. A write that the state does not accept changes no
entry and raises CFG_REJECT. Rows that complete here: STREAM_START, STREAM_PAUSE, STREAM_RESUME, STREAM_END, STREAM_ABORT.
(spec/09 Table 9.6; R282; R293; R294; R295; R296; R297; R390) -/
def Obligations.StreamsObeyTheirCommands : Prop :=
  ∀ (n : StreamId) (ctrl : Word) (s : State), writesOn s = true →
    let x := getStream s n.toNat
    let h : State := { s with hub.heldLow := none }
    (∀ (v : Word) (k : Nat) (i : Instr), (k, i) ∈ [(2, Instr.streamPause n ctrl), (4, .streamEnd n ctrl), (5, .streamAbort n ctrl)] →
      v = withCmd k ctrl → ctrlAllowed v x → cmdAccepted x.state k (v.getLsbD 3) = true → streamBusy s n.toNat = true →
      exec i s = .next { setStream h n.toNat { x with r := ctrlFields v x.r } with waitState := s.waitState ++ [(n, v)] }) ∧
    (streamBusy s n.toNat = false →
    (∀ v, v = withCmd 1 ctrl → ctrlAllowed v x → x.state = .idle ∨ x.state = .ended →
      let y : Stream := { x with r := ctrlFields v x.r }
      let u := setStream h n.toNat y
      (∀ bi bo, startChecks u n.toNat y = (0, some (bi, bo)) → Completes (.streamStart n ctrl) s fun t =>
        (getStream t n.toNat).state = .starting ∧ (getStream t n.toNat).r = { y.r with overrun := false } ∧
        (getStream t n.toNat).d.inR = ringOfDesc bi ∧ (getStream t n.toNat).d.outR = ringOfDesc bo ∧
        (getStream t n.toNat).d.rdIdx = natAt bi 24 8 ∧ (getStream t n.toNat).d.chunks = [] ∧
        ∀ m, m ≠ n.toNat → getStream t m = getStream s m) ∧
      (∀ cause o, cause ≠ 0 → startChecks u n.toNat y = (cause, o) → Completes (.streamStart n ctrl) s fun t =>
        (getStream t n.toNat).state = x.state ∧ (getStream t n.toNat).r = { y.r with cause := BitVec.ofNat 8 cause })) ∧
    (∀ v, v = withCmd 2 ctrl → ctrlAllowed v x → x.state = .running → x.d.abortPend = false → Completes (.streamPause n ctrl) s fun t =>
      (getStream t n.toNat).r = ctrlFields v x.r ∧
      (inFlight x = true → (getStream t n.toNat).state = .running ∧ (getStream t n.toNat).d.pausePend = true) ∧
      (inFlight x = false → (getStream t n.toNat).state = .paused ∧ (getStream t n.toNat).d.pausePend = false)) ∧
    (∀ v, v = withCmd 3 ctrl → ctrlAllowed v x → x.d.abortPend = false →
      (x.state = .running → Completes (.streamResume n ctrl) s fun t =>
        (getStream t n.toNat).state = .running ∧ (getStream t n.toNat).d.pausePend = false ∧ (getStream t n.toNat).r = ctrlFields v x.r) ∧
      (x.state = .paused → Completes (.streamResume n ctrl) s fun t =>
        t = enterRunning n.toNat (setStream h n.toNat { x with r := ctrlFields v x.r }) ∧
        ((getStream t n.toNat).state = .running ∨ (getStream t n.toNat).state = .ending ∨ (getStream t n.toNat).state = .faulted))) ∧
    (∀ v, v = withCmd 4 ctrl → ctrlAllowed v x → x.d.abortPend = false → x.state = .running ∨ x.state = .paused →
      Completes (.streamEnd n ctrl) s fun t => (getStream t n.toNat).state = .ending ∨ (getStream t n.toNat).state = .faulted) ∧
    (∀ v, v = withCmd 5 ctrl → ctrlAllowed v x → x.d.abortPend = false → x.state ≠ .free → Completes (.streamAbort n ctrl) s fun t =>
      (inFlight x = true ∧ (x.state = .running ∨ x.state = .ending ∨ x.state = .faulted) →
        (getStream t n.toNat).state = x.state ∧ (getStream t n.toNat).d.abortPend = true) ∧
      (inFlight x = false ∨ x.state = .idle ∨ x.state = .starting ∨ x.state = .paused ∨ x.state = .ended →
        (getStream t n.toNat).state = .free ∧ (getStream t n.toNat).d.chunks = [])) ∧
    (∀ (v : Word) (k : Nat) (i : Instr), (k, i) ∈ [(1, Instr.streamStart n ctrl), (2, .streamPause n ctrl), (3, .streamResume n ctrl),
        (4, .streamEnd n ctrl), (5, .streamAbort n ctrl)] → v = withCmd k ctrl → cmdAccepted x.state k (v.getLsbD 3) = false →
      Completes i s fun t => t.streams = s.streams ∧ t.cfg.reject = 0x0D))

/-- Pauses and aborts take hold, chunks are released with their tokens, results are posted in order. With the hub's agents
running: PAUSE_COMPLETE and ABORT_COMPLETE end what was pending on a stream with nothing in flight; CHUNK_RELEASE of a
stream with a free output slot and free token places releases its next chunk; RESULT_POST posts the first complete chunk:
the entry's index advances, the chunk leaves, and CHUNKS_DONE counts it unless it faulted; a pending re-read of WR_IDX
shows new frames or finds overwritten input; one of RD_IDX is taken, or is out of range and faults with cause 0x16; a
doorbell of a stream that observes its rings is pending once. Rows that complete here: PAUSE_COMPLETE, ABORT_COMPLETE,
INPUT_WR_IDX_READ, OUTPUT_RD_IDX_READ, CHUNK_RELEASE, RESULT_POST, STREAM_DB_IN, STREAM_DB_OUT. (spec/09; R22; R286; R289;
R290; R292; R295; R297; R298; R302; R304; R403) -/
def Obligations.StreamWorkGoesOn : Prop :=
  ∀ (n : StreamId) (s : State), let x := getStream s n.toNat
    (agentsOn s = true → x.d.pausePend = true → inFlight x = false → x.state = .running →
      exec (.pauseComplete n) s = .next (setStream s n.toNat { x with state := .paused, d.pausePend := false })) ∧
    (agentsOn s = true → x.d.abortPend = true → inFlight x = false → exec (.abortComplete n) s = .next (commitIfDone (freeEntry n.toNat s)) ∧
      (getStream (freeEntry n.toNat s) n.toNat).state = .free ∧ (getStream (freeEntry n.toNat s) n.toNat).d.chunks = []) ∧
    (∀ (first ch : Chunk) (g : Image) (tm : ImgTemplate) (r : ImgReplica), nextDue s x = some first →
      let v := expressFirst n.toNat (advanceTo s (dueAt x first))
      let y := getStream v n.toNat
      mayRelease v y = true → nextToRelease y = some ch → outFree y = true → chunksOut y < 64 → ∀ u, releaseEpoch n.toNat (endHoldOut n.toNat v) = some u →
      imageAt u (getStream u n.toNat).d.epoch = some g → templateIn g (getStream u n.toNat).r.model.toNat = some tm →
      replicaIn g (getStream u n.toNat).r.model.toNat (getStream u n.toNat).d.replica.toNat = some r → tokensFull u g r (getStream u n.toNat) = false →
      ∃ w, exec (.chunkRelease n) s = .next (flushCascade (commitIfDone w)) ∧ w = releaseChunk n.toNat 0 ch g tm r u ∧
        (y.d.startExpress = true → v = advanceTo s (dueAt x first)) ∧ w.thm.releases = u.thm.releases + 1 ∧ (getStream w n.toNat).r.reset = false ∧ (getStream w n.toNat).d.lastRelease = some u.clk.time ∧
        ∀ y ∈ (getStream w n.toNat).d.chunks, y.num = ch.num → y.released = true) ∧
    (∀ ch : Chunk, agentsOn s = true → s.pwr.hot = false → x.state ≠ .free → postable x = some ch → Completes (.resultPost n) s fun t =>
      (getStream t n.toNat).d.outWr = (x.d.outWr + 1) % 2 ^ 64 ∧ (∀ y ∈ (getStream t n.toNat).d.chunks, y.num ≠ ch.num) ∧
      (getStream t n.toNat).r.chunksDone = (if ch.faulted.isSome then x.r.chunksDone else x.r.chunksDone + 1) ∧
      t.thm.posted = s.thm.posted + 1 ∧
      (ch.final = true → x.d.abortPend = false → ch.faulted = none → x.state = .ending → (getStream t n.toNat).state = .ended)) ∧
    (agentsOn s = true → s.pwr.hot = false → s.que.dbIn.contains n.toNat = true →
      let u : State := { s with que.dbIn := del n.toNat s.que.dbIn }
      (observes x = false → exec (.inputWrIdxRead n) s = .next u) ∧
      (∀ wr v, observes x = true → readIndex n.toNat (x.r.inRing.toNat + 16) u = (some wr, v) →
        (x.d.inR.nslots < idxSub wr x.d.rdIdx → Completes (.inputWrIdxRead n) s fun t =>
          (getStream t n.toNat).state = .faulted ∧ (getStream t n.toNat).r.cause = 0x15 ∧ (getStream t n.toNat).d.overwritten = true) ∧
        (idxSub wr x.d.rdIdx ≤ x.d.inR.nslots → idxSub x.d.wrSeen x.d.formIdx < idxSub wr x.d.formIdx → Completes (.inputWrIdxRead n) s fun t =>
          (getStream t n.toNat).d.wrSeen = wr))) ∧
    (agentsOn s = true → s.pwr.hot = false → s.que.dbOut.contains n.toNat = true →
      let u : State := { s with que.dbOut := del n.toNat s.que.dbOut }
      ∀ rd v, observes x = true → readIndex n.toNat (x.r.outRing.toNat + 24) u = (some rd, v) →
        (idxSub rd x.d.outRd ≤ idxSub x.d.outWr x.d.outRd → exec (.outputRdIdxRead n) s =
          .next (setStream u n.toNat { x with d.outRd := rd, d.outBad := false })) ∧
        (idxSub x.d.outWr x.d.outRd < idxSub rd x.d.outRd → Completes (.outputRdIdxRead n) s fun t =>
          (getStream t n.toNat).r.cause = 0x16 ∧ (getStream t n.toNat).d.outBad = true ∧ (getStream t n.toNat).d.outRd = x.d.outRd)) ∧
    (∀ cells, writesOn s = true → observes x = true →
      exec (.streamDbIn n cells) s = .next { hostStores cells s with hub.heldLow := none, que.dbIn := ins n.toNat s.que.dbIn } ∧
      exec (.streamDbOut n cells) s = .next { hostStores cells s with hub.heldLow := none, que.dbOut := ins n.toNat s.que.dbOut })

/-- Registers of a stream's entry take values while its state allows it. STE_GROUP_WRITE, STE_CONFIG_WRITE and STE_PARAM_WRITE
complete in every state in which BAR0 takes writes. STE_GROUP of a FREE entry that names a template of the current image,
and a replica of it or 0xFFFF, makes it IDLE with its counts and position 0; any other write to a FREE entry is discarded
with CFG_REJECT 0x0D, and so is one that changes it in a state other than IDLE and ENDED. STE_CTRL with CMD 0,
STE_PERIOD_US, STE_DELAY_US, STE_STATE_PTR, STE_KV_TABLE, STE_IN_RING and STE_OUT_RING take a value while the entry is
FREE, IDLE or ENDED, or where nothing changes, and are discarded with CFG_REJECT otherwise, STE_STATE_PTR of a device-
placed block too. STE_INIT_PTR and STE_PARAM take a value in every state; STE_PARAM sets PARAM_PENDING, and a release at
the same device time takes the values from before it. (spec/09 Table 9.1; R12; R155; R282; R283; R342) -/
def Obligations.StreamEntriesAreWritten : Prop :=
  ∀ (n : StreamId) (s : State), writesOn s = true → let x := getStream s n.toNat
    let Takes (i : Instr) (r : SteRegs) : Prop := Completes i s fun t =>
      getStream t n.toNat = { x with r := r } ∧ ∀ m, m ≠ n.toNat → getStream t m = getStream s m
    let Refuses (i : Instr) : Prop := Completes i s fun t => t.streams = s.streams ∧ t.cfg.reject = 0x0D
    (∀ v : Word, let r : SteRegs := { x.r with placement := v.extractLsb' 0 16, model := v.extractLsb' 16 16 }
      let named := ∃ g, s.cfg.cur = some g ∧ (templateIn g (v.toNat / 65536)).isSome = true ∧
        (v.toNat % 65536 = 0xFFFF ∨ (replicaIn g (v.toNat / 65536) (v.toNat % 65536)).isSome = true)
      (x.state = .free → named → Completes (.steGroupWrite n v) s fun t => (getStream t n.toNat).state = .idle ∧
          (getStream t n.toNat).r.placement = r.placement ∧ (getStream t n.toNat).r.model = r.model ∧
          (getStream t n.toNat).r.chunksDone = 0 ∧ (getStream t n.toNat).r.position = 0 ∧ (getStream t n.toNat).r.lateCount = 0 ∧
          (getStream t n.toNat).r.rerunCount = 0 ∧ (getStream t n.toNat).r.satCount = 0 ∧
          (getStream t n.toNat).r.cause = 0 ∧ (getStream t n.toNat).d.chunks = [] ∧ ∀ m, m ≠ n.toNat → getStream t m = getStream s m) ∧
      (x.state = .free → ¬ named → Refuses (.steGroupWrite n v)) ∧
      (x.state ≠ .free → quietState x.state = true ∨ r = x.r → Takes (.steGroupWrite n v) r) ∧
      (quietState x.state = false → r ≠ x.r → Refuses (.steGroupWrite n v))) ∧
    (∀ v : DWord, let w : Word := v.extractLsb' 0 32
      (∀ off wide r, (off, wide, r) ∈ [((0x0C : BitVec 8), false, { x.r with periodUs := w }), (0x10, false, { x.r with delayUs := w }),
          (0x28, true, { x.r with kvTable := v }), (0x30, true, { x.r with inRing := v }), (0x38, true, { x.r with outRing := v })] →
        (quietState x.state = true ∨ r = x.r → Takes (.steConfigWrite n off v wide) r) ∧
        (quietState x.state = false → r ≠ x.r → Refuses (.steConfigWrite n off v wide))) ∧
      (v = x.r.statePtr ∨ (quietState x.state = true ∧ x.d.devPlaced = false) → Takes (.steConfigWrite n 0x18 v true) { x.r with statePtr := v }) ∧
      (v ≠ x.r.statePtr → quietState x.state = false ∨ x.d.devPlaced = true → Refuses (.steConfigWrite n 0x18 v true)) ∧
      (Takes (.steConfigWrite n 0x20 v true) { x.r with initPtr := v }) ∧
      (v.toNat % 8 = 0 → (ctrlAllowed w x → Takes (.steConfigWrite n 0 v false) (ctrlFields w x.r)) ∧
        (¬ ctrlAllowed w x → Refuses (.steConfigWrite n 0 v false)))) ∧
    (∀ (i : BitVec 5) (v : Word), Completes (.steParamWrite n i v) s fun t => let y := getStream t n.toNat
      vget 0 y.r.param i.toNat = v ∧ (∀ j : BitVec 5, j ≠ i → vget 0 y.r.param j.toNat = vget 0 x.r.param j.toNat) ∧ paramPending y = true ∧
      y.state = x.state ∧ paramsNow t y = paramsNow s x ∧ ∀ m, m ≠ n.toNat → getStream t m = getStream s m)

/-- NOP, PHASE, EPOCH_ABORT and ATTEST complete at once with the status their rules give. While commands start and none waits,
a NOP answers SUCCESS; PHASE takes TEST or RECOVERY to SERVICE, and SERVICE or RECOVERY to TEST, answering the new phase,
and any other transition answers STATE; EPOCH_ABORT answers SUCCESS and rolls a switch back, answers SUCCESS without more
during a rollback, and STATE when no switch is under way; ATTEST writes its report where the operand says and answers its
length, and answers BAD_FIELD with the length where too little room is given. A NOP entry with a reserved bit set, or
whose CHECK_OWNER fails, is answered with its status and does nothing. The completion waits behind those of its queue.
Rows that complete here: NOP, PHASE_SERVICE, PHASE_TEST, EPOCH_ABORT, ATTEST. (spec/12 Table 12.9; R352; R389; R393; R396;
R397; R398; R480; R481) -/
def Obligations.ShortCommandsAnswer : Prop :=
  ∀ (c : HostCmd) (s : State),
    (MayAnswer c s →
      (cmdOp c = 0x00 → Replies (.nop c) c stSuccess 0 [] s s) ∧
      (cmdOp c = 0x01 → fld (cmdW c 2) 0 2 = 1 →
        (s.hub.phase = .test ∨ s.hub.phase = .recovery → Replies (.phaseService c) c stSuccess 0 [1] s { s with hub.phase := .service }) ∧
        (s.hub.phase = .service → Replies (.phaseService c) c stState 0 [] s s)) ∧
      (cmdOp c = 0x01 → fld (cmdW c 2) 0 2 = 2 →
        (s.hub.phase = .service ∨ s.hub.phase = .recovery → Replies (.phaseTest c) c stSuccess 0 [2] s { s with hub.phase := .test }) ∧
        (s.hub.phase = .test → Replies (.phaseTest c) c stState 0 [] s s)) ∧
      (cmdOp c = 0x12 →
        (s.cfg.phase = .stage ∨ s.cfg.phase = .prepare ∨ s.cfg.phase = .switch → exec (.epochAbort c) s = .next (settle [] (reply c stSuccess 0 [] (beginRollback 1 s)))) ∧
        (s.cfg.phase = .rollback → Replies (.epochAbort c) c stSuccess 0 [] s s) ∧
        (s.cfg.load = none → s.cfg.phase = .none ∨ s.cfg.phase = .loaded → Replies (.epochAbort c) c stState 0 [] s s)) ∧
      (cmdOp c = 0x48 →
        ((cmdW c 14).toNat < 10029 → Replies (.attest c) c stBadField 0 [10029] s s) ∧
        (10029 ≤ (cmdW c 14).toNat → ∀ u, vwrite s (cmdAddr c 12) (report ((List.range 8).map fun i => cmdW c (4 + i)) s) false = (u, none) →
          exec (.attest c) s = .next (settle [] (reply c stSuccess 0 [10029] u))))) ∧
    (commandsOn s = true → s.waitCmds = [] → s.waitState = [] → cmdOp c = 0x00 → entryStatus s c ≠ 0 →
      Replies (.nop c) c (entryStatus s c) 0 [] s s)

/-- A signed record that holds takes effect and is kept; one that fails a check is refused with the check's cause. While
commands start and none waits, for an OVERRIDE command whose record reads, has the row's TYPE and its form, names this
device, carries a valid signature and a sequence number above SEC_OVR_SEQ (TYPE 1 to 4), and does nothing forbidden: a
LASER override is listed under its serial in place of an earlier one, a revocation removes it, an enrolment programs its
owner slot with the key, and an owner revocation revokes its slot; each sets SEC_OVR_SEQ. DEBUG_UNLOCK opens the scope of
its challenge and ends the challenge, by command or through the test port. A record of another device is refused with
cause 0x07, a bad signature with 0x05, and an old sequence number with 0x06, changing none of the security state. Rows
that complete here: LASER_OVERRIDE, LASER_REVOKE, OWNER_ENROL, OWNER_REVOKE, DEBUG_UNLOCK. (spec/16 Table 16.8, Table
16.9; R396; R435; R478; R479; R482) -/
def Obligations.SignedRecordsTakeEffect : Prop :=
  ∀ (c : HostCmd) (s : State) (i : Instr) (type : Nat) (bs : List Byte) (p : Bool),
    (type, i) ∈ [(1, Instr.laserOverride c), (2, .laserRevoke c), (3, .ownerEnrol c), (4, .ownerRevoke c), (5, .debugUnlock (some c) [])] →
    MayAnswer c s → cmdOp c = 0x49 → vread s (cmdAddr c 4) (cmdW c 6).toNat = .ok (bs, p) → recFormOk bs = true → recType bs = type →
    (natAt bs 16 8 = s.fixed.serial.toNat → recSigned s bs = true → (type ≠ 5 → s.sec.ovrSeq.toNat < recSeq bs) → recForbidden s bs = none →
      exec i s = .next (settle [] (reply c stSuccess 0 [] (recEffect bs s))) ∧
      (type ≠ 5 → (recEffect bs s).sec.ovrSeq = BitVec.ofNat 64 (recSeq bs)) ∧
      (type = 1 → ∃ r, (recEffect bs s).sec.overrides = (s.sec.overrides.filter fun o => decide (o.1.toNat ≠ leNat (payloadOf bs) % 2 ^ 64)) ++ [r] ∧
        r.1 = BitVec.ofNat 64 (leNat (payloadOf bs))) ∧
      (type = 2 → (recEffect bs s).sec.overrides = s.sec.overrides.filter fun o => decide (o.1.toNat ≠ leNat (payloadOf bs) % 2 ^ 64)) ∧
      (type = 3 → ownerSlot (recEffect bs s) (recSlot bs) = { key := payloadOf bs, programmed := true, revoked := false }) ∧
      (type = 4 → (ownerSlot (recEffect bs s) (leNat (payloadOf bs))).revoked = true) ∧
      (type = 5 → (recEffect bs s).sec.scope = BitVec.ofNat 4 (natAt s.sec.challenge 40 4) ∧ (recEffect bs s).sec.challengeOut = false ∧
        (recEffect bs s).sec.ovrSeq = s.sec.ovrSeq)) ∧
    (natAt bs 16 8 ≠ s.fixed.serial.toNat → Completes i s fun t => t.sec = s.sec ∧ t.cfg.reject = 0x07) ∧
    (natAt bs 16 8 = s.fixed.serial.toNat → recSigned s bs = false → Completes i s fun t => t.sec = s.sec ∧ t.cfg.reject = 0x05) ∧
    (natAt bs 16 8 = s.fixed.serial.toNat → recSigned s bs = true → type ≠ 5 → recSeq bs ≤ s.sec.ovrSeq.toNat →
      Completes i s fun t => t.sec = s.sec ∧ t.cfg.reject = 0x06) ∧
    (type = 5 → s.hub.fwRunning = true → natAt bs 16 8 = s.fixed.serial.toNat → recSigned s bs = true →
      exec (.debugUnlock none bs) s = .next (recEffect bs s))

/-- A long command that may start takes a progress entry and begins its work. With commands starting, a good entry and a free
progress entry: the command becomes ACTIVE there under its id. IMAGE_LOAD and EPOCH begin copying with CFG_STATUS in LOAD
or STAGE, and are rejected with cause 0x02 while another is under way; ADAPT_RUN with a good job that admission accepts is
under way for its steps; ADAPT_STORE queues a set for the journal, or brings a kept set back to its buffer; SCRUB within
its die counts its granules; JOURNAL_COMPACT begins a compaction; LASER_QUIESCE disables its module and completes;
LASER_RESUME of a present module that is disabled authenticates it, and answers STATE for any other. What waited for an
ended command then goes on. Rows that complete here: IMAGE_LOAD, EPOCH, ADAPT_RUN, ADAPT_STORE_SAVE, ADAPT_STORE_RECALL,
SCRUB, JOURNAL_COMPACT, LASER_QUIESCE, LASER_RESUME. (spec/12 Table 12.9; R337; R390; R396; R398; R401; R402; R406; R432;
R437; R462) -/
def Obligations.LongCommandsStart : Prop :=
  ∀ (c : HostCmd) (slot : Nat) (s : State), let u := started slot c s
    (∀ envs, MayStart c envs slot s → slot < 16 ∧ (getPrg s slot).active = false ∧
      getPrg u slot = { cmdId := cmdId c, queue := c.queue, opcode := BitVec.ofNat 8 (cmdOp c), active := true, doneUnits := 0, total := 0, tens := 0 }) ∧
    (MayStart c [] slot s →
      (∀ (i : Instr) (op : Nat) (e : Bool) (ph : CfgPhase), (i, op, e, ph) ∈ [(Instr.imageLoad c, 0x10, false, CfgPhase.load), (.epoch c, 0x11, true, .stage)] → cmdOp c = op →
        (cfgBusy u = true → exec i s = .next (settle [] (rejectLong slot c 0x02 u))) ∧
        (cfgBusy u = false → (e = false → streamsQuiet u = true) → (bit (cmdW c 8) 0 = true → cmdAddr c 6 ≤ storeBytes) →
          ∃ w l, exec i s = .next (settle [] w) ∧ w.cfg.load = some l ∧ w.cfg.phase = ph ∧ w.cfg.pct = 0 ∧ w.cfg.cur = s.cfg.cur ∧
            l.src = BitVec.ofNat 64 (cmdAddr c 4) ∧ l.bytes = cmdAddr c 6 ∧ l.isEpoch = e ∧ l.persist = bit (cmdW c 8) 0 ∧ l.committed = false ∧
            w.streams = s.streams ∧ w.dram = s.dram ∧ w.long = u.long)) ∧
      (cmdOp c = 0x30 → adaptState (getStream u (cmdStream c)) = true → ∀ b p g t, vread u (cmdAddr c 4) 64 = .ok (b, p) → s.cfg.cur = some g →
        templateOf u (getStream u (cmdStream c)) = some t →
        let l : LongCmd := { LongCmd.init with slot := slot, cmd := { c with words := (c.words ++ List.replicate 16 0).take 16 ++ wordsOf 16 b } }
        jobOk l t = true → ∀ v, admits { u with long := s.long.filter fun k => decide (k.slot ≠ slot) } g (admittedJobs u g) (adaptJob u l) = some v →
        ∃ w, exec (.adaptRun c) s = .next (settle [] w) ∧ (∃ k, findLong w slot = some k ∧ k.slot = slot) ∧ w.streams = s.streams ∧ w.dram = s.dram ∧
          getPrg w slot = { getPrg u slot with total := jobWord l 2 }) ∧
      (cmdOp c = 0x31 → bit (cmdW c 2) 24 = false → (cmdW c 6).toNat ≤ 16777216 → ∀ b p q v, vread u (cmdAddr c 4) (cmdW c 6).toNat = .ok (b, p) →
        journalPut [jrec jAdapter (adaptKey c) b] u = some (q, v) → ∃ w, exec (.adaptStoreSave c) s = .next (settle [] w) ∧ w.jnl = v.jnl ∧
          getPrg w slot = { getPrg v slot with total := BitVec.ofNat 32 (ceilDiv (cmdW c 6).toNat 4096) }) ∧
      (cmdOp c = 0x31 → bit (cmdW c 2) 24 = true → ∀ r v, jnlGet u jAdapter (adaptKey c) = some r → r.payload.length ≤ (cmdW c 6).toNat →
        vwrite u (cmdAddr c 4) r.payload false = (v, none) → exec (.adaptStoreRecall c) s = .next (settle []
          (finishLong slot stSuccess 0 [word r.payload.length] (setTotal slot (ceilDiv r.payload.length 4096) v)))) ∧
      (cmdOp c = 0x38 → otherOf u 0x38 slot = false → scrubOff c % 64 = 0 → scrubLen c % 64 = 0 → scrubOff c + scrubLen c ≤ dieBytes →
        let w := setTotal slot (ceilDiv ((scrubDies u c).length * scrubLen c) 4096) u
        (scrubDies u c ≠ [] → scrubLen c ≠ 0 → exec (.scrub c) s = .next (settle [] w)) ∧
        (scrubDies u c = [] ∨ scrubLen c = 0 → exec (.scrub c) s = .next (settle [] (finishLong slot stSuccess 0 [0, 0] w)))) ∧
      (cmdOp c = 0x39 → otherOf u 0x39 slot = false → s.jnl.compacting = false → ∃ w, exec (.journalCompact c) s = .next (settle [] w) ∧
        w.jnl = { s.jnl with compacting := true, pct := 0, copied := 0 } ∧ w.long = u.long) ∧
      (cmdOp c = 0x40 → let m := fld (cmdW c 2) 0 2
        ((getLaser s m).quiesced = true → exec (.laserQuiesce c) s = .next (settle [] (finishLong slot stSuccess 0 [] (setTotal slot 100 u)))) ∧
        ((getLaser s m).quiesced = false → (∀ p ∈ laserPorts m, (getPort s p).active ≠ 2) →
          ∃ w, exec (.laserQuiesce c) s = .next (settle [] (finishLong slot stSuccess 0 [] w)) ∧
            (getLaser w m).en = false ∧ (getLaser w m).quiesced = true ∧ (∀ k, k ≠ m → getLaser w k = getLaser s k) ∧
            ∀ p ∈ laserPorts m, (getPort w p).mode = 0 ∧
              (getPort w p).quiescedMode = some ((getPort s p).quiescedMode.getD (getPort s p).mode)))) ∧
    (∀ env, MayStart c [env, env, env, env] slot s → cmdOp c = 0x41 →
      let m := fld (cmdW c 2) 0 2
      ((getLaser s m).present = false ∨ (getLaser s m).en = true →
        exec (.laserResume c env) s = .next (settle [env, env, env, env] (finishLong slot stState 0 [] (setTotal slot 100 u)))) ∧
      ((getLaser s m).present = true → (getLaser s m).en = false →
        let w := authenticate m env false (setTotal slot 100 u)
        ((getLaser w m).challengeAt.isSome = true → exec (.laserResume c env) s = .next (settle [env, env, env, env] w)) ∧
        ((getLaser w m).challengeAt = none → exec (.laserResume c env) s = .next (settle [env, env, env, env] (endResume slot m w)))))

/-- The test port's four instructions do their work in every state. BYPASS passes the data through one register that captures
0; IDCODE shifts out 1, the JEDEC number, part 0F40 and the stepping; SAMPLE/PRELOAD takes the preload into the boundary
register; EXTEST alone gives the pins to the boundary register. Each is then the instruction in effect, and nothing but
the test port, and the counter of free values, changes. Rows that complete here: TAP_BYPASS, TAP_IDCODE,
TAP_SAMPLE_PRELOAD, TAP_EXTEST. (R483) -/
def Obligations.TheTestPortAlwaysWorks : Prop :=
  ∀ (s : State),
    (∀ tdi, Completes (.tapBypass tdi) s fun t => t = { s with tap := t.tap } ∧ t.tap.ir = 0 ∧ t.tap.pinsTaken = false ∧
      t.tap.boundary = s.tap.boundary ∧ t.tap.bypass = tdi.getLast?.getD false ∧ (tdi ≠ [] → t.tap.tdo.getLsbD 0 = false) ∧
      ∀ i, i + 1 < tdi.length → i + 1 < 64 → t.tap.tdo.getLsbD (i + 1) = tdi.getD i false) ∧
    (Completes .tapIdcode s fun t => t = { s with tap := t.tap } ∧ t.tap.ir = 1 ∧ t.tap.pinsTaken = false ∧ t.tap.boundary = s.tap.boundary ∧
      t.tap.tdo.toNat = 1 + 2 * s.fixed.jedec.toNat + 2 ^ 12 * 0x0F40 + 2 ^ 28 * (s.fixed.stepping.toNat % 16)) ∧
    (∀ p, Completes (.tapSamplePreload p) s fun t => t = { s with tap := t.tap, fresh := s.fresh + 1 } ∧ t.tap.ir = 2 ∧ t.tap.pinsTaken = false ∧
      t.tap.boundary = p) ∧
    (Completes .tapExtest s fun t => t = { s with tap := t.tap } ∧ t.tap.ir = 3 ∧ t.tap.pinsTaken = true ∧ t.tap.boundary = s.tap.boundary)

/-- A checkpoint captures a quiescent stream, a restore brings it back, and adaptation goes on step by step. CHECKPOINT,
CHECKPOINT_BOUNDARY, RESTORE and ADAPT_STEP_COMPLETE complete. With a progress entry free and room enough: CHECKPOINT of a
RUNNING, PAUSED, IDLE or ENDED stream with a state block holds a RUNNING stream's releases and is under way; at
CHECKPOINT_BOUNDARY, with no chunk in flight, the sections that other packages hold are asked for, and once all have come
the stream goes on and its header, layer records and block stand at the address given, those sections in their places, or
the command ends HOST_FAULT at the address that does not translate. RESTORE of an IDLE or PAUSED stream from a checkpoint
that matches its model brings back CHUNKS_DONE, the position and the next chunk, sets CARRY, makes the next chunk continue
the state, and answers the bytes; one that does not match answers MISMATCH, one without room for its block NO_RESOURCE,
and one that does not read HOST_FAULT. Either answers STATE in any other state, and BAD_FIELD with the size where LENGTH
is too small. A step of the ADAPT_RUN job in a progress entry counts its saturations for its stream, leaves its adapters
and loss in device-virtual memory and counts one more step done, and the last one completes the job with SUCCESS, the
number of steps and the last loss; a step that faults completes it with FAULT, and one whose adapters or loss cannot be
written with HOST_FAULT and the address. (spec/12 Table 12.9; R75; R168; R169; R170; R390; R394; R399; R401; R406) -/
def Obligations.CheckpointsRestoresAndAdaptation : Prop :=
  (∀ (c : HostCmd) (slot : Nat) (s : State), let u := started slot c s; let n := cmdStream c; let x := getStream s n
      (MayStart c [] slot s → cmdOp c = 0x20 →
        (ckpState x = false → exec (.checkpoint c) s = .next (settle [] (finishLong slot stState x.r.cause.toNat [] u))) ∧
        (∀ t, ckpState x = true → ckpTemplate u x = some t →
          ((cmdW c 6).toNat < ckpBytes t → exec (.checkpoint c) s = .next (settle [] (finishLong slot stBadField 0 [word (ckpBytes t)] u))) ∧
          (ckpBytes t ≤ (cmdW c 6).toNat → ∃ w, exec (.checkpoint c) s = .next (settle [] w) ∧ w.long = u.long ∧ w.dram = s.dram ∧
            w.hostMem = s.hostMem ∧ (x.state = .running → getStream w n = { x with d.hold := true }) ∧ (x.state ≠ .running → w.streams = s.streams) ∧
            (∀ m, m ≠ n → getStream w m = getStream s m) ∧ (getPrg w slot).total = BitVec.ofNat 32 (ceilDiv (ckpBytes t) 4096)))) ∧
      (∀ (id : StreamId) l, id.toNat = n → agentsOn s = true → checkpointOf s n = some l → inFlight x = false →
        let p := gatherFirst n s
        let z := getStream p.2 n
        let v := setStream p.2 n { z with d.hold := false, d.gathering := false, d.sections := [] }
        let dst := cmdAddr l.cmd 4
        (x.d.gathering = false → crosses s = false → p.1 = true ∧ farSections p.2 z = [] ∧ z.r = x.r ∧ z.state = x.state) ∧
        (p.1 = false → exec (.checkpointBoundary id) s = .next p.2) ∧
        (p.1 = true →
          (ckpState z = false → exec (.checkpointBoundary id) s = .next (settle [] (finishLong l.slot stFault 0 [] v))) ∧
          ∀ t, ckpState z = true → ckpTemplate v z = some t →
            (∀ v', vwrite v dst (ckpHead z t) false = (v', none) →
              (∀ w, copyUnits (unitAt z.r.statePtr.toNat) (dst + ckpHeadBytes t) (t.blockBytes / 64) 0 v' = (w, none) →
                exec (.checkpointBoundary id) s = .next (settle [] (finishLong l.slot stSuccess 0 [word (ckpBytes t)]
                  (putSections t (dst + ckpHeadBytes t) (farSections p.2 z) w)))) ∧
              (∀ w va, copyUnits (unitAt z.r.statePtr.toNat) (dst + ckpHeadBytes t) (t.blockBytes / 64) 0 v' = (w, some va) →
                exec (.checkpointBoundary id) s = .next (settle [] (finishLong l.slot stHostFault 0 (words64 va) w)))) ∧
            (∀ v' e, vwrite v dst (ckpHead z t) false = (v', some e) →
              exec (.checkpointBoundary id) s = .next (settle [] (finishLong l.slot stHostFault 0 (words64 e.2) v'))))) ∧
      (MayStart c [] slot s → cmdOp c = 0x21 → cfgBusy u = true → exec (.restore c) s = .next (settle [] (rejectLong slot c 2 u))) ∧
      (MayStart c [] slot s → cmdOp c = 0x21 → cfgBusy u = false →
        (x.state ≠ .idle → x.state ≠ .paused → exec (.restore c) s = .next (settle [] (finishLong slot stState x.r.cause.toNat [] u))) ∧
        (∀ g t, x.state = .idle ∨ x.state = .paused → s.cfg.cur = some g → templateOf u x = some t →
          ((cmdW c 6).toNat < ckpBytes t → exec (.restore c) s = .next (settle [] (finishLong slot stBadField 0 [word (ckpBytes t)] u))) ∧
          (∀ e, ckpBytes t ≤ (cmdW c 6).toNat → vread u (cmdAddr c 4) (ckpBytes t) = .error e →
            exec (.restore c) s = .next (settle [] (finishLong slot stHostFault 0 (words64 e.2) u))) ∧
          (∀ b p, ckpBytes t ≤ (cmdW c 6).toNat → vread u (cmdAddr c 4) (ckpBytes t) = .ok (b, p) →
            (ckpMatches x t b = false → exec (.restore c) s = .next (settle [] (finishLong slot stMismatch 0 [] u))) ∧
            (ckpMatches x t b = true → blockForRestore n g t u = none → exec (.restore c) s = .next (settle [] (finishLong slot stNoResource 0 [] u))) ∧
            (∀ v w, ckpMatches x t b = true → blockForRestore n g t u = some v →
              copyUnits (unitAt (cmdAddr c 4 + ckpHeadBytes t)) (getStream v n).r.statePtr.toNat (t.blockBytes / 64) 0 v = (w, none) →
              exec (.restore c) s = .next (settle [] (finishLong slot stSuccess 0 [word (ckpBytes t)]
                (setTotal slot (ceilDiv (ckpBytes t) 4096) (reinstate n t b w)))) ∧
              (getStream (reinstate n t b w) n).r.chunksDone = dwordAt b 2 ∧ (getStream (reinstate n t b w) n).r.position.toNat = natAt b 16 8 % 2 ^ 48 ∧
              (getStream (reinstate n t b w) n).d.nextChunk.toNat = natAt b 48 8 % 2 ^ 64 ∧ (getStream (reinstate n t b w) n).r.carry = true ∧
              (getStream (reinstate n t b w) n).d.continueStart = true ∧
              (getStream (reinstate n t b w) n).state = (getStream w n).state ∧ ∀ m, m ≠ n → getStream (reinstate n t b w) m = getStream w m))))) ∧
  (∀ (slot : BitVec 4) (loss : Word) (adapter : List Byte) (ts : List (BitVec 8 × Nat × Nat)) (s : State) (l : LongCmd),
      findLong s slot.toNat = some l → agentsOn s = true → cmdOp l.cmd = 0x30 →
      let n := cmdStream l.cmd
      ∃ s', s' = stepSats l ts s ∧
        getStream s' n = { getStream s n with r.satCount := satAdd (getStream s n).r.satCount ((ts.map (·.2.1)).foldl (· + ·) 0) } ∧
        (∀ m, m ≠ n → getStream s' m = getStream s m) ∧
        exec (.adaptStepComplete slot loss ⟨adapter, ts⟩ true) s = .next (settle [] (finishLong l.slot stFault 0 [] s')) ∧
        (∀ u e, vwrite s' (nth64 l.cmd.words 20) adapter false = (u, some e) →
          exec (.adaptStepComplete slot loss ⟨adapter, ts⟩ false) s = .next (settle [] (finishLong l.slot stHostFault 0 (words64 e.2) u))) ∧
        (∀ u w e, vwrite s' (nth64 l.cmd.words 20) adapter false = (u, none) →
          vwrite u (nth64 l.cmd.words 30 + 4 * l.cursor) (leBytes 4 loss.toNat) false = (w, some e) →
          exec (.adaptStepComplete slot loss ⟨adapter, ts⟩ false) s = .next (settle [] (finishLong l.slot stHostFault 0 (words64 e.2) w))) ∧
        (∀ u w, vwrite s' (nth64 l.cmd.words 20) adapter false = (u, none) →
          vwrite u (nth64 l.cmd.words 30 + 4 * l.cursor) (leBytes 4 loss.toNat) false = (w, none) →
          let k := l.cursor + 1
          let v := setDone l.slot k (modLong w l.slot fun y => { y with cursor := k })
          v.streams = s'.streams ∧ v.cores = w.cores ∧ v.dram = w.dram ∧ v.hostMem = w.hostMem ∧
          (k < (jobWord l 2).toNat → exec (.adaptStepComplete slot loss ⟨adapter, ts⟩ false) s = .next (settle [] v)) ∧
          ((jobWord l 2).toNat ≤ k → exec (.adaptStepComplete slot loss ⟨adapter, ts⟩ false) s =
            .next (settle [] (finishLong l.slot stSuccess 0 [word k, loss] v)))))

/-- KV_EVICT and KV_RESTORE move a stream's pages and KV_FORK shares a prefix. With a progress entry free: KV_EVICT and
KV_RESTORE of a stream with a readable KV table and a layer and head that exist move the named pages in order, the first
going to its host slot or into the lowest free frame, and answer at the end how many moved and how many were skipped;
KV_RESTORE without a free frame answers NO_RESOURCE with what it did. A layer or head that does not exist, and an eviction
into a host slot that another page of the pool names, answer BAD_FIELD, and a stream without a table STATE. KV_FORK of a
quiescent parent into an IDLE child without pages, both alike, shares the full pages of the prefix and answers their
number; any other answers STATE. (spec/12 Table 12.9; R195; R198; R390; R394; R400) -/
def Obligations.KvCommandsMoveAndSharePages : Prop :=
  ∀ (c : HostCmd) (slot : Nat) (s : State), MayStart c [] slot s → let u := started slot c s; let n := cmdStream c; let x := getStream s n
    (cmdOp c = 0x28 →
      (kvRef u c = none → exec (.kvEvict c) s = .next (settle [] (finishLong slot stState x.r.cause.toNat [] u))) ∧
      (∀ r, kvRef u c = some r → let ms := kvMoves u c r true; let w := setTotal slot (cmdW c 5).toNat u
        (r.h.layers ≤ r.a ∨ r.h.heads ≤ r.hd ∨ (∃ m ∈ ms, slotNamed u r ((cmdW c 6).toNat + m.1) = true ∨ 2 ^ 32 ≤ (cmdW c 6).toNat + m.1) →
          exec (.kvEvict c) s = .next (settle [] (finishLong slot stBadField 0 [] u))) ∧
        (r.a < r.h.layers → r.hd < r.h.heads → (∀ m ∈ ms, slotNamed u r ((cmdW c 6).toNat + m.1) = false ∧ (cmdW c 6).toNat + m.1 < 2 ^ 32) →
          let skipped := (cmdW c 5).toNat - ms.length
          (ms = [] → exec (.kvEvict c) s = .next (settle [] (finishLong slot stSuccess 0 [0, word skipped] w))) ∧
          (∀ m rest v, ms = m :: rest → evictPage r m.2 ((cmdW c 6).toNat + m.1) w = (v, none) →
            (descOf v r.g r.p m.2).host = true ∧ (descOf v r.g r.p m.2).addr = (cmdW c 6).toNat + m.1 ∧
            exec (.kvEvict c) s = .next (settle [] (evictAll slot r c skipped rest 1 (setDone slot 1 v)))) ∧
          (∀ m rest v va, ms = m :: rest → evictPage r m.2 ((cmdW c 6).toNat + m.1) w = (v, some va) →
            exec (.kvEvict c) s = .next (settle [] (finishLong slot stHostFault 0 (words64 va) v)))))) ∧
    (cmdOp c = 0x29 →
      (kvRef u c = none → exec (.kvRestore c) s = .next (settle [] (finishLong slot stState x.r.cause.toNat [] u))) ∧
      (∀ r, kvRef u c = some r → let ms := kvMoves u c r false; let w := setTotal slot (cmdW c 5).toNat u
        let skipped := (cmdW c 5).toNat - ms.length
        (r.h.layers ≤ r.a ∨ r.h.heads ≤ r.hd → exec (.kvRestore c) s = .next (settle [] (finishLong slot stBadField 0 [] u))) ∧
        (r.a < r.h.layers → r.hd < r.h.heads →
          (ms = [] → cmdAddr c 8 = 0 → exec (.kvRestore c) s = .next (settle [] (finishLong slot stSuccess 0 [0, word skipped, 0] w))) ∧
          (ms ≠ [] → cmdAddr c 8 = 0 → freeFrames w r.g r.p = [] →
            exec (.kvRestore c) s = .next (settle [] (finishLong slot stNoResource 0 [0, word skipped, 0] w))) ∧
          (∀ m rest f fs v h, ms = m :: rest → freeFrames w r.g r.p = f :: fs → restorePage r m.2 f w = (v, .ok h) →
            exec (.kvRestore c) s = .next (settle [] (restoreAll slot r c skipped rest [h] (setDone slot 1 v))))))) ∧
    (cmdOp c = 0x2A → cfgBusy u = true → exec (.kvFork c) s = .next (settle [] (rejectLong slot c 2 u))) ∧
    (cmdOp c = 0x2A → cfgBusy u = false → let child := fld (cmdW c 3) 0 12; let p := cmdAddr c 4
      (kvRef u c = none ∨ readHead u (getStream u child).r.kvTable.toNat = none →
        exec (.kvFork c) s = .next (settle [] (finishLong slot stState x.r.cause.toNat [] u))) ∧
      ∀ r h, kvRef u c = some r → readHead u (getStream u child).r.kvTable.toNat = some h →
        (forkAllowed u x (getStream u child) r h p = false → exec (.kvFork c) s = .next (settle [] (finishLong slot stState x.r.cause.toNat [] u))) ∧
        (forkAllowed u x (getStream u child) r h p = true →
          let k := (forkPages u r p).length
          exec (.kvFork c) s = .next (settle [] (finishLong slot stSuccess 0 [word k] (setTotal slot k (forkPrefix child x r h p u)))) ∧
          (getStream (forkPrefix child x r h p u) child).d.kvPages = decide (0 < p) ∧
          k = r.h.layers * r.h.heads * (p / pagePos r.h.i8)))

/-- An image is verified, prepared, switched to or rolled back, and kept. When the copy of an image ends: one that cannot be
read ends its command with HOST_FAULT, one that fails a check with REJECT and its cause, changing nothing in force;
IMAGE_LOAD's image is in force with epoch 1 and no stream; EPOCH's is staged, and Prepare begins once the spare banks are
free. PREPARE_COMPLETE ends Prepare when each running stream has a replica and a block and the waves fit, else it begins
the rollback with its cause. WAVE_RECONFIGURE ends a wave whose streams have no chunk in flight. ROLLBACK_COMPLETE leaves
the old image in force with CFG_ABORT the cause. IMAGE_PERSIST_COMPLETE ends the store write, with both copies kept where
the journal took them. Rows that complete here: IMAGE_VERIFY_COMPLETE, PREPARE_COMPLETE, WAVE_RECONFIGURE,
ROLLBACK_COMPLETE, IMAGE_PERSIST_COMPLETE. (spec/10; R337; R339; R345; R346; R347; R350; R351; R352; R354; R398) -/
def Obligations.ImagesComeIntoForce : Prop :=
  ∀ (s : State), agentsOn s = true →
    (∀ l, s.cfg.load = some l → s.cfg.phase = .load ∨ (s.cfg.phase = .stage ∧ s.cfg.staged = none) →
      (∀ e, vread s l.src.toNat l.bytes = .error e → exec .imageVerifyComplete s = .next (settle [] (finishLoad l stHostFault 0 (words64 e.2) (loadOver s)))) ∧
      (∀ b p, vread s l.src.toNat l.bytes = .ok (b, p) →
        (headCheck s b l.bytes ≠ 0 → exec .imageVerifyComplete s = .next (settle [] (rejectImage l (headCheck s b l.bytes) s))) ∧
        (headCheck s b l.bytes = 0 →
          let g := parseImage b
          let v := copyImage l.src.toNat g.base g.bytes s
          (bodyCheck v b g ≠ 0 → exec .imageVerifyComplete s = .next (settle [] (rejectImage l (bodyCheck v b g) v))) ∧
          (bodyCheck v b g = 0 → l.isEpoch = false → streamsQuiet v = true → l.persist = false →
            ∃ w, exec .imageVerifyComplete s = .next (settle [] (finishLoad l stSuccess 0 [1] w)) ∧ w.cfg.cur = some g ∧ w.cfg.epoch = 1 ∧
              w.cfg.phase = .loaded ∧ w.cfg.load = none ∧ w.cfg.staged = none ∧ (∀ n, (getStream w n).state = .free) ∧ w.cfg.bankOf = 0) ∧
          (bodyCheck v b g = 0 → l.isEpoch = false → streamsQuiet v = true → l.persist = true →
            ∃ w, exec .imageVerifyComplete s = .next (settle [] w) ∧ w.cfg.cur = some g ∧ w.cfg.epoch = 1 ∧ w.cfg.persist = true ∧ (∀ n, (getStream w n).state = .free) ∧
              w.cfg.load = some { l with committed := true, work := 0 }) ∧
          (bodyCheck v b g = 0 → l.isEpoch = false → streamsQuiet v = false → exec .imageVerifyComplete s = .next (settle [] (rejectImage l 0x0C v))) ∧
          (bodyCheck v b g = 0 → l.isEpoch = true →
            (switchCheck v g ≠ 0 → exec .imageVerifyComplete s = .next (settle [] (rejectImage l (switchCheck v g) v))) ∧
            (switchCheck v g = 0 → s.cfg.phase = .stage →
              ∃ w, w = { v with cfg := w.cfg } ∧ w.cfg.staged = some g ∧ w.cfg.pct = 100 ∧ w.cfg.cur = s.cfg.cur ∧
                (sparesFree w = true → exec .imageVerifyComplete s = .next (settle [] (beginPrepare g w))) ∧
                (sparesFree w = false → exec .imageVerifyComplete s = .next (settle [] w))))))) ∧
    (∀ o g l, switchImages s = some (o, g, l) → s.cfg.phase = .prepare → l.prepared = false → preparedPct s = 100 →
      ((assignReplicas g s).bind (assignBlocks o g) = none → exec .prepareComplete s = .next (beginRollback 2 s)) ∧
      (∀ v, (assignReplicas g s).bind (assignBlocks o g) = some v →
        (wavesOk o g v = false → exec .prepareComplete s = .next (beginRollback 3 v)) ∧
        (wavesOk o g v = true → exec .prepareComplete s = .next { v with
          cfg.pct := 100, cfg.load := some { l with prepared := true }, cfg.waves := BitVec.ofNat 8 g.waves.length }))) ∧
    (∀ o g l i, switchImages s = some (o, g, l) → switching s = true → waveNow l = some i →
      (∀ n ∈ affectedBy s o g i, inFlight (getStream s n) = false) → ∃ w, exec .waveReconfigure s = .next (commitIfDone w) ∧ w.cfg.wave = 0 ∧
        w.cfg.load = some { l with waveOn := false, waveIdx := if s.cfg.phase = .switch then l.waveIdx else l.waveIdx - 1 }) ∧
    (rolledBack s = true → Completes .rollbackComplete s fun t =>
      t.cfg.phase = (if s.cfg.cur.isSome then .loaded else .none) ∧ t.cfg.cur = s.cfg.cur ∧ t.cfg.epoch = s.cfg.epoch ∧ t.cfg.staged = none ∧
      t.cfg.load = none ∧ t.cfg.abort = (s.cfg.load.getD Load.init).abortCause ∧ t.cfg.wave = 0) ∧
    (∀ g ok0 ok1, s.cfg.persist = true → s.cfg.cur = some g →
      let p := persistImage g ok0 ok1 s
      (Completes (.imagePersistComplete ok0 ok1) s fun t => t.cfg.persist = false ∧ t.cfg.load = none ∧ t.cfg.cur = some g ∧ t.jnl = p.2.jnl ∧
        t.streams = s.streams ∧ t.dram = s.dram ∧ t.cores = s.cores) ∧
      (p.1 = true → ok0 = true → ok1 = true → p.2.jnl.image0 = some (memRead s.dram g.base g.bytes) ∧
        p.2.jnl.image1 = some (memRead s.dram g.base g.bytes)))

/-- Doorbells move a queue's index, CTRL enables a queue, and a bad one sets its error bit only. While BAR0 takes writes: a
command tail within the queue's size that does not pass its head is taken, after the host's stores to its memory; any
other sets the pair's error bit and moves nothing. The same holds for the completion heads and the event head. A CTRL
write with a size of Table 12.5, that does not change the size of an enabled queue and does not enable one before READY,
sets EN and the size; when EN rises the indices are 0 and PHASE 1. Any other sets the queue's error bit and changes
nothing else. Rows that complete here: COMMAND_QUEUE_DOORBELL, COMPLETION_QUEUE_DOORBELL, EVENT_QUEUE_DOORBELL,
QUEUE_ENABLE_WRITE. (spec/12 Table 12.5; R12; R382; R387; R388; R391) -/
def Obligations.QueuesTakeDoorbellsAndControl : Prop :=
  ∀ (s : State), writesOn s = true → let h : State := { s with hub.heldLow := none }
    (∀ (q : BitVec 2) (v : Word) (cells : List Host.Cell), let x := getQ s q.toNat; let size := 2 ^ x.cmdSize.toNat; let t := fld v 0 12
      let held := (x.tail.toNat + size - x.head.toNat) % size; let added := (t + size - x.tail.toNat) % size
      let u := hostStores cells h
      (t < size → held + added < size → Completes (.commandQueueDoorbell q v cells) s fun w =>
        getQ w q.toNat = { x with tail := BitVec.ofNat 12 t } ∧ (∀ r : BitVec 2, r ≠ q → getQ w r.toNat = getQ s r.toNat) ∧
        w = { u with que := { s.que with q := w.que.q } }) ∧
      (size ≤ t ∨ size ≤ held + added → exec (.commandQueueDoorbell q v cells) s = .next { u with que.err := setBit4 s.que.err q.toNat })) ∧
    (∀ (q : BitVec 2) (v : Word), let x := getQ s q.toNat; let size := 2 ^ x.cplSize.toNat; let t := fld v 0 12
      let ok := t < size ∧ (t + size - x.cplHead.toNat) % size ≤ (x.cplTail.toNat + size - x.cplHead.toNat) % size
      (ok → Completes (.completionQueueDoorbell q v) s fun w =>
        getQ w q.toNat = { x with cplHead := BitVec.ofNat 12 t } ∧ (∀ r : BitVec 2, r ≠ q → getQ w r.toNat = getQ s r.toNat) ∧
        w = { h with que := { s.que with q := w.que.q } }) ∧
      (¬ ok → exec (.completionQueueDoorbell q v) s = .next { h with que.err := setBit4 s.que.err q.toNat })) ∧
    (∀ (v : Word), let size := 2 ^ s.que.evSize.toNat; let t := fld v 0 14
      let ok := t < size ∧ (t + size - s.que.evHead.toNat) % size ≤ (s.que.evTail.toNat + size - s.que.evHead.toNat) % size
      (ok → exec (.eventQueueDoorbell v) s =
        .next { h with que.evHead := BitVec.ofNat 14 t, que.evUnread := s.que.evUnread && decide (t ≠ s.que.evTail.toNat) }) ∧
      (¬ ok → exec (.eventQueueDoorbell v) s = .next { h with que.evqErr := true })) ∧
    (∀ (q : BitVec 2) (v : Word), let x := getQ s q.toNat; let size := fld v 1 4; let en := bit v 0
      let ok (now : Bool) (was : Nat) (most : Nat) : Prop := (now = true → size = was) ∧ (en = true → s.hub.ready = true ∧ 4 ≤ size ∧ size ≤ most)
      (ok x.cmdEn x.cmdSize.toNat 12 → Completes (.queueEnableWrite (q.zeroExtend 4) v) s fun w =>
        (getQ w q.toNat).cmdEn = en ∧ (getQ w q.toNat).cmdSize.toNat = size ∧ (∀ r : BitVec 2, r ≠ q → getQ w r.toNat = getQ s r.toNat) ∧
        (en = true → x.cmdEn = false → (getQ w q.toNat).head = 0 ∧ (getQ w q.toNat).tail = 0) ∧
        (en = false ∨ x.cmdEn = true → (getQ w q.toNat).head = x.head ∧ (getQ w q.toNat).tail = x.tail)) ∧
      (¬ ok x.cmdEn x.cmdSize.toNat 12 → exec (.queueEnableWrite (q.zeroExtend 4) v) s = .next { h with que.err := setBit4 s.que.err q.toNat }) ∧
      (ok x.cplEn x.cplSize.toNat 12 → Completes (.queueEnableWrite (q.zeroExtend 4 + 4) v) s fun w =>
        (getQ w q.toNat).cplEn = en ∧ (getQ w q.toNat).cplSize.toNat = size ∧ (∀ r : BitVec 2, r ≠ q → getQ w r.toNat = getQ s r.toNat) ∧
        (getQ w q.toNat).count.toNat = fld v 8 8 ∧ (getQ w q.toNat).waitUs.toNat = fld v 16 16 ∧
        (en = true → x.cplEn = false → (getQ w q.toNat).cplHead = 0 ∧ (getQ w q.toNat).cplTail = 0 ∧ (getQ w q.toNat).cplPhase = true)) ∧
      (¬ ok x.cplEn x.cplSize.toNat 12 → exec (.queueEnableWrite (q.zeroExtend 4 + 4) v) s = .next { h with que.err := setBit4 s.que.err q.toNat }) ∧
      (ok s.que.evEn s.que.evSize.toNat 14 → Completes (.queueEnableWrite 8 v) s fun w =>
        w.que.evEn = en ∧ w.que.evSize.toNat = size ∧ w.que.q = s.que.q ∧
        (en = true → s.que.evEn = false → w.que.evHead = 0 ∧ w.que.evTail = 0 ∧ w.que.evPhase = true)) ∧
      (¬ ok s.que.evEn s.que.evSize.toNat 14 → exec (.queueEnableWrite 8 v) s = .next { h with que.evqErr := true }))

/-- Commands are fetched, completions are written in order, and interrupt timers fire. COMMAND_FETCH, COMPLETION_WRITE,
COMPLETION_COALESCE_EXPIRY, EVENT_BATCH_EXPIRY and RESULT_HOLDOFF_EXPIRY complete in every state; where they find no work,
nothing changes. COMMAND_FETCH takes up to eight entries of the next enabled queue in turn that holds any, and turns to
the queue after it; the queue's head passes an entry that reads before the command starts; one that does not translate
stays. COMPLETION_WRITE of an enabled queue with a free place writes its oldest completion at its tail, advances the tail,
toggles PHASE when the tail wraps and frees its progress entry; it discards the completion, and counts it lost, while EN
is 0, and leaves it where the queue is full; a command that waited for the progress entry may then start. The coalescing
timer fires a queue's vector WAIT_US after its oldest unsignalled completion, the batch timer fires vector 0 while entries
are unread, and the end of the hold-off fires a pending result vector; a masked vector sets its pending bit instead.
(spec/12; R389; R390; R391; R393; R404; R406) -/
def Obligations.CommandsAreFetchedAndCompleted : Prop :=
  ∀ (s : State),
    let Fires (v : Nat) (w : State) : Prop :=
      ((memGet s.que.msix (16 * v + 12)).getLsbD 0 = false → vget 0 w.que.fired v = vget 0 s.que.fired v + 1 ∧ w.que.pba = s.que.pba) ∧
      ((memGet s.que.msix (16 * v + 12)).getLsbD 0 = true → w.que.pba = s.que.pba ||| (1 <<< v) ∧ w.que.fired = s.que.fired)
    (∀ lasers n, commandsOn s = true → nextQueue s = some n → let q := getQ s n
      (∀ b p, vread s (q.cmdBase.toNat + 64 * q.head.toNat) 64 = .ok (b, p) →
        let c : HostCmd := { queue := BitVec.ofNat 2 n, words := wordsOf 16 b }
        ∃ u w, u.que.turn = BitVec.ofNat 2 (n + 1) ∧ getQ u n = { q with head := BitVec.ofNat 12 ((q.head.toNat + 1) % 2 ^ q.cmdSize.toNat) } ∧
          (∀ m, m ≠ n → getQ u m = getQ s m) ∧ u = { s with que := u.que } ∧ w = startCommand c lasers u ∧
          exec (.commandFetch lasers) s = .next (settle lasers (fetchSome lasers n 7 w))) ∧
      (∀ f, vread s (q.cmdBase.toNat + 64 * q.head.toNat) 64 = .error f →
        exec (.commandFetch lasers) s = .next (settle lasers { s with que.turn := BitVec.ofNat 2 (n + 1) }))) ∧
    (∀ lasers, commandsOn s = false ∨ nextQueue s = none → exec (.commandFetch lasers) s = .next s) ∧
    (∀ (q : BitVec 2), let x := getQ s q.toNat
      let t := (x.cplTail.toNat + 1) % 2 ^ x.cplSize.toNat
      (agentsOn s = false ∨ s.pwr.hot = true → exec (.completionWrite q) s = .next s) ∧
      (agentsOn s = true → s.pwr.hot = false →
        (x.held = [] ∨ (x.cplEn = true ∧ t = x.cplHead.toNat) → exec (.completionWrite q) s = .next (settle [] s)) ∧
        ∀ c rest, x.held = c :: rest → x.cplEn = false ∨ t ≠ x.cplHead.toNat → ∃ w, exec (.completionWrite q) s = .next (settle [] w) ∧
          (s.waitCmds = [] → s.waitState = [] → settle [] w = w) ∧ (getQ w q.toNat).held = rest ∧
          (∀ i, c.slot = some i → i < 16 → (getPrg w i).active = false) ∧ w.streams = s.streams ∧ w.cores = s.cores ∧
          (x.cplEn = false → w.que.cplLost = setBit4 s.que.cplLost q.toNat ∧ (getQ w q.toNat).cplTail = x.cplTail ∧
            w.dram = s.dram ∧ w.hostMem = s.hostMem) ∧
          (x.cplEn = true → (getQ w q.toNat).cplTail = BitVec.ofNat 12 t ∧ (getQ w q.toNat).cplPhase = xor x.cplPhase (decide (t = 0)) ∧
            (x.count.toNat ≤ x.unsignalled + 1 → Fires (1 + q.toNat) w) ∧
            (let m := vput s (x.cplBase.toNat + 64 * x.cplTail.toNat) (bytesOfWords (cplEntry q.toNat x c))
             w.dram = m.dram ∧ w.hostMem = m.hostMem)))) ∧
    (∀ (q : BitVec 2), (agentsOn s = false ∨ (getQ s q.toNat).oldest = none → exec (.completionCoalesceExpiry q) s = .next s) ∧
      ∀ t, agentsOn s = true → (getQ s q.toNat).oldest = some t → Completes (.completionCoalesceExpiry q) s fun w =>
        (getQ w q.toNat).oldest = none ∧ (getQ w q.toNat).unsignalled = 0 ∧ Fires (1 + q.toNat) w ∧
        w.clk = (advanceTo s (t.toNat + 1000 * (getQ s q.toNat).waitUs.toNat)).clk ∧ w.streams = s.streams ∧ w.dram = s.dram) ∧
    (agentsOn s = false ∨ s.que.evUnread = false ∨ s.que.evHead = s.que.evTail → exec .eventBatchExpiry s = .next s) ∧
    (agentsOn s = true → s.que.evUnread = true → s.que.evHead ≠ s.que.evTail → Completes .eventBatchExpiry s fun w =>
      w.que.evBatched = some w.clk.time ∧ Fires 0 w ∧ w.que.evHead = s.que.evHead ∧ w.streams = s.streams ∧ w.dram = s.dram) ∧
    (∀ (v : BitVec 6), (agentsOn s = false ∨ s.que.resPending.contains v.toNat = false → exec (.resultHoldoffExpiry v) s = .next s) ∧
      (agentsOn s = true → s.que.resPending.contains v.toNat = true → Completes (.resultHoldoffExpiry v) s fun w =>
        w.que.resPending = del v.toNat s.que.resPending ∧ tabGet w.que.resFired v.toNat = some w.clk.time ∧ Fires v.toNat w ∧
        (∀ u, u ≠ v.toNat → tabGet w.que.resFired u = tabGet s.que.resFired u) ∧ w.streams = s.streams ∧ w.dram = s.dram))

/-- BAR0 accesses follow the rules of 64-bit registers, and the named registers take their values. SEC_DEBUG_REQUEST,
SEC_DEBUG_LOCK, DEBUG_CHALLENGE_LAPSE, CLEAR_LEVELS, REG64_LOW_WORD_READ, REG64_LOW_WORD_WRITE, THM_REGISTER_WRITE and
REGISTER_WRITE complete in every state. A 32-bit read of the low word of a 64-bit register answers it and latches the high
word, which the next read of the high word answers and clears; any other aligned read of 32 bits answers its word; one of
64 bits of a 64-bit register answers both words and clears the latch, of two other words acts as two reads of 32 bits, and
a read of any other size or alignment answers 0. The configuration header shows the vendor, 0F40 and the class code
120000. A write of a low word is held and changes no register; a write of its high word then changes the register as a
whole, and a write of 64 bits does at once; a write of any other size or alignment changes none. In safe halt no write but
that of BBX_READ_INDEX has an effect. THM_ values in range are taken, RATIO but for a release at the same device time, and
others are rejected with cause 0x0E; SEC_DEBUG_CTRL takes SCOPE, makes a challenge with REQUEST and ends debug with LOCK,
a challenge lapses, and CLEAR_LEVELS is kept. (spec/00; spec/12 Table 12.3; R11; R12; R320; R342; R381; R451; R469; R482) -/
def Obligations.RegistersTakeAndGiveValues : Prop :=
  ∀ (off : BitVec 25) (v : DWord) (s : State), let o := off.toNat; let l : Word := v.truncate 32; let h : State := { s with hub.heldLow := none }
    (hostOn s = true →
      (o % 4 = 0 → ∀ w c, (isReg64 o = true → w = regWord s o ∧ c = tabPut s.hub.latches o (regWord s (o + 4))) →
        (isReg64 o = false → 4 ≤ o → isReg64 (o - 4) = true → ∀ x, tabGet s.hub.latches (o - 4) = some x → w = x ∧ c = tabDel s.hub.latches (o - 4)) →
        (isReg64 o = false → (∀ x, 4 ≤ o → isReg64 (o - 4) = true → tabGet s.hub.latches (o - 4) ≠ some x) → w = regWord s o ∧ c = s.hub.latches) →
        exec (.reg64LowWordRead ⟨false, off, 4⟩) s = .next { s with hub.latches := c, hub.busData := leBytes 4 w.toNat, hub.busPoison := false }) ∧
      (o % 8 = 0 → isReg64 o = true → exec (.reg64LowWordRead ⟨false, off, 8⟩) s = .next { s with
        hub.latches := tabDel s.hub.latches o, hub.busData := leBytes 4 (regWord s o).toNat ++ leBytes 4 (regWord s (o + 4)).toNat, hub.busPoison := false }) ∧
      (o % 8 = 0 → isReg64 o = false → ∃ a b, exec (.reg64LowWordRead ⟨false, off, 4⟩) s = .next a ∧ exec (.reg64LowWordRead ⟨false, off + 4, 4⟩) a = .next b ∧
        exec (.reg64LowWordRead ⟨false, off, 8⟩) s = .next { b with hub.busData := a.hub.busData ++ b.hub.busData }) ∧
      (∀ n, ¬ (n = 4 ∧ o % 4 = 0) → ¬ (n = 8 ∧ o % 8 = 0) →
        exec (.reg64LowWordRead ⟨false, off, n⟩) s = .next { s with hub.busData := List.replicate n 0, hub.busPoison := false } ∧
        (s.hub.halted = false → exec (.registerWrite off n v) s = .next h)) ∧
      (∀ n, exec (.reg64LowWordRead ⟨true, off, n⟩) s = .next { s with hub.busData := configRead s o n, hub.busPoison := false }) ∧
      configRead s 0 4 = leBytes 2 s.fixed.vendor.toNat ++ [0x40, 0x0F] ∧ configRead s 8 4 = leBytes 1 s.fixed.stepping.toNat ++ [0x00, 0x00, 0x12]) ∧
    (hostOn s = false → (∀ cfg n, exec (.reg64LowWordRead ⟨cfg, off, n⟩) s = .next s) ∧ (∀ n, exec (.registerWrite off n v) s = .next s) ∧
      exec (.reg64LowWordWrite off l) s = .next s) ∧
    (hostOn s = true → s.hub.halted = true → (∀ n, ¬ (o = 0xA014 ∧ n = 4) → ¬ (o = 0xA010 ∧ n = 8) → exec (.registerWrite off n v) s = .next s) ∧
      (o ≠ 0xA014 → exec (.reg64LowWordWrite off l) s = .next s)) ∧
    (writesOn s = true → o % 4 = 0 → isReg64 o = true → exec (.reg64LowWordWrite off l) s =
      .next { s with hub.latches := tabDel s.hub.latches o, hub.heldLow := some (o, l) }) ∧
    (writesOn s = true → o % 4 = 0 → isReg64 o = false → 4 ≤ o → isReg64 (o - 4) = true → ∀ low,
      low = (match s.hub.heldLow with
        | some (p, w) => if p = o - 4 then w else regWord h (o - 4)
        | none => regWord h (o - 4)) →
      exec (.registerWrite off 4 v) s = .next (writeReg (o - 4) (l ++ low) { h with hub.latches := tabDel s.hub.latches (o - 4) })) ∧
    (writesOn s = true → o % 8 = 0 → isReg64 o = true →
      exec (.registerWrite off 8 v) s = .next (writeReg o v { h with hub.latches := tabDel s.hub.latches o })) ∧
    (writesOn s = true → o % 4 = 0 → isReg64 o = false → (4 ≤ o → isReg64 (o - 4) = false) →
      exec (.registerWrite off 4 v) s = .next (writeReg o (l.zeroExtend 64) h)) ∧
    (writesOn s = true →
      (exec (.registerWrite 0xC008 8 v) s = .next { h with
        hub.latches := tabDel s.hub.latches 0xC008, mmu.root := BitVec.ofNat 64 (v.toNat / 8192 * 8192) }) ∧
      (exec (.registerWrite 0xC040 4 v) s = .next { h with mmu.scrubEn := v.getLsbD 0 }) ∧
      (exec (.registerWrite 0x1124 4 v) s = .next { h with que.holdoffUs := v.truncate 16 })) ∧
    (∀ a : BitVec 12, writesOn s = true → a.toNat % 4 = 0 → a.toNat < 0x30 →
      (∀ t, thmPut a.toNat l s.thm = some t → Completes (.thmRegisterWrite a v false) s fun w =>
        w.thm = { t with ratioOld := w.thm.ratioOld, ratioAt := w.thm.ratioAt } ∧ ratioNow w = ratioNow s ∧
        (a ≠ 0x0C → w = { h with thm := t }) ∧ (a = 0x0C → w.thm.ratio = l.extractLsb' 0 16) ∧ w.streams = s.streams ∧ w.cores = s.cores) ∧
      (thmPut a.toNat l s.thm = none → Completes (.thmRegisterWrite a v false) s fun w => w.thm = s.thm ∧ w.cfg.reject = 0x0E)) ∧
    (writesOn s = true → (1 ≤ fld l 8 8 ∧ fld l 8 8 ≤ 50 → fld l 0 8 ≤ 64 → Completes (.thmRegisterWrite 0x10 v false) s fun w =>
        w.thm.maxMoves.toNat = fld l 0 8 ∧ w.thm.hyst.toNat = fld l 8 8) ∧
      (exec (.thmRegisterWrite 0x48 v true) s = .next { h with
        hub.latches := tabDel s.hub.latches 0x5048, thm.telEn := v.getLsbD 0, thm.telAddr := BitVec.ofNat 64 (v.toNat / 4096 * 4096) })) ∧
    (∀ i ∈ [Instr.secDebugRequest l, .secDebugLock l],
      (writesOn s = false → exec i s = .next s) ∧
      (writesOn s = true → Completes i s fun w => w.sec.dbgScope.toNat = fld l 0 4 ∧ w.sec.slots = s.sec.slots ∧ w.cores = s.cores ∧ w.streams = s.streams ∧
        (bit l 4 = true → w.sec.challengeOut = true ∧ w.sec.challengeAt = s.clk.time ∧ w.sec.challenge.length = 48 ∧
          w.sec.challenge.drop 32 = leBytes 8 s.fixed.serial.toNat ++ leBytes 4 (fld l 0 4) ++ leBytes 4 s.boot.startCount.toNat) ∧
        (bit l 4 = false → w.sec.challengeOut = s.sec.challengeOut ∧ w.sec.challenge = s.sec.challenge) ∧
        (bit l 5 = true → w.sec.scope = 0 ∧ w.sec.unlockRecord = []) ∧
        (bit l 5 = false → w.sec.scope = s.sec.scope ∧ w.sec.unlockRecord = s.sec.unlockRecord))) ∧
    (writesOn s = true → Completes .clearLevels s fun w => w.boot.clearLevels = true ∧ w.boot.log = s.boot.log ∧ w.streams = s.streams) ∧
    (writesOn s = false → exec .clearLevels s = .next s) ∧
    (s.sec.challengeOut = true → agentsOn s = true → Completes .debugChallengeLapse s fun w => w.sec.challengeOut = false ∧
      w.sec.challenge = s.sec.challenge ∧ challengeLive w = false ∧ w.sec.scope = s.sec.scope ∧ w.streams = s.streams) ∧
    (s.sec.challengeOut = false ∨ agentsOn s = false → exec .debugChallengeLapse s = .next s)

/-- Invalidations, walks, and the resume or abort of what waits for a page. While BAR0 takes writes: INVAL_GO starts an
invalidation, whose end removes the TLB entries that it names and no other; a write of MMU_RESUME with reserved bits set,
or that names no outstanding entry, only sets BAD_RESUME; one that names an entry frees it, and its operations go on, or
with ACTION 1 halt, and what waited for a free entry takes it; an engine operation that alone waited for it is suspended
no more. MMU_APER_BASE takes the aperture's page. A walk of a die that reaches a valid entry fills its TLB, and one that
does not reports its kind and fills nothing. Rows that complete here: MMU_INVAL_GO, MMU_INVALIDATION_DONE, MMU_RESUME,
MMU_ABORT, MMU_APER_BASE_WRITE, MMU_WALK_COMPLETE. (spec/11 Table 11.5, Table 11.7; R12; R372; R373; R374; R375; R376;
R378) -/
def Obligations.TranslationIsInvalidatedAndResumed : Prop :=
  ∀ (s : State), let h : State := { s with hub.heldLow := none }
    (∀ v, writesOn s = true → exec (.mmuInvalGo v) s =
      .next { h with mmu.invalPages := BitVec.ofNat 16 (fld v 0 16), mmu.invalGo := s.mmu.invalGo || bit v 31 }) ∧
    (s.mmu.invalGo = true → agentsOn s = true → Completes .mmuInvalidationDone s fun t => t.mmu.invalGo = false ∧ t = { s with mmu := t.mmu } ∧
      (∀ e ∈ s.mmu.tlb, e ∈ t.mmu.tlb ↔ ¬ (s.mmu.invalPages = 0 ∨
        (s.mmu.invalVa.toNat / 65536 ≤ e.2.1 ∧ e.2.1 < s.mmu.invalVa.toNat / 65536 + s.mmu.invalPages.toNat))) ∧ ∀ e ∈ t.mmu.tlb, e ∈ s.mmu.tlb) ∧
    (∀ v, writesOn s = true →
      (fld v 10 6 ≠ 0 ∨ fld v 17 15 ≠ 0 ∨ tabGet s.mmu.faults (fld v 0 10) = none →
        exec (.mmuResume v) s = .next { h with mmu.badResume := true } ∧ exec (.mmuAbort v) s = .next { h with mmu.badResume := true }) ∧
      (fld v 10 6 = 0 → fld v 17 15 = 0 → ∀ e, tabGet s.mmu.faults (fld v 0 10) = some e →
        let u : State := { h with mmu.faults := tabDel s.mmu.faults (fld v 0 10) }
        (bit v 16 = false → exec (.mmuResume v) s = .next (entriesTaken 1024 (e.waiters.foldl (fun s w => resumeWaiter (fld v 0 10) w s) u))) ∧
        (bit v 16 = true → exec (.mmuAbort v) s = .next (entriesTaken 1024 (e.waiters.foldl (fun s w => abortWaiter (fld v 0 10) e w s) u))) ∧
        (e.waiters = [] → waitsForEntry u = none → exec (.mmuResume v) s = .next u ∧ exec (.mmuAbort v) s = .next u) ∧
        (∀ c id o, bit v 16 = false → e.waiters = [(c, id)] → id < 16 → findOp (getCore s c.toNat) id = some o → o.unit ≠ 4 →
          o.suspended = some (fld v 0 10) →
          let w := modCore u c.toNat fun k => putOp k { o with suspended := none, undone := [], replay := [] }
          waitsForEntry w = none → exec (.mmuResume v) s = .next w))) ∧
    (∀ v, writesOn s = true → exec (.mmuAperBaseWrite v) s = .next { h with
      hub.latches := tabDel s.hub.latches 0xC028, mmu.aperBase := BitVec.ofNat 64 (v.toNat % 2 ^ 48 / 65536 * 65536) }) ∧
    (∀ (die : BitVec 4) (va : BitVec 48) (write : Bool), agentsOn s = true → s.pwr.hot = false → inTranslated va.toNat = true → die.toNat < 12 →
      (∀ kind, walk s va.toNat = .error kind → exec (.mmuWalkComplete die va write) s =
        .next { s with mmu.walkFault := some (die, va, BitVec.ofNat 3 kind) }) ∧
      (∀ e, walk s va.toNat = .ok e → Completes (.mmuWalkComplete die va write) s fun t =>
        (write = true → e.getLsbD 1 = false → t.mmu.walkFault = some (die, va, 1)) ∧ (write = false ∨ e.getLsbD 1 = true → t.mmu.walkFault = none) ∧
        ((tlbFind s die.toNat (va.toNat / 65536)).isSome = true → t.mmu.tlb = s.mmu.tlb) ∧
        (tlbFind s die.toNat (va.toNat / 65536) = none → (die, va.toNat / 65536, e) ∈ t.mmu.tlb ∧
          ((s.mmu.tlb.filter fun x => decide (x.1.toNat = die.toNat)).length < 2048 → t.mmu.tlb = s.mmu.tlb ++ [(die, va.toNat / 65536, e)]))))

/-- BAR2 reaches DRAM through its window, reads correct or poison a granule, and the scrubs go on. While the host reaches the
device: BAR2_READ answers the bytes of the present DRAM and 0 beyond it, which sets APER_MISS, and counts a poisoned read;
BAR2_WRITE writes the bytes up to the end of the present DRAM and no other. With DRAM on, a granule read counts each
codeword of one or two bits in error as corrected and changes no data; three bits poison the granule, count it and keep
its address; four or more do as their syndrome selects; a poisoned granule is not judged again. The patrol reads its next
granule and moves on 64 bytes; a demand pass reads its own on the die, and its last granule completes the SCRUB with its
counts. Rows that complete here: BAR2_READ, BAR2_WRITE, DRAM_READ, PATROL_SCRUB_READ, DEMAND_SCRUB_READ. (spec/11; R363;
R364; R367; R368; R369; R377; R378; R402; R406) -/
def Obligations.DramIsReadWrittenAndScrubbed : Prop :=
  ∀ (s : State),
    (∀ (off : BitVec 34) (len : Nat), hostOn s = true → let a := s.mmu.aperBase.toNat + off.toNat; Completes (.bar2Read off len) s fun t =>
      t.hub.busData = (List.range len).map (fun i => if dramPresent s (a + i) then memGet s.dram (a + i) else 0) ∧
      t.hub.busPoison = dramPoisoned s a len ∧ t.dram = s.dram ∧ t.poison = s.poison ∧
      (t.mmu.aperMiss = true ↔ s.mmu.aperMiss = true ∨ ∃ i < len, dramPresent s (a + i) = false) ∧
      t.mmu.poisonCount = (if dramPoisoned s a len then satAdd s.mmu.poisonCount 1 else s.mmu.poisonCount)) ∧
    (∀ (off : BitVec 34) (bs : List Byte), hostOn s = true → Memory.wf s.dram → let a := s.mmu.aperBase.toNat + off.toNat
      Completes (.bar2Write off bs) s fun t => t.cores = s.cores ∧ t.hostMem = s.hostMem ∧
      ((∀ i < bs.length, dramPresent s (a + i) = true) → t.mmu = s.mmu ∧
        ∀ x, memGet t.dram x = if a ≤ x ∧ x < a + bs.length then bs.getD (x - a) 0 else memGet s.dram x) ∧
      (bs ≠ [] → dramPresent s a = false → t.mmu.aperMiss = true ∧ ∀ x, memGet t.dram x = memGet s.dram x)) ∧
    (∀ (a : BitVec 38) (e : CwError) (rest : List CwError), dramOn s = true → dramPresent s a.toNat = true → (∀ x ∈ rest, x.bits = 0) →
      let g := a.toNat / 64 * 64
      (s.poison.contains (a.toNat / 64) = true → exec (.dramRead a (e :: rest)) s = .next s) ∧
      (s.poison.contains (a.toNat / 64) = false →
        (e.bits = 0 → exec (.dramRead a (e :: rest)) s = .next s) ∧
        (e.bits = 1 ∨ e.bits = 2 → Completes (.dramRead a (e :: rest)) s fun t =>
          t.mmu.ce = satAdd s.mmu.ce 1 ∧ t.mmu.ue = s.mmu.ue ∧ t.dram = s.dram ∧ t.poison = s.poison) ∧
        (e.bits = 3 ∨ (4 ≤ e.bits ∧ e.verdict = 1) → Completes (.dramRead a (e :: rest)) s fun t =>
          t.mmu.ue = satAdd s.mmu.ue 1 ∧ t.mmu.ce = s.mmu.ce ∧ t.dram = s.dram ∧ t.poison = ins (g / 64) s.poison ∧
          t.mmu.lastUe = BitVec.ofNat 48 g) ∧
        (4 ≤ e.bits → e.verdict = 0 → Completes (.dramRead a (e :: rest)) s fun t =>
          t.mmu.ce = satAdd s.mmu.ce 1 ∧ t.mmu.ue = s.mmu.ue ∧ t.dram = memWrite s.dram g (leBytes 8 e.wrong.toNat) ∧ t.poison = s.poison) ∧
        (4 ≤ e.bits → 2 ≤ e.verdict.toNat → exec (.dramRead a (e :: rest)) s = .next { s with dram := memWrite s.dram g (leBytes 8 e.wrong.toNat) }))) ∧
    (∀ (die : BitVec 4) errors, dramOn s = true → agentsOn s = true → s.mmu.scrubEn = true → longOf s 0x38 = none →
      (presentDies s).contains die.toNat = true → Completes (.patrolScrubRead die errors) s fun t =>
        tabGetD 0 t.mmu.patrol die.toNat = patrolAt s die.toNat + 64 ∧ (∀ d, d ≠ die.toNat → tabGetD 0 t.mmu.patrol d = patrolAt s d) ∧
        ((∀ x ∈ errors, x.bits = 0) → t.dram = s.dram ∧ t.poison = s.poison ∧ t.mmu.ce = s.mmu.ce ∧ t.mmu.ue = s.mmu.ue)) ∧
    (∀ (die : BitVec 4) errors l, dramOn s = true → agentsOn s = true → longOf s 0x38 = some l → (scrubDies s l.cmd).contains die.toNat = true →
      tabGetD 0 l.dieCursor die.toNat < scrubLen l.cmd →
      (s.waitCmds = [] → s.waitState = [] → (∀ x ∈ errors, x.bits = 0) → scrubDies s l.cmd = [die.toNat] →
        findLong s l.slot = some l →
        let p := tabGetD 0 l.dieCursor die.toNat + 64
        (p < scrubLen l.cmd → Completes (.demandScrubRead die errors) s fun t => t.dram = s.dram ∧ t.poison = s.poison ∧ t.mmu = s.mmu ∧
          ∃ k, findLong t l.slot = some k ∧ k.cmd = l.cmd ∧ tabGetD 0 k.dieCursor die.toNat = p) ∧
        (scrubLen l.cmd ≤ p → Completes (.demandScrubRead die errors) s fun t => t.dram = s.dram ∧ t.poison = s.poison ∧ findLong t l.slot = none ∧
          (getQ t l.cmd.queue.toNat).held = (getQ s l.cmd.queue.toNat).held ++
            [{ cmdId := cmdId l.cmd, status := 0, cause := 0, result := [BitVec.ofNat 32 l.count, BitVec.ofNat 32 l.count2], slot := some l.slot }])))

/-- A port's mode changes through OFF, its link trains and falls, and frames and flits are judged in order. While BAR0 takes
writes, PORT_CTRL takes a port to OFF, which ends its link, or from OFF to ETHERNET or CASCADE, and clears its counters
with CLR; MODE 3, a change between two modes, and any change of a quiesced or excluded port only set BAD_WRITE.
PORT_COUNTER_CLEAR clears the counters only. With the agents running: a lit port in a mode trains, a resumed Quanak link
sending its replay again; PORT_DOWN counts the fall; a frame with a bad FCS is counted and one on another mode's port
ignored, and a good one meets the checks in order; a failed flit is discarded and asked for again; a retry request resends
what is not acknowledged; a link down for 50 ms is lost. Rows that complete here: ETH_FRAME_RECEIVE, PORT_MODE_OFF,
PORT_MODE_ETHERNET, PORT_MODE_CASCADE, PORT_COUNTER_CLEAR, PORT_LINK_UP, PORT_DOWN, FLIT_RECEIVE, RETRY_REQUEST,
LINK_LOST_EXPIRY. (spec/13; R408; R409; R410; R411; R412; R416; R421; R422; R423; R429; R440) -/
def Obligations.PortsChangeModeAndCarryFrames : Prop :=
  ∀ (p : PortId) (s : State), let n := p.toNat; let x := getPort s n; let h : State := { s with hub.heldLow := none }
    (∀ v : Word, writesOn s = true → let m := fld v 0 2
      let y : Port := if bit v 2 then { x with long := Port.init.long, ctr := Port.init.ctr } else x
      (∀ i ∈ [Instr.portModeOff p v, .portModeEthernet p v, .portModeCascade p v],
        ((m ≠ x.mode.toNat ∧ ((x.mode ≠ 0 ∧ m ≠ 0) ∨ x.quiescedMode.isSome = true ∨ x.excluded = true)) ∨ m = 3 →
          exec i s = .next (modPort h n fun z => { z with badWrite := true })) ∧
        (m ≠ 3 → m = x.mode.toNat → Completes i s fun t => getPort t n = y ∧ ∀ q, q ≠ n → getPort t q = getPort s q)) ∧
      (m = 0 → x.mode ≠ 0 → x.quiescedMode = none → x.excluded = false → Completes (.portModeOff p v) s fun t =>
        (getPort t n).mode = 0 ∧ (getPort t n).active = 0 ∧ (getPort t n).linkUp = false ∧ (getPort t n).lanes = 0 ∧
        (getPort t n).ctr = (if x.linkUp then vmod 0 y.ctr 16 (fun w => satAdd w 1) else y.ctr) ∧ ∀ q, q ≠ n → getPort t q = getPort s q) ∧
      (∀ i, (m, i) ∈ [(1, Instr.portModeEthernet p v), (2, .portModeCascade p v)] → x.mode = 0 → x.quiescedMode = none → x.excluded = false →
        Completes i s fun t => getPort t n = { y with mode := BitVec.ofNat 2 m, active := BitVec.ofNat 2 m, link := Link.init } ∧
          ∀ q, q ≠ n → getPort t q = getPort s q)) ∧
    (writesOn s = true → exec (.portCounterClear p) s = .next (modPort h n fun z => { z with long := Port.init.long, ctr := Port.init.ctr })) ∧
    (agentsOn s = true → s.pwr.hot = false → x.active ≠ 0 → x.laserOff = false → x.excluded = false → x.linkUp = false →
      (x.active ≠ 2 → exec (.portLinkUp p) s = .next (modPort s n fun z => { z with linkUp := true, lanes := 15 })) ∧
      (x.active = 2 → x.link.retraining.isSome = true → x.link.lost = false → x.link.outbox = [] → Completes (.portLinkUp p) s fun t =>
        getPort t n = { x with linkUp := true, lanes := 15, tx := x.tx ++ x.link.replay, link := { x.link with retraining := none, retries := 0 } }) ∧
      (x.active = 2 → x.link.retraining = none ∨ x.link.lost = true → s.cas.topo = 0 → Completes (.portLinkUp p) s fun t =>
        getPort t n = { x with linkUp := true, lanes := 15, link := Link.init })) ∧
    (agentsOn s = true → x.linkUp = true → Completes (.portDown p) s fun t =>
      (getPort t n).linkUp = false ∧ (getPort t n).mode = x.mode ∧ (getPort t n).ctr = vmod 0 x.ctr 16 (fun w => satAdd w 1) ∧
      (x.active = 2 → (getPort t n).link.retraining = some s.clk.time) ∧ ∀ q, q ≠ n → getPort t q = getPort s q) ∧
    (∀ (f : List Byte) (fec : FecCount) (stamp : DWord), agentsOn s = true → s.pwr.hot = false → let u := advanceTo s stamp.toNat
      (x.active ≠ 1 ∨ x.linkUp = false → exec (.ethFrameReceive p f fec stamp) s = .next u) ∧
      (x.active = 1 → x.linkUp = true → fec.failed ≠ 0 ∨ fcsOk f = false →
        exec (.ethFrameReceive p f fec stamp) s = .next (bumpCtr n ctrFcs 1 (countFec n fec u))) ∧
      (x.active = 1 → x.linkUp = true → fec.failed = 0 → fcsOk f = true →
        let w := bumpLong n 1 f.length (bumpLong n 0 1 (countFec n fec u))
        (9216 < f.length → exec (.ethFrameReceive p f fec stamp) s = .next (bumpCtr n ctrOversize 1 w)) ∧
        (f.length ≤ 9216 → beAt f 12 2 ≠ 0x8808 → vlanOk x f = false → exec (.ethFrameReceive p f fec stamp) s = .next (bumpCtr n ctrVlan 1 w)) ∧
        (f.length ≤ 9216 → beAt f 12 2 ≠ 0x8808 → vlanOk x f = true → macOk x f = true → etherType f = 0x0806 → arpForUs x (packetOf f) = true →
          Completes (.ethFrameReceive p f fec stamp) s fun t => (getPort t n).tx = x.tx ++ [arpReply x (packetOf f)]) ∧
        (∀ b g v, f.length ≤ 9216 → beAt f 12 2 ≠ 0x8808 → vlanOk x f = true → macOk x f = true → etherType f ≠ 0x0806 →
          icmp6 f (packetOf f) = false → ipAddrOk x f (packetOf f) = true → ipFragment f (packetOf f) = false → ipOk f (packetOf f) = true →
          udpOurs x f (packetOf f) = true → datagramIn f (packetOf f) = some b → (datagramOf b).flow < x.flowCount.toNat →
          (flowAt w x (datagramOf b).flow).valid = true →
          takeDatagram (flowAt w x (datagramOf b).flow).stream stamp.toNat (datagramOf b) w = .ok (g, v) → crosses v = false →
          exec (.ethFrameReceive p f fec stamp) s = .next (bumpCtr n ctrGap g v)))) ∧
    (∀ (f : List Byte) (fec : FecCount), agentsOn s = true → s.pwr.hot = false → quanakUp s n = true → let u := countFec n fec s
      (flitOk f = false → x.link.retries < 8 → Completes (.flitReceive p ⟨f, fec⟩) s fun t =>
        (getPort t n).ctr = vmod 0 (getPort u n).ctr 17 (fun w => satAdd w 1) ∧ (getPort t n).link.discarding = true ∧
        (getPort t n).link.retries = x.link.retries + 1 ∧ (getPort t n).tx.length = x.tx.length + 1) ∧
      (flitOk f = true → x.link.outbox = [] →
        ((flitOf f).type = 0 ∨ (flitOf f).type = 2 → exec (.flitReceive p ⟨f, fec⟩) s = .next (takeHeader n (flitOf f) u)) ∧
        ((flitOf f).type = 1 → (flitOf f).seq = x.link.rxSeq.toNat → exec (.flitReceive p ⟨f, fec⟩) s = .next (acceptFlit n (flitOf f) (takeHeader n (flitOf f) u))) ∧
        ((flitOf f).type = 1 → (flitOf f).seq ≠ x.link.rxSeq.toNat → x.link.discarding = true → Completes (.flitReceive p ⟨f, fec⟩) s fun t =>
          (getPort t n).link.rxSeq = x.link.rxSeq ∧ (getPort t n).tx = x.tx ∧ t.cas = s.cas))) ∧
    (∀ ack : BitVec 12, agentsOn s = true → quanakUp s n = true → x.link.outbox = [] →
      let gone := (ack.toNat + 4096 - x.link.acked.toNat) % 4096
      gone ≤ x.link.replay.length → Completes (.retryRequest p ack) s fun t =>
        (getPort t n).link.replay = x.link.replay.drop gone ∧ (getPort t n).link.acked = ack ∧
        (getPort t n).tx = x.tx ++ x.link.replay.drop gone ∧ (getPort t n).ctr = vmod 0 x.ctr 18 (fun w => satAdd w 1)) ∧
    (∀ t0, agentsOn s = true → x.linkUp = false → x.link.lost = false → x.link.retraining = some t0 →
      exec (.linkLostExpiry p) s = .next (linkLost n false (advanceTo s (t0.toNat + 50000000))) ∧
      (s.cas.state ≠ 2 → s.cas.state ≠ 4 → x.link.replay = [] → (∀ q, q < 16 → (getLink s q).outbox = []) → Completes (.linkLostExpiry p) s fun t =>
        (getLink t n).lost = true ∧ (getLink t n).retraining = none))

/-- A cascade forms or fails, heartbeats are sent and missed, a lost master leaves SAFE, and remote accesses end. While BAR0
takes writes: CAS_CTRL takes TOPO and SIZE in SINGLE or FAILED, which begins FORMING, or with TOPO 0 stays SINGLE; in any
other state a change only sets BAD_WRITE; LOCAL takes effect in SAFE only; CAS_REMOTE with GO to another member ends with
the word read, the write accepted, or REMOTE_ERR, and is not taken while GO reads 1. With the agents running: after 2 s
FORMING becomes FORMED, or FAILED with its cause; the master in FORMED sends its beat 10 us after the last; a member
counts a missed one; after 2 ms without one it is in SAFE with cause 6, and raises CAS_MASTER_LOST. Rows that complete
here: CAS_TOPO_WRITE, CASCADE_FORM_TIMEOUT, HEARTBEAT_SEND, CAS_MASTER_LOST, CAS_LOCAL, CAS_REMOTE_READ, CAS_REMOTE_WRITE,
HEARTBEAT_MISS. (spec/13; R425; R426; R427; R429; R430) -/
def Obligations.TheCascadeFormsAndIsWatched : Prop :=
  ∀ (s : State), let h : State := { s with hub.heldLow := none }
    (∀ v : Word, writesOn s = true →
      (s.cas.state = 0 ∨ s.cas.state = 3 → (∀ p, p < 16 → quanakUp s p = false) → Completes (.casTopoWrite v) s fun t =>
        t.cas.topo.toNat = fld v 0 2 ∧ t.cas.size.toNat = fld v 2 4 ∧ t.cas.state = (if fld v 0 2 = 0 then 0 else 1) ∧ t.cas.members = 0 ∧
        t.cas.idents = [] ∧ t.cas.localOn = false ∧ t.cas.formSince = s.clk.time ∧ t.ports = s.ports ∧ t.streams = s.streams) ∧
      (s.cas.state ≠ 0 → s.cas.state ≠ 3 →
        (fld v 0 2 ≠ s.cas.topo.toNat ∨ fld v 2 4 ≠ s.cas.size.toNat → exec (.casTopoWrite v) s = .next { h with cas.badWrite := true }) ∧
        (fld v 0 2 = s.cas.topo.toNat → fld v 2 4 = s.cas.size.toNat → exec (.casTopoWrite v) s = .next h))) ∧
    (writesOn s = true → (s.cas.state = 4 → exec .casLocal s = .next { h with cas.localOn := true }) ∧ (s.cas.state ≠ 4 → exec .casLocal s = .next h)) ∧
    (agentsOn s = true → s.cas.state = 1 → let u := advanceTo s (s.cas.formSince.toNat + 2000000000)
      (formCause u = 0 → Completes .cascadeFormTimeout s fun t => t.cas.state = 2 ∧ t.cas.cause = 0 ∧ t.cas.members = memberMask u ∧
        t.cas.lastBeat = u.clk.time ∧ t.clk = u.clk) ∧
      (formCause u ≠ 0 → exec .cascadeFormTimeout s = .next { u with cas.state := 3, cas.cause := BitVec.ofNat 4 (formCause u) })) ∧
    (agentsOn s = true → s.cas.state = 2 → s.cas.master = s.hub.cascId → ∃ u, u.cas = { s.cas with lastBeat := u.clk.time } ∧ u.ports = s.ports ∧
      (s.cas.lastBeat.toNat + 10000 < 2 ^ 64 → s.cas.lastBeat.toNat + 10000 ≤ now u) ∧ exec .heartbeatSend s =
        .next (((List.range 16).filter fun i => s.cas.members.getLsbD i && decide (i ≠ s.hub.cascId.toNat)).foldl (fun w i => sendMsg 3 i 0 (.beat u.clk.time) w) u)) ∧
    (agentsOn s = true → s.cas.state = 2 → s.cas.master ≠ s.hub.cascId → Completes .heartbeatMiss s fun t =>
      t.cas = { s.cas with hbMiss := satAdd s.cas.hbMiss 1 } ∧ t.streams = s.streams) ∧
    (agentsOn s = true → s.cas.state = 2 → s.cas.master ≠ s.hub.cascId → ∃ w, exec .casMasterLost s = .next (memberLost s.cas.master.toNat w) ∧
      w.cas = { s.cas with state := 4, cause := 6, localOn := false } ∧ (s.cas.lastBeat.toNat + 2000000 < 2 ^ 64 → s.cas.lastBeat.toNat + 2000000 ≤ now w) ∧
      w.streams = s.streams) ∧
    (∀ (v : Word) (i : Instr) (ans : Option Word),
      (bit v 24 = false ∧ i = .casRemoteRead v ans) ∨ (bit v 24 = true ∧ ∃ ok, i = .casRemoteWrite v ok ∧ ans = if ok then some 0 else none) → writesOn s = true →
      (bit s.cas.remote 31 = true → exec i s = .next h) ∧
      (bit s.cas.remote 31 = false → bit v 31 = true → fld v 20 4 ≠ s.hub.cascId.toNat →
        (s.cas.members.getLsbD (fld v 20 4) = true → Completes i s fun t => t.cas.remote = v &&& 0x01FFFFFF ∧
          (ans = none → t.cas.remoteErr = true ∧ t.cas.remoteData = s.cas.remoteData) ∧
          (∀ w, ans = some w → t.cas.remoteErr = s.cas.remoteErr ∧ t.cas.remoteData = if bit v 24 then s.cas.remoteData else w)) ∧
        (s.cas.members.getLsbD (fld v 20 4) = false → Completes i s fun t => t.cas.remote = v &&& 0x01FFFFFF ∧ t.cas.remoteErr = true ∧ t.ports = s.ports)))

/-- Laser modules are seated and removed, fault, lose their bus, fail authentication, and keep their wear. LM_PRESENT_FALL
seats a module and counts the insertion; LM_PRESENT_RISE leaves its module absent, disabled and unauthenticated, with
REMOVED as its fault unless it was quiesced. With the agents running: LM_FAULT_FALL of an enabled module disables it with
MODULE_FAULT, darkening its four ports; a module of known serial whose bus fails is marked and stays as it was; a
challenge without an answer for 500 ms fails with cause 5, and leaves the module disabled, or enabled where an override
names its serial; after 3,600 s of enabled time the wear is written into the module, unless its bus is dead. No other
module changes. Rows that complete here: LM_PRESENT_FALL, LM_PRESENT_RISE, LM_FAULT_FALL, LASER_BUS_FAIL,
LASER_AUTH_TIMEOUT, LASER_WEAR_RECORD_WRITE. (spec/14; R433; R434; R435; R437; R439; R440; R441) -/
def Obligations.LaserModulesComeAndGo : Prop :=
  ∀ (m : ModuleId) (s : State), let n := m.toNat; let l := getLaser s n
    (Completes (.lmPresentFall m) s fun t => (getLaser t n).present = true ∧
      (getLaser t n).insertions = (if l.present then l.insertions else satAdd l.insertions 1) ∧ (getLaser t n).serial = l.serial ∧
      ∀ k, k ≠ n → getLaser t k = getLaser s k) ∧
    (l.present = false → exec (.lmPresentRise m) s = .next s) ∧
    (l.present = true → Completes (.lmPresentRise m) s fun t => (getLaser t n).present = false ∧ (getLaser t n).en = false ∧
      (getLaser t n).auth = false ∧ (getLaser t n).override = false ∧
      (agentsOn s = true → l.quiesced = false → (getLaser t n).fault = true ∧ (getLaser t n).faultCause = 2 ∧
        ∀ p ∈ laserPorts n, (getPort t p).laserOff = true ∧ (getPort t p).linkUp = false) ∧
      (l.quiesced = true → (getLaser t n).fault = l.fault ∧ t.ports = s.ports) ∧ ∀ k, k ≠ n → getLaser t k = getLaser s k) ∧
    (agentsOn s = true → l.en = true → Completes (.lmFaultFall m) s fun t => getLaser t n = { l with en := false, fault := true, faultCause := 1 } ∧
      (∀ p ∈ laserPorts n, (getPort t p).laserOff = true ∧ (getPort t p).linkUp = false) ∧ ∀ k, k ≠ n → getLaser t k = getLaser s k) ∧
    (agentsOn s = true → l.present = true → laserKnown l = true → l.busDead = false → Completes (.laserBusFail m) s fun t =>
      getLaser t n = { l with busDead := true, fault := true, faultCause := 3 } ∧ t.ports = s.ports ∧ ∀ k, k ≠ n → getLaser t k = getLaser s k) ∧
    (∀ t0, agentsOn s = true → l.challengeAt = some t0 → resumeSlot s n = none → Completes (.laserAuthTimeout m) s fun t =>
      (getLaser t n).challengeAt = none ∧ (getLaser t n).authCause = 5 ∧ (getLaser t n).auth = false ∧
      (l.present = false ∨ overridden s l.serial = false → (getLaser t n).en = false ∧ (getLaser t n).override = false) ∧
      (l.present = true → overridden s l.serial = true → (getLaser t n).en = true ∧ (getLaser t n).override = true) ∧
      ∀ k, k ≠ n → getLaser t k = getLaser s k) ∧
    (agentsOn s = true → l.en = true → 3600 ≤ l.enabledS → Completes (.laserWearRecordWrite m) s fun t => (getLaser t n).enabledS = 0 ∧
      (l.busDead = false → tabGet (getLaser t n).moduleRecord l.serial.toNat = some l.wearS) ∧ (l.busDead = true → (getLaser t n).moduleRecord = l.moduleRecord) ∧
      (getLaser t n).wearS = l.wearS ∧ ∀ k, k ≠ n → getLaser t k = getLaser s k)

/-- A step runs the command at the front of the queue; on an empty queue the block goes on by itself. For every command c and
state s with c at the front of its queue, step of s is exec of c on s with the queue's rest. On an empty queue a step
answers a next state (the model's choice, log entry 3): while the hub's agents stand still, or in D3hot, only the clock
and the shares of device time that cores have had differ; and in a block without cores, streams, commands, copies and
compactions in progress, only the clock does. (spec/00) -/
def Obligations.StepRunsTheFrontCommand : Prop :=
  (∀ (c : Instr) (rest : List Instr) (s : State), s.pending = c :: rest → step s = exec c { s with pending := rest }) ∧
  (∀ s : State, s.pending = [] → ∃ t, step s = .next t ∧
    (agentsOn s = false ∨ s.pwr.hot = true → t = { s with clk := t.clk, cores := t.cores } ∧ t = idle s) ∧
    (s.cores = [] → s.streams = [] → s.jnl.compacting = false → copying s = none → (∀ i, i < 16 → (getPrg s i).active = false) →
      t = { s with clk := t.clk }))

/-- After reset the registers hold the reset values of their tables, nothing is in progress, and memory is in canonical form.
In the state after reset QUE_RES_HOLDOFF reads 100, the THM_ registers their table's values, MMU_SCRUB_CTRL.EN 1 and
LASER_OFF of every port 1; every queue is disabled with no error, every stream FREE, no image in force and the cascade
SINGLE; no command waits, and every memory has the canonical form. That an unlisted byte of memory reads 0 is the model's
choice (log entry 4). (spec/09 Table 9.8; spec/11 Table 11.7; spec/12 Table 12.5; spec/13 Table 13.1; R282; R319; R387;
R407) -/
def Obligations.ResetLeavesTheSpecsValues : Prop :=
  let s := State.reset
  (∀ e ∈ [(0x1124, 100), (0x1130, 0), (0x5000, 3), (0x5004, 80), (0x5008, 90), (0x500C, 0x40), (0x5010, 0x508), (0x5014, 240), (0x5018, 80),
      (0x501C, 64), (0x5020, 0x819), (0x5024, 0x819), (0x5028, 0x819), (0x502C, 0x819), (0xC000, 0), (0xC040, 1)],
    (regWord s e.1).toNat = e.2) ∧
  (∀ p : PortId, (getPort s p.toNat).laserOff = true ∧ (getPort s p.toNat).mode = 0 ∧ (getPort s p.toNat).linkUp = false) ∧
  (∀ q : BitVec 2, (getQ s q.toNat).cmdEn = false ∧ (getQ s q.toNat).cplEn = false) ∧ s.que.evEn = false ∧ s.que.err = 0 ∧
  (∀ n : StreamId, (getStream s n.toNat).state = .free) ∧ s.cfg.cur = none ∧ s.cfg.epoch = 0 ∧ s.cas.state = 0 ∧ s.pending = [] ∧ s.long = [] ∧
  Memory.wf s.dram ∧ Memory.wf s.hostMem ∧ (∀ c : CoreId, Memory.wf (getCore s c.toNat).sp) ∧ ∀ a, memGet s.dram a = 0 ∧ memGet s.hostMem a = 0

/-- A control-core instruction is read back from the word that encodes it, and a readable word has one encoding. For every
instruction of the control core, at every value of its operands: the word that encodes it decodes to it on its core. Every
word that decodes to an instruction decodes to one that has an encoding, which decodes to the same. (spec/07 Table 7.8,
Table 7.9; R239) -/
def Obligations.ControlCoreWordsRoundTrip : Prop :=
  (∀ (i : Instr) (w : Word), ccEncode i = some w → ∃ core, ccDecode core w = some i) ∧
  (∀ (core : CoreId) (w : Word) (i : Instr), ccDecode core w = some i → ∃ v, ccEncode i = some v ∧ ccDecode core v = some i)

/-- Every step keeps DRAM and host memory in canonical form: addresses strictly rise and no listed byte is 0. For every state
in which the list of DRAM's bytes and the list of host memory's bytes have strictly rising addresses and no entry equal to
what an unlisted address reads as, and every command at the front of the queue: if the step answers a next state, both
lists have that form there too. That State.reset has it is a clause of ResetLeavesTheSpecsValues. (spec/11; R357; R363;
R371) -/
def Obligations.MemoriesStayCanonical : Prop :=
  ∀ s t : State, Memory.wf s.dram → Memory.wf s.hostMem → step s = .next t → Memory.wf t.dram ∧ Memory.wf t.hostMem
end

