-- ==== Sys2Proof/Laws/State.lean ====
section
/-! SUPPORT. What the updates of State and of a core leave unchanged, one lemma a field, and what they set: the
lemmas that later proofs cite instead of unfolding a record update. -/

namespace Sys2Proof.Laws

open Sys2Proof.Machine

/-! Sparse tables. -/

theorem tabGet_tabPut_same {α : Type} (t : Table α) (i : Nat) (x : α) : tabGet (tabPut t i x) i = some x := by
  induction t with
  | nil => simp [tabPut, tabGet]
  | cons e r ih =>
    obtain ⟨k, v⟩ := e
    simp only [tabPut]
    split
    · simp [tabGet]
    · split
      · simp [tabGet]
      · have h : k ≠ i := by omega
        simp [tabGet, h, ih]

theorem tabGet_tabPut_other {α : Type} (t : Table α) (i j : Nat) (x : α) (h : j ≠ i) :
    tabGet (tabPut t i x) j = tabGet t j := by
  induction t with
  | nil => simp [tabPut, tabGet, h.symm]
  | cons e r ih =>
    obtain ⟨k, v⟩ := e
    simp only [tabPut]
    split
    · simp [tabGet, h.symm]
    · split
      · rename_i _ hk
        subst hk
        simp [tabGet, h.symm]
      · simp [tabGet, ih]

theorem tabGet_tabDel_same {α : Type} (t : Table α) (i : Nat) : tabGet (tabDel t i) i = none := by
  induction t with
  | nil => rfl
  | cons e r ih =>
    obtain ⟨k, v⟩ := e
    by_cases h : k = i
    · simpa [tabDel, h] using ih
    · have : tabDel ((k, v) :: r) i = (k, v) :: tabDel r i := by simp [tabDel, h]
      rw [this]
      simp [tabGet, h, ih]

theorem tabGet_tabDel_other {α : Type} (t : Table α) (i j : Nat) (h : j ≠ i) : tabGet (tabDel t i) j = tabGet t j := by
  induction t with
  | nil => rfl
  | cons e r ih =>
    obtain ⟨k, v⟩ := e
    by_cases hk : k = i
    · have : tabDel ((k, v) :: r) i = tabDel r i := by simp [tabDel, hk]
      rw [this, ih]
      simp [tabGet, hk, h.symm]
    · have : tabDel ((k, v) :: r) i = (k, v) :: tabDel r i := by simp [tabDel, hk]
      rw [this]
      simp [tabGet, ih]

@[simp] theorem tabGetD_tabSetD_same {α : Type} [DecidableEq α] (d : α) (t : Table α) (i : Nat) (x : α) :
    tabGetD d (tabSetD d t i x) i = x := by
  unfold tabSetD tabGetD
  split
  · rename_i h
    simp [tabGet_tabDel_same, h]
  · simp [tabGet_tabPut_same]

theorem tabGetD_tabSetD_other {α : Type} [DecidableEq α] (d : α) (t : Table α) (i j : Nat) (x : α) (h : j ≠ i) :
    tabGetD d (tabSetD d t i x) j = tabGetD d t j := by
  unfold tabSetD tabGetD
  split
  · rw [tabGet_tabDel_other _ _ _ h]
  · rw [tabGet_tabPut_other _ _ _ _ h]

/-! Vectors by number. -/

@[simp] theorem vget_vset_same {α : Type} {n : Nat} (d : α) (v : Vector α n) (i : Nat) (x : α) (h : i < n) :
    vget d (vset v i x) i = x := by
  simp [vget, vset, h]

theorem vget_vset_other {α : Type} {n : Nat} (d : α) (v : Vector α n) (i j : Nat) (x : α) (h : j ≠ i) :
    vget d (vset v i x) j = vget d v j := by
  unfold vget vset
  split
  · simp [h.symm]
  · rfl

/-! Cores and streams by number. -/

@[simp] theorem getCore_setCore_same (s : State) (c : Nat) (k : Core) : getCore (setCore s c k) c = k := by
  simp [getCore, setCore]

theorem getCore_setCore_other (s : State) (c d : Nat) (k : Core) (h : d ≠ c) : getCore (setCore s c k) d = getCore s d := by
  simp [getCore, setCore, tabGetD_tabSetD_other _ _ _ _ _ h]

@[simp] theorem getStream_setStream_same (s : State) (n : Nat) (x : Stream) : getStream (setStream s n x) n = x := by
  simp [getStream, setStream]

theorem getStream_setStream_other (s : State) (n m : Nat) (x : Stream) (h : m ≠ n) :
    getStream (setStream s n x) m = getStream s m := by
  simp [getStream, setStream, tabGetD_tabSetD_other _ _ _ _ _ h]

@[simp] theorem getStream_setCore (s : State) (c n : Nat) (k : Core) : getStream (setCore s c k) n = getStream s n := rfl
@[simp] theorem getCore_setStream (s : State) (c n : Nat) (x : Stream) : getCore (setStream s n x) c = getCore s c := rfl

/-! setCore: the fields it leaves. -/

@[simp] theorem setCore_pending (s : State) (c : Nat) (k : Core) : (setCore s c k).pending = s.pending := rfl
@[simp] theorem setCore_fresh (s : State) (c : Nat) (k : Core) : (setCore s c k).fresh = s.fresh := rfl
@[simp] theorem setCore_fixed (s : State) (c : Nat) (k : Core) : (setCore s c k).fixed = s.fixed := rfl
@[simp] theorem setCore_hub (s : State) (c : Nat) (k : Core) : (setCore s c k).hub = s.hub := rfl
@[simp] theorem setCore_clk (s : State) (c : Nat) (k : Core) : (setCore s c k).clk = s.clk := rfl
@[simp] theorem setCore_pwr (s : State) (c : Nat) (k : Core) : (setCore s c k).pwr = s.pwr := rfl
@[simp] theorem setCore_que (s : State) (c : Nat) (k : Core) : (setCore s c k).que = s.que := rfl
@[simp] theorem setCore_prg (s : State) (c : Nat) (k : Core) : (setCore s c k).prg = s.prg := rfl
@[simp] theorem setCore_long (s : State) (c : Nat) (k : Core) : (setCore s c k).long = s.long := rfl
@[simp] theorem setCore_waitCmds (s : State) (c : Nat) (k : Core) : (setCore s c k).waitCmds = s.waitCmds := rfl
@[simp] theorem setCore_waitState (s : State) (c : Nat) (k : Core) : (setCore s c k).waitState = s.waitState := rfl
@[simp] theorem setCore_evt (s : State) (c : Nat) (k : Core) : (setCore s c k).evt = s.evt := rfl
@[simp] theorem setCore_bay (s : State) (c : Nat) (k : Core) : (setCore s c k).bay = s.bay := rfl
@[simp] theorem setCore_jnl (s : State) (c : Nat) (k : Core) : (setCore s c k).jnl = s.jnl := rfl
@[simp] theorem setCore_cfg (s : State) (c : Nat) (k : Core) : (setCore s c k).cfg = s.cfg := rfl
@[simp] theorem setCore_thm (s : State) (c : Nat) (k : Core) : (setCore s c k).thm = s.thm := rfl
@[simp] theorem setCore_mmu (s : State) (c : Nat) (k : Core) : (setCore s c k).mmu = s.mmu := rfl
@[simp] theorem setCore_dram (s : State) (c : Nat) (k : Core) : (setCore s c k).dram = s.dram := rfl
@[simp] theorem setCore_poison (s : State) (c : Nat) (k : Core) : (setCore s c k).poison = s.poison := rfl
@[simp] theorem setCore_hostMem (s : State) (c : Nat) (k : Core) : (setCore s c k).hostMem = s.hostMem := rfl
@[simp] theorem setCore_streams (s : State) (c : Nat) (k : Core) : (setCore s c k).streams = s.streams := rfl
@[simp] theorem setCore_mesh (s : State) (c : Nat) (k : Core) : (setCore s c k).mesh = s.mesh := rfl
@[simp] theorem setCore_passed (s : State) (c : Nat) (k : Core) : (setCore s c k).passed = s.passed := rfl
@[simp] theorem setCore_starvedArb (s : State) (c : Nat) (k : Core) : (setCore s c k).starvedArb = s.starvedArb := rfl
@[simp] theorem setCore_ports (s : State) (c : Nat) (k : Core) : (setCore s c k).ports = s.ports := rfl
@[simp] theorem setCore_cas (s : State) (c : Nat) (k : Core) : (setCore s c k).cas = s.cas := rfl
@[simp] theorem setCore_las (s : State) (c : Nat) (k : Core) : (setCore s c k).las = s.las := rfl
@[simp] theorem setCore_sec (s : State) (c : Nat) (k : Core) : (setCore s c k).sec = s.sec := rfl
@[simp] theorem setCore_boot (s : State) (c : Nat) (k : Core) : (setCore s c k).boot = s.boot := rfl
@[simp] theorem setCore_tap (s : State) (c : Nat) (k : Core) : (setCore s c k).tap = s.tap := rfl

/-! setStream: the fields it leaves. -/

@[simp] theorem setStream_pending (s : State) (n : Nat) (x : Stream) : (setStream s n x).pending = s.pending := rfl
@[simp] theorem setStream_fresh (s : State) (n : Nat) (x : Stream) : (setStream s n x).fresh = s.fresh := rfl
@[simp] theorem setStream_fixed (s : State) (n : Nat) (x : Stream) : (setStream s n x).fixed = s.fixed := rfl
@[simp] theorem setStream_hub (s : State) (n : Nat) (x : Stream) : (setStream s n x).hub = s.hub := rfl
@[simp] theorem setStream_clk (s : State) (n : Nat) (x : Stream) : (setStream s n x).clk = s.clk := rfl
@[simp] theorem setStream_pwr (s : State) (n : Nat) (x : Stream) : (setStream s n x).pwr = s.pwr := rfl
@[simp] theorem setStream_que (s : State) (n : Nat) (x : Stream) : (setStream s n x).que = s.que := rfl
@[simp] theorem setStream_prg (s : State) (n : Nat) (x : Stream) : (setStream s n x).prg = s.prg := rfl
@[simp] theorem setStream_long (s : State) (n : Nat) (x : Stream) : (setStream s n x).long = s.long := rfl
@[simp] theorem setStream_waitCmds (s : State) (n : Nat) (x : Stream) : (setStream s n x).waitCmds = s.waitCmds := rfl
@[simp] theorem setStream_waitState (s : State) (n : Nat) (x : Stream) : (setStream s n x).waitState = s.waitState := rfl
@[simp] theorem setStream_evt (s : State) (n : Nat) (x : Stream) : (setStream s n x).evt = s.evt := rfl
@[simp] theorem setStream_bay (s : State) (n : Nat) (x : Stream) : (setStream s n x).bay = s.bay := rfl
@[simp] theorem setStream_jnl (s : State) (n : Nat) (x : Stream) : (setStream s n x).jnl = s.jnl := rfl
@[simp] theorem setStream_cfg (s : State) (n : Nat) (x : Stream) : (setStream s n x).cfg = s.cfg := rfl
@[simp] theorem setStream_thm (s : State) (n : Nat) (x : Stream) : (setStream s n x).thm = s.thm := rfl
@[simp] theorem setStream_mmu (s : State) (n : Nat) (x : Stream) : (setStream s n x).mmu = s.mmu := rfl
@[simp] theorem setStream_dram (s : State) (n : Nat) (x : Stream) : (setStream s n x).dram = s.dram := rfl
@[simp] theorem setStream_poison (s : State) (n : Nat) (x : Stream) : (setStream s n x).poison = s.poison := rfl
@[simp] theorem setStream_hostMem (s : State) (n : Nat) (x : Stream) : (setStream s n x).hostMem = s.hostMem := rfl
@[simp] theorem setStream_cores (s : State) (n : Nat) (x : Stream) : (setStream s n x).cores = s.cores := rfl
@[simp] theorem setStream_mesh (s : State) (n : Nat) (x : Stream) : (setStream s n x).mesh = s.mesh := rfl
@[simp] theorem setStream_passed (s : State) (n : Nat) (x : Stream) : (setStream s n x).passed = s.passed := rfl
@[simp] theorem setStream_starvedArb (s : State) (n : Nat) (x : Stream) : (setStream s n x).starvedArb = s.starvedArb := rfl
@[simp] theorem setStream_ports (s : State) (n : Nat) (x : Stream) : (setStream s n x).ports = s.ports := rfl
@[simp] theorem setStream_cas (s : State) (n : Nat) (x : Stream) : (setStream s n x).cas = s.cas := rfl
@[simp] theorem setStream_las (s : State) (n : Nat) (x : Stream) : (setStream s n x).las = s.las := rfl
@[simp] theorem setStream_sec (s : State) (n : Nat) (x : Stream) : (setStream s n x).sec = s.sec := rfl
@[simp] theorem setStream_boot (s : State) (n : Nat) (x : Stream) : (setStream s n x).boot = s.boot := rfl
@[simp] theorem setStream_tap (s : State) (n : Nat) (x : Stream) : (setStream s n x).tap = s.tap := rfl

/-! modPort: the fields it leaves. -/

@[simp] theorem modPort_pending (s : State) (p : Nat) (f : Port → Port) : (modPort s p f).pending = s.pending := rfl
@[simp] theorem modPort_fresh (s : State) (p : Nat) (f : Port → Port) : (modPort s p f).fresh = s.fresh := rfl
@[simp] theorem modPort_fixed (s : State) (p : Nat) (f : Port → Port) : (modPort s p f).fixed = s.fixed := rfl
@[simp] theorem modPort_hub (s : State) (p : Nat) (f : Port → Port) : (modPort s p f).hub = s.hub := rfl
@[simp] theorem modPort_clk (s : State) (p : Nat) (f : Port → Port) : (modPort s p f).clk = s.clk := rfl
@[simp] theorem modPort_pwr (s : State) (p : Nat) (f : Port → Port) : (modPort s p f).pwr = s.pwr := rfl
@[simp] theorem modPort_que (s : State) (p : Nat) (f : Port → Port) : (modPort s p f).que = s.que := rfl
@[simp] theorem modPort_prg (s : State) (p : Nat) (f : Port → Port) : (modPort s p f).prg = s.prg := rfl
@[simp] theorem modPort_long (s : State) (p : Nat) (f : Port → Port) : (modPort s p f).long = s.long := rfl
@[simp] theorem modPort_waitCmds (s : State) (p : Nat) (f : Port → Port) : (modPort s p f).waitCmds = s.waitCmds := rfl
@[simp] theorem modPort_waitState (s : State) (p : Nat) (f : Port → Port) : (modPort s p f).waitState = s.waitState := rfl
@[simp] theorem modPort_evt (s : State) (p : Nat) (f : Port → Port) : (modPort s p f).evt = s.evt := rfl
@[simp] theorem modPort_bay (s : State) (p : Nat) (f : Port → Port) : (modPort s p f).bay = s.bay := rfl
@[simp] theorem modPort_jnl (s : State) (p : Nat) (f : Port → Port) : (modPort s p f).jnl = s.jnl := rfl
@[simp] theorem modPort_cfg (s : State) (p : Nat) (f : Port → Port) : (modPort s p f).cfg = s.cfg := rfl
@[simp] theorem modPort_thm (s : State) (p : Nat) (f : Port → Port) : (modPort s p f).thm = s.thm := rfl
@[simp] theorem modPort_mmu (s : State) (p : Nat) (f : Port → Port) : (modPort s p f).mmu = s.mmu := rfl
@[simp] theorem modPort_dram (s : State) (p : Nat) (f : Port → Port) : (modPort s p f).dram = s.dram := rfl
@[simp] theorem modPort_poison (s : State) (p : Nat) (f : Port → Port) : (modPort s p f).poison = s.poison := rfl
@[simp] theorem modPort_hostMem (s : State) (p : Nat) (f : Port → Port) : (modPort s p f).hostMem = s.hostMem := rfl
@[simp] theorem modPort_streams (s : State) (p : Nat) (f : Port → Port) : (modPort s p f).streams = s.streams := rfl
@[simp] theorem modPort_cores (s : State) (p : Nat) (f : Port → Port) : (modPort s p f).cores = s.cores := rfl
@[simp] theorem modPort_mesh (s : State) (p : Nat) (f : Port → Port) : (modPort s p f).mesh = s.mesh := rfl
@[simp] theorem modPort_passed (s : State) (p : Nat) (f : Port → Port) : (modPort s p f).passed = s.passed := rfl
@[simp] theorem modPort_starvedArb (s : State) (p : Nat) (f : Port → Port) : (modPort s p f).starvedArb = s.starvedArb := rfl
@[simp] theorem modPort_cas (s : State) (p : Nat) (f : Port → Port) : (modPort s p f).cas = s.cas := rfl
@[simp] theorem modPort_las (s : State) (p : Nat) (f : Port → Port) : (modPort s p f).las = s.las := rfl
@[simp] theorem modPort_sec (s : State) (p : Nat) (f : Port → Port) : (modPort s p f).sec = s.sec := rfl
@[simp] theorem modPort_boot (s : State) (p : Nat) (f : Port → Port) : (modPort s p f).boot = s.boot := rfl
@[simp] theorem modPort_tap (s : State) (p : Nat) (f : Port → Port) : (modPort s p f).tap = s.tap := rfl

/-! modLaser: the fields it leaves. -/

@[simp] theorem modLaser_pending (s : State) (m : Nat) (f : Laser → Laser) : (modLaser s m f).pending = s.pending := rfl
@[simp] theorem modLaser_fresh (s : State) (m : Nat) (f : Laser → Laser) : (modLaser s m f).fresh = s.fresh := rfl
@[simp] theorem modLaser_fixed (s : State) (m : Nat) (f : Laser → Laser) : (modLaser s m f).fixed = s.fixed := rfl
@[simp] theorem modLaser_hub (s : State) (m : Nat) (f : Laser → Laser) : (modLaser s m f).hub = s.hub := rfl
@[simp] theorem modLaser_clk (s : State) (m : Nat) (f : Laser → Laser) : (modLaser s m f).clk = s.clk := rfl
@[simp] theorem modLaser_pwr (s : State) (m : Nat) (f : Laser → Laser) : (modLaser s m f).pwr = s.pwr := rfl
@[simp] theorem modLaser_que (s : State) (m : Nat) (f : Laser → Laser) : (modLaser s m f).que = s.que := rfl
@[simp] theorem modLaser_prg (s : State) (m : Nat) (f : Laser → Laser) : (modLaser s m f).prg = s.prg := rfl
@[simp] theorem modLaser_long (s : State) (m : Nat) (f : Laser → Laser) : (modLaser s m f).long = s.long := rfl
@[simp] theorem modLaser_waitCmds (s : State) (m : Nat) (f : Laser → Laser) : (modLaser s m f).waitCmds = s.waitCmds := rfl
@[simp] theorem modLaser_waitState (s : State) (m : Nat) (f : Laser → Laser) : (modLaser s m f).waitState = s.waitState := rfl
@[simp] theorem modLaser_evt (s : State) (m : Nat) (f : Laser → Laser) : (modLaser s m f).evt = s.evt := rfl
@[simp] theorem modLaser_bay (s : State) (m : Nat) (f : Laser → Laser) : (modLaser s m f).bay = s.bay := rfl
@[simp] theorem modLaser_jnl (s : State) (m : Nat) (f : Laser → Laser) : (modLaser s m f).jnl = s.jnl := rfl
@[simp] theorem modLaser_cfg (s : State) (m : Nat) (f : Laser → Laser) : (modLaser s m f).cfg = s.cfg := rfl
@[simp] theorem modLaser_thm (s : State) (m : Nat) (f : Laser → Laser) : (modLaser s m f).thm = s.thm := rfl
@[simp] theorem modLaser_mmu (s : State) (m : Nat) (f : Laser → Laser) : (modLaser s m f).mmu = s.mmu := rfl
@[simp] theorem modLaser_dram (s : State) (m : Nat) (f : Laser → Laser) : (modLaser s m f).dram = s.dram := rfl
@[simp] theorem modLaser_poison (s : State) (m : Nat) (f : Laser → Laser) : (modLaser s m f).poison = s.poison := rfl
@[simp] theorem modLaser_hostMem (s : State) (m : Nat) (f : Laser → Laser) : (modLaser s m f).hostMem = s.hostMem := rfl
@[simp] theorem modLaser_streams (s : State) (m : Nat) (f : Laser → Laser) : (modLaser s m f).streams = s.streams := rfl
@[simp] theorem modLaser_cores (s : State) (m : Nat) (f : Laser → Laser) : (modLaser s m f).cores = s.cores := rfl
@[simp] theorem modLaser_mesh (s : State) (m : Nat) (f : Laser → Laser) : (modLaser s m f).mesh = s.mesh := rfl
@[simp] theorem modLaser_passed (s : State) (m : Nat) (f : Laser → Laser) : (modLaser s m f).passed = s.passed := rfl
@[simp] theorem modLaser_starvedArb (s : State) (m : Nat) (f : Laser → Laser) : (modLaser s m f).starvedArb = s.starvedArb := rfl
@[simp] theorem modLaser_ports (s : State) (m : Nat) (f : Laser → Laser) : (modLaser s m f).ports = s.ports := rfl
@[simp] theorem modLaser_cas (s : State) (m : Nat) (f : Laser → Laser) : (modLaser s m f).cas = s.cas := rfl
@[simp] theorem modLaser_sec (s : State) (m : Nat) (f : Laser → Laser) : (modLaser s m f).sec = s.sec := rfl
@[simp] theorem modLaser_boot (s : State) (m : Nat) (f : Laser → Laser) : (modLaser s m f).boot = s.boot := rfl
@[simp] theorem modLaser_tap (s : State) (m : Nat) (f : Laser → Laser) : (modLaser s m f).tap = s.tap := rfl

/-! dramWrite: the fields it leaves. -/

@[simp] theorem dramWrite_pending (s : State) (a : Nat) (bs : List Byte) (p : Bool) : (dramWrite s a bs p).pending = s.pending := rfl
@[simp] theorem dramWrite_fresh (s : State) (a : Nat) (bs : List Byte) (p : Bool) : (dramWrite s a bs p).fresh = s.fresh := rfl
@[simp] theorem dramWrite_fixed (s : State) (a : Nat) (bs : List Byte) (p : Bool) : (dramWrite s a bs p).fixed = s.fixed := rfl
@[simp] theorem dramWrite_hub (s : State) (a : Nat) (bs : List Byte) (p : Bool) : (dramWrite s a bs p).hub = s.hub := rfl
@[simp] theorem dramWrite_clk (s : State) (a : Nat) (bs : List Byte) (p : Bool) : (dramWrite s a bs p).clk = s.clk := rfl
@[simp] theorem dramWrite_pwr (s : State) (a : Nat) (bs : List Byte) (p : Bool) : (dramWrite s a bs p).pwr = s.pwr := rfl
@[simp] theorem dramWrite_que (s : State) (a : Nat) (bs : List Byte) (p : Bool) : (dramWrite s a bs p).que = s.que := rfl
@[simp] theorem dramWrite_prg (s : State) (a : Nat) (bs : List Byte) (p : Bool) : (dramWrite s a bs p).prg = s.prg := rfl
@[simp] theorem dramWrite_long (s : State) (a : Nat) (bs : List Byte) (p : Bool) : (dramWrite s a bs p).long = s.long := rfl
@[simp] theorem dramWrite_waitCmds (s : State) (a : Nat) (bs : List Byte) (p : Bool) : (dramWrite s a bs p).waitCmds = s.waitCmds := rfl
@[simp] theorem dramWrite_waitState (s : State) (a : Nat) (bs : List Byte) (p : Bool) : (dramWrite s a bs p).waitState = s.waitState := rfl
@[simp] theorem dramWrite_evt (s : State) (a : Nat) (bs : List Byte) (p : Bool) : (dramWrite s a bs p).evt = s.evt := rfl
@[simp] theorem dramWrite_bay (s : State) (a : Nat) (bs : List Byte) (p : Bool) : (dramWrite s a bs p).bay = s.bay := rfl
@[simp] theorem dramWrite_jnl (s : State) (a : Nat) (bs : List Byte) (p : Bool) : (dramWrite s a bs p).jnl = s.jnl := rfl
@[simp] theorem dramWrite_cfg (s : State) (a : Nat) (bs : List Byte) (p : Bool) : (dramWrite s a bs p).cfg = s.cfg := rfl
@[simp] theorem dramWrite_thm (s : State) (a : Nat) (bs : List Byte) (p : Bool) : (dramWrite s a bs p).thm = s.thm := rfl
@[simp] theorem dramWrite_mmu (s : State) (a : Nat) (bs : List Byte) (p : Bool) : (dramWrite s a bs p).mmu = s.mmu := rfl
@[simp] theorem dramWrite_hostMem (s : State) (a : Nat) (bs : List Byte) (p : Bool) : (dramWrite s a bs p).hostMem = s.hostMem := rfl
@[simp] theorem dramWrite_streams (s : State) (a : Nat) (bs : List Byte) (p : Bool) : (dramWrite s a bs p).streams = s.streams := rfl
@[simp] theorem dramWrite_cores (s : State) (a : Nat) (bs : List Byte) (p : Bool) : (dramWrite s a bs p).cores = s.cores := rfl
@[simp] theorem dramWrite_mesh (s : State) (a : Nat) (bs : List Byte) (p : Bool) : (dramWrite s a bs p).mesh = s.mesh := rfl
@[simp] theorem dramWrite_passed (s : State) (a : Nat) (bs : List Byte) (p : Bool) : (dramWrite s a bs p).passed = s.passed := rfl
@[simp] theorem dramWrite_starvedArb (s : State) (a : Nat) (bs : List Byte) (p : Bool) : (dramWrite s a bs p).starvedArb = s.starvedArb := rfl
@[simp] theorem dramWrite_ports (s : State) (a : Nat) (bs : List Byte) (p : Bool) : (dramWrite s a bs p).ports = s.ports := rfl
@[simp] theorem dramWrite_cas (s : State) (a : Nat) (bs : List Byte) (p : Bool) : (dramWrite s a bs p).cas = s.cas := rfl
@[simp] theorem dramWrite_las (s : State) (a : Nat) (bs : List Byte) (p : Bool) : (dramWrite s a bs p).las = s.las := rfl
@[simp] theorem dramWrite_sec (s : State) (a : Nat) (bs : List Byte) (p : Bool) : (dramWrite s a bs p).sec = s.sec := rfl
@[simp] theorem dramWrite_boot (s : State) (a : Nat) (bs : List Byte) (p : Bool) : (dramWrite s a bs p).boot = s.boot := rfl
@[simp] theorem dramWrite_tap (s : State) (a : Nat) (bs : List Byte) (p : Bool) : (dramWrite s a bs p).tap = s.tap := rfl

/-! fireVector: the fields it leaves. -/

@[simp] theorem fireVector_pending (s : State) (v : Nat) : (fireVector v s).pending = s.pending := rfl
@[simp] theorem fireVector_fresh (s : State) (v : Nat) : (fireVector v s).fresh = s.fresh := rfl
@[simp] theorem fireVector_fixed (s : State) (v : Nat) : (fireVector v s).fixed = s.fixed := rfl
@[simp] theorem fireVector_hub (s : State) (v : Nat) : (fireVector v s).hub = s.hub := rfl
@[simp] theorem fireVector_clk (s : State) (v : Nat) : (fireVector v s).clk = s.clk := rfl
@[simp] theorem fireVector_pwr (s : State) (v : Nat) : (fireVector v s).pwr = s.pwr := rfl
@[simp] theorem fireVector_prg (s : State) (v : Nat) : (fireVector v s).prg = s.prg := rfl
@[simp] theorem fireVector_long (s : State) (v : Nat) : (fireVector v s).long = s.long := rfl
@[simp] theorem fireVector_waitCmds (s : State) (v : Nat) : (fireVector v s).waitCmds = s.waitCmds := rfl
@[simp] theorem fireVector_waitState (s : State) (v : Nat) : (fireVector v s).waitState = s.waitState := rfl
@[simp] theorem fireVector_evt (s : State) (v : Nat) : (fireVector v s).evt = s.evt := rfl
@[simp] theorem fireVector_bay (s : State) (v : Nat) : (fireVector v s).bay = s.bay := rfl
@[simp] theorem fireVector_jnl (s : State) (v : Nat) : (fireVector v s).jnl = s.jnl := rfl
@[simp] theorem fireVector_cfg (s : State) (v : Nat) : (fireVector v s).cfg = s.cfg := rfl
@[simp] theorem fireVector_thm (s : State) (v : Nat) : (fireVector v s).thm = s.thm := rfl
@[simp] theorem fireVector_mmu (s : State) (v : Nat) : (fireVector v s).mmu = s.mmu := rfl
@[simp] theorem fireVector_dram (s : State) (v : Nat) : (fireVector v s).dram = s.dram := rfl
@[simp] theorem fireVector_poison (s : State) (v : Nat) : (fireVector v s).poison = s.poison := rfl
@[simp] theorem fireVector_hostMem (s : State) (v : Nat) : (fireVector v s).hostMem = s.hostMem := rfl
@[simp] theorem fireVector_streams (s : State) (v : Nat) : (fireVector v s).streams = s.streams := rfl
@[simp] theorem fireVector_cores (s : State) (v : Nat) : (fireVector v s).cores = s.cores := rfl
@[simp] theorem fireVector_mesh (s : State) (v : Nat) : (fireVector v s).mesh = s.mesh := rfl
@[simp] theorem fireVector_passed (s : State) (v : Nat) : (fireVector v s).passed = s.passed := rfl
@[simp] theorem fireVector_starvedArb (s : State) (v : Nat) : (fireVector v s).starvedArb = s.starvedArb := rfl
@[simp] theorem fireVector_ports (s : State) (v : Nat) : (fireVector v s).ports = s.ports := rfl
@[simp] theorem fireVector_cas (s : State) (v : Nat) : (fireVector v s).cas = s.cas := rfl
@[simp] theorem fireVector_las (s : State) (v : Nat) : (fireVector v s).las = s.las := rfl
@[simp] theorem fireVector_sec (s : State) (v : Nat) : (fireVector v s).sec = s.sec := rfl
@[simp] theorem fireVector_boot (s : State) (v : Nat) : (fireVector v s).boot = s.boot := rfl
@[simp] theorem fireVector_tap (s : State) (v : Nat) : (fireVector v s).tap = s.tap := rfl

/-! draw: the fields it leaves. -/

@[simp] theorem draw_pending (s : State)  : ((draw s).2).pending = s.pending := rfl
@[simp] theorem draw_fixed (s : State)  : ((draw s).2).fixed = s.fixed := rfl
@[simp] theorem draw_hub (s : State)  : ((draw s).2).hub = s.hub := rfl
@[simp] theorem draw_clk (s : State)  : ((draw s).2).clk = s.clk := rfl
@[simp] theorem draw_pwr (s : State)  : ((draw s).2).pwr = s.pwr := rfl
@[simp] theorem draw_que (s : State)  : ((draw s).2).que = s.que := rfl
@[simp] theorem draw_prg (s : State)  : ((draw s).2).prg = s.prg := rfl
@[simp] theorem draw_long (s : State)  : ((draw s).2).long = s.long := rfl
@[simp] theorem draw_waitCmds (s : State)  : ((draw s).2).waitCmds = s.waitCmds := rfl
@[simp] theorem draw_waitState (s : State)  : ((draw s).2).waitState = s.waitState := rfl
@[simp] theorem draw_evt (s : State)  : ((draw s).2).evt = s.evt := rfl
@[simp] theorem draw_bay (s : State)  : ((draw s).2).bay = s.bay := rfl
@[simp] theorem draw_jnl (s : State)  : ((draw s).2).jnl = s.jnl := rfl
@[simp] theorem draw_cfg (s : State)  : ((draw s).2).cfg = s.cfg := rfl
@[simp] theorem draw_thm (s : State)  : ((draw s).2).thm = s.thm := rfl
@[simp] theorem draw_mmu (s : State)  : ((draw s).2).mmu = s.mmu := rfl
@[simp] theorem draw_dram (s : State)  : ((draw s).2).dram = s.dram := rfl
@[simp] theorem draw_poison (s : State)  : ((draw s).2).poison = s.poison := rfl
@[simp] theorem draw_hostMem (s : State)  : ((draw s).2).hostMem = s.hostMem := rfl
@[simp] theorem draw_streams (s : State)  : ((draw s).2).streams = s.streams := rfl
@[simp] theorem draw_cores (s : State)  : ((draw s).2).cores = s.cores := rfl
@[simp] theorem draw_mesh (s : State)  : ((draw s).2).mesh = s.mesh := rfl
@[simp] theorem draw_passed (s : State)  : ((draw s).2).passed = s.passed := rfl
@[simp] theorem draw_starvedArb (s : State)  : ((draw s).2).starvedArb = s.starvedArb := rfl
@[simp] theorem draw_ports (s : State)  : ((draw s).2).ports = s.ports := rfl
@[simp] theorem draw_cas (s : State)  : ((draw s).2).cas = s.cas := rfl
@[simp] theorem draw_las (s : State)  : ((draw s).2).las = s.las := rfl
@[simp] theorem draw_sec (s : State)  : ((draw s).2).sec = s.sec := rfl
@[simp] theorem draw_boot (s : State)  : ((draw s).2).boot = s.boot := rfl
@[simp] theorem draw_tap (s : State)  : ((draw s).2).tap = s.tap := rfl

/-! advanceTo moves the clock, and the shares of the tokens in the time passed (R313). -/

@[simp] theorem advanceTo_pending (s : State) (t : Nat) : (advanceTo s t).pending = s.pending := by unfold advanceTo; split <;> rfl
@[simp] theorem advanceTo_fresh (s : State) (t : Nat) : (advanceTo s t).fresh = s.fresh := by unfold advanceTo; split <;> rfl
@[simp] theorem advanceTo_fixed (s : State) (t : Nat) : (advanceTo s t).fixed = s.fixed := by unfold advanceTo; split <;> rfl
@[simp] theorem advanceTo_hub (s : State) (t : Nat) : (advanceTo s t).hub = s.hub := by unfold advanceTo; split <;> rfl
@[simp] theorem advanceTo_pwr (s : State) (t : Nat) : (advanceTo s t).pwr = s.pwr := by unfold advanceTo; split <;> rfl
@[simp] theorem advanceTo_que (s : State) (t : Nat) : (advanceTo s t).que = s.que := by unfold advanceTo; split <;> rfl
@[simp] theorem advanceTo_prg (s : State) (t : Nat) : (advanceTo s t).prg = s.prg := by unfold advanceTo; split <;> rfl
@[simp] theorem advanceTo_long (s : State) (t : Nat) : (advanceTo s t).long = s.long := by unfold advanceTo; split <;> rfl
@[simp] theorem advanceTo_waitCmds (s : State) (t : Nat) : (advanceTo s t).waitCmds = s.waitCmds := by unfold advanceTo; split <;> rfl
@[simp] theorem advanceTo_waitState (s : State) (t : Nat) : (advanceTo s t).waitState = s.waitState := by unfold advanceTo; split <;> rfl
@[simp] theorem advanceTo_evt (s : State) (t : Nat) : (advanceTo s t).evt = s.evt := by unfold advanceTo; split <;> rfl
@[simp] theorem advanceTo_bay (s : State) (t : Nat) : (advanceTo s t).bay = s.bay := by unfold advanceTo; split <;> rfl
@[simp] theorem advanceTo_jnl (s : State) (t : Nat) : (advanceTo s t).jnl = s.jnl := by unfold advanceTo; split <;> rfl
@[simp] theorem advanceTo_cfg (s : State) (t : Nat) : (advanceTo s t).cfg = s.cfg := by unfold advanceTo; split <;> rfl
@[simp] theorem advanceTo_thm (s : State) (t : Nat) : (advanceTo s t).thm = s.thm := by unfold advanceTo; split <;> rfl
@[simp] theorem advanceTo_mmu (s : State) (t : Nat) : (advanceTo s t).mmu = s.mmu := by unfold advanceTo; split <;> rfl
@[simp] theorem advanceTo_dram (s : State) (t : Nat) : (advanceTo s t).dram = s.dram := by unfold advanceTo; split <;> rfl
@[simp] theorem advanceTo_poison (s : State) (t : Nat) : (advanceTo s t).poison = s.poison := by unfold advanceTo; split <;> rfl
@[simp] theorem advanceTo_hostMem (s : State) (t : Nat) : (advanceTo s t).hostMem = s.hostMem := by unfold advanceTo; split <;> rfl
@[simp] theorem advanceTo_streams (s : State) (t : Nat) : (advanceTo s t).streams = s.streams := by unfold advanceTo; split <;> rfl
@[simp] theorem advanceTo_mesh (s : State) (t : Nat) : (advanceTo s t).mesh = s.mesh := by unfold advanceTo; split <;> rfl
@[simp] theorem advanceTo_passed (s : State) (t : Nat) : (advanceTo s t).passed = s.passed := by unfold advanceTo; split <;> rfl
@[simp] theorem advanceTo_starvedArb (s : State) (t : Nat) : (advanceTo s t).starvedArb = s.starvedArb := by unfold advanceTo; split <;> rfl
@[simp] theorem advanceTo_ports (s : State) (t : Nat) : (advanceTo s t).ports = s.ports := by unfold advanceTo; split <;> rfl
@[simp] theorem advanceTo_cas (s : State) (t : Nat) : (advanceTo s t).cas = s.cas := by unfold advanceTo; split <;> rfl
@[simp] theorem advanceTo_las (s : State) (t : Nat) : (advanceTo s t).las = s.las := by unfold advanceTo; split <;> rfl
@[simp] theorem advanceTo_sec (s : State) (t : Nat) : (advanceTo s t).sec = s.sec := by unfold advanceTo; split <;> rfl
@[simp] theorem advanceTo_boot (s : State) (t : Nat) : (advanceTo s t).boot = s.boot := by unfold advanceTo; split <;> rfl
@[simp] theorem advanceTo_tap (s : State) (t : Nat) : (advanceTo s t).tap = s.tap := by unfold advanceTo; split <;> rfl
theorem advanceTo_cores (s : State) (t : Nat) : (advanceTo s t).cores = if now s < t then (shareTimes s (t - now s)).cores else s.cores := by unfold advanceTo; split <;> rfl

/-! Registers of the executing context. -/

@[simp] theorem getCtx_setCtx (k : Core) (x : Ctx) : getCtx (setCtx k x) = x := by
  unfold getCtx setCtx
  by_cases h : k.cur = 0
  · rw [if_pos h, if_pos h]
  · rw [if_neg h, if_neg h]

theorem getReg_setReg (k : Core) (rd r : RegId) (v : Word) : getReg (setReg k rd v) r = if r = rd then v else getReg k r := by
  unfold getReg setReg
  rw [getCtx_setCtx]
  by_cases h : r = rd
  · subst h
    rw [if_pos rfl]
    exact Vector.getElem_set_self _
  · have hn : rd.toNat ≠ r.toNat := fun e => h (BitVec.eq_of_toNat_eq e.symm)
    rw [if_neg h]
    exact Vector.getElem_set_ne rd.isLt r.isLt hn

@[simp] theorem getReg_setPc (k : Core) (p : BitVec 12) (r : RegId) : getReg (setPc k p) r = getReg k r := by
  simp [getReg, setPc]

@[simp] theorem getReg_nextPc (k : Core) (r : RegId) : getReg (nextPc k) r = getReg k r := getReg_setPc _ _ _

@[simp] theorem getReg_unstall (k : Core) (r : RegId) : getReg (unstall k) r = getReg k r := rfl
@[simp] theorem getCtx_unstall (k : Core) : getCtx (unstall k) = getCtx k := rfl

@[simp] theorem pc_setPc (k : Core) (p : BitVec 12) : (getCtx (setPc k p)).pc = p := by simp [setPc]
@[simp] theorem pc_setReg (k : Core) (rd : RegId) (v : Word) : (getCtx (setReg k rd v)).pc = (getCtx k).pc := by simp [setReg]
@[simp] theorem pc_nextPc (k : Core) : (getCtx (nextPc k)).pc = (getCtx k).pc + 1 := by simp [nextPc]
@[simp] theorem sumw_setReg (k : Core) (rd : RegId) (v : Word) : (getCtx (setReg k rd v)).sumw = (getCtx k).sumw := by simp [setReg]
@[simp] theorem sumw_setPc (k : Core) (p : BitVec 12) : (getCtx (setPc k p)).sumw = (getCtx k).sumw := by simp [setPc]
@[simp] theorem sumw_nextPc (k : Core) : (getCtx (nextPc k)).sumw = (getCtx k).sumw := by simp [nextPc]

/-! The rest of a core when its executing context changes. -/

@[simp] theorem setCtx_cur (k : Core) (x : Ctx) : (setCtx k x).cur = k.cur := by unfold setCtx; split <;> rfl
@[simp] theorem setCtx_bank (k : Core) (x : Ctx) : (setCtx k x).bank = k.bank := by unfold setCtx; split <;> rfl
@[simp] theorem setCtx_otherLoaded (k : Core) (x : Ctx) : (setCtx k x).otherLoaded = k.otherLoaded := by unfold setCtx; split <;> rfl
@[simp] theorem setCtx_leaving (k : Core) (x : Ctx) : (setCtx k x).leaving = k.leaving := by unfold setCtx; split <;> rfl
@[simp] theorem setCtx_prog0 (k : Core) (x : Ctx) : (setCtx k x).prog0 = k.prog0 := by unfold setCtx; split <;> rfl
@[simp] theorem setCtx_prog1 (k : Core) (x : Ctx) : (setCtx k x).prog1 = k.prog1 := by unfold setCtx; split <;> rfl
@[simp] theorem setCtx_sp (k : Core) (x : Ctx) : (setCtx k x).sp = k.sp := by unfold setCtx; split <;> rfl
@[simp] theorem setCtx_tags (k : Core) (x : Ctx) : (setCtx k x).tags = k.tags := by unfold setCtx; split <;> rfl
@[simp] theorem setCtx_spPoison (k : Core) (x : Ctx) : (setCtx k x).spPoison = k.spPoison := by unfold setCtx; split <;> rfl
@[simp] theorem setCtx_pwr (k : Core) (x : Ctx) : (setCtx k x).pwr = k.pwr := by unfold setCtx; split <;> rfl
@[simp] theorem setCtx_usable (k : Core) (x : Ctx) : (setCtx k x).usable = k.usable := by unfold setCtx; split <;> rfl
@[simp] theorem setCtx_zeroing (k : Core) (x : Ctx) : (setCtx k x).zeroing = k.zeroing := by unfold setCtx; split <;> rfl
@[simp] theorem setCtx_preloadFrom (k : Core) (x : Ctx) : (setCtx k x).preloadFrom = k.preloadFrom := by unfold setCtx; split <;> rfl
@[simp] theorem setCtx_starved (k : Core) (x : Ctx) : (setCtx k x).starved = k.starved := by unfold setCtx; split <;> rfl
@[simp] theorem setCtx_rings (k : Core) (x : Ctx) : (setCtx k x).rings = k.rings := by unfold setCtx; split <;> rfl
@[simp] theorem setCtx_sb (k : Core) (x : Ctx) : (setCtx k x).sb = k.sb := by unfold setCtx; split <;> rfl
@[simp] theorem setCtx_ops (k : Core) (x : Ctx) : (setCtx k x).ops = k.ops := by unfold setCtx; split <;> rfl
@[simp] theorem setCtx_reqs (k : Core) (x : Ctx) : (setCtx k x).reqs = k.reqs := by unfold setCtx; split <;> rfl
@[simp] theorem setCtx_grantsOut (k : Core) (x : Ctx) : (setCtx k x).grantsOut = k.grantsOut := by unfold setCtx; split <;> rfl
@[simp] theorem setCtx_grantsIn (k : Core) (x : Ctx) : (setCtx k x).grantsIn = k.grantsIn := by unfold setCtx; split <;> rfl
@[simp] theorem setCtx_tokens (k : Core) (x : Ctx) : (setCtx k x).tokens = k.tokens := by unfold setCtx; split <;> rfl
@[simp] theorem setCtx_taken (k : Core) (x : Ctx) : (setCtx k x).taken = k.taken := by unfold setCtx; split <;> rfl
@[simp] theorem setCtx_stalls (k : Core) (x : Ctx) : (setCtx k x).stalls = k.stalls := by unfold setCtx; split <;> rfl
@[simp] theorem setCtx_hazard (k : Core) (x : Ctx) : (setCtx k x).hazard = k.hazard := by unfold setCtx; split <;> rfl
@[simp] theorem setCtx_copyStalls (k : Core) (x : Ctx) : (setCtx k x).copyStalls = k.copyStalls := by unfold setCtx; split <;> rfl
@[simp] theorem setCtx_copyHazard (k : Core) (x : Ctx) : (setCtx k x).copyHazard = k.copyHazard := by unfold setCtx; split <;> rfl
@[simp] theorem setCtx_doneCount (k : Core) (x : Ctx) : (setCtx k x).doneCount = k.doneCount := by unfold setCtx; split <;> rfl
@[simp] theorem setCtx_timeHi (k : Core) (x : Ctx) : (setCtx k x).timeHi = k.timeHi := by unfold setCtx; split <;> rfl
@[simp] theorem setCtx_waiting (k : Core) (x : Ctx) : (setCtx k x).waiting = k.waiting := by unfold setCtx; split <;> rfl
@[simp] theorem setCtx_waitingFree (k : Core) (x : Ctx) : (setCtx k x).waitingFree = k.waitingFree := by unfold setCtx; split <;> rfl
@[simp] theorem setCtx_me (k : Core) (x : Ctx) : (setCtx k x).me = k.me := by unfold setCtx; split <;> rfl
@[simp] theorem setCtx_gated (k : Core) (x : Ctx) : (setCtx k x).gated = k.gated := by unfold setCtx; split <;> rfl
@[simp] theorem setCtx_group0 (k : Core) (x : Ctx) : (setCtx k x).group0 = k.group0 := by unfold setCtx; split <;> rfl
@[simp] theorem setCtx_groupPos0 (k : Core) (x : Ctx) : (setCtx k x).groupPos0 = k.groupPos0 := by unfold setCtx; split <;> rfl
@[simp] theorem setCtx_group1 (k : Core) (x : Ctx) : (setCtx k x).group1 = k.group1 := by unfold setCtx; split <;> rfl
@[simp] theorem setCtx_groupPos1 (k : Core) (x : Ctx) : (setCtx k x).groupPos1 = k.groupPos1 := by unfold setCtx; split <;> rfl
@[simp] theorem setCtx_compat (k : Core) (x : Ctx) : (setCtx k x).compat = k.compat := by unfold setCtx; split <;> rfl
@[simp] theorem setCtx_expressCut (k : Core) (x : Ctx) : (setCtx k x).expressCut = k.expressCut := by unfold setCtx; split <;> rfl
@[simp] theorem setCtx_issued (k : Core) (x : Ctx) : (setCtx k x).issued = k.issued := by unfold setCtx; split <;> rfl
@[simp] theorem setCtx_computed (k : Core) (x : Ctx) : (setCtx k x).computed = k.computed := by unfold setCtx; split <;> rfl
@[simp] theorem setCtx_flushHalt (k : Core) (x : Ctx) : (setCtx k x).flushHalt = k.flushHalt := by unfold setCtx; split <;> rfl

@[simp] theorem setReg_cur (k : Core) (rd : RegId) (v : Word) : (setReg k rd v).cur = k.cur := setCtx_cur _ _
@[simp] theorem setReg_bank (k : Core) (rd : RegId) (v : Word) : (setReg k rd v).bank = k.bank := setCtx_bank _ _
@[simp] theorem setReg_otherLoaded (k : Core) (rd : RegId) (v : Word) : (setReg k rd v).otherLoaded = k.otherLoaded := setCtx_otherLoaded _ _
@[simp] theorem setReg_leaving (k : Core) (rd : RegId) (v : Word) : (setReg k rd v).leaving = k.leaving := setCtx_leaving _ _
@[simp] theorem setReg_prog0 (k : Core) (rd : RegId) (v : Word) : (setReg k rd v).prog0 = k.prog0 := setCtx_prog0 _ _
@[simp] theorem setReg_prog1 (k : Core) (rd : RegId) (v : Word) : (setReg k rd v).prog1 = k.prog1 := setCtx_prog1 _ _
@[simp] theorem setReg_sp (k : Core) (rd : RegId) (v : Word) : (setReg k rd v).sp = k.sp := setCtx_sp _ _
@[simp] theorem setReg_tags (k : Core) (rd : RegId) (v : Word) : (setReg k rd v).tags = k.tags := setCtx_tags _ _
@[simp] theorem setReg_spPoison (k : Core) (rd : RegId) (v : Word) : (setReg k rd v).spPoison = k.spPoison := setCtx_spPoison _ _
@[simp] theorem setReg_pwr (k : Core) (rd : RegId) (v : Word) : (setReg k rd v).pwr = k.pwr := setCtx_pwr _ _
@[simp] theorem setReg_usable (k : Core) (rd : RegId) (v : Word) : (setReg k rd v).usable = k.usable := setCtx_usable _ _
@[simp] theorem setReg_zeroing (k : Core) (rd : RegId) (v : Word) : (setReg k rd v).zeroing = k.zeroing := setCtx_zeroing _ _
@[simp] theorem setReg_preloadFrom (k : Core) (rd : RegId) (v : Word) : (setReg k rd v).preloadFrom = k.preloadFrom := setCtx_preloadFrom _ _
@[simp] theorem setReg_starved (k : Core) (rd : RegId) (v : Word) : (setReg k rd v).starved = k.starved := setCtx_starved _ _
@[simp] theorem setReg_rings (k : Core) (rd : RegId) (v : Word) : (setReg k rd v).rings = k.rings := setCtx_rings _ _
@[simp] theorem setReg_sb (k : Core) (rd : RegId) (v : Word) : (setReg k rd v).sb = k.sb := setCtx_sb _ _
@[simp] theorem setReg_ops (k : Core) (rd : RegId) (v : Word) : (setReg k rd v).ops = k.ops := setCtx_ops _ _
@[simp] theorem setReg_reqs (k : Core) (rd : RegId) (v : Word) : (setReg k rd v).reqs = k.reqs := setCtx_reqs _ _
@[simp] theorem setReg_grantsOut (k : Core) (rd : RegId) (v : Word) : (setReg k rd v).grantsOut = k.grantsOut := setCtx_grantsOut _ _
@[simp] theorem setReg_grantsIn (k : Core) (rd : RegId) (v : Word) : (setReg k rd v).grantsIn = k.grantsIn := setCtx_grantsIn _ _
@[simp] theorem setReg_tokens (k : Core) (rd : RegId) (v : Word) : (setReg k rd v).tokens = k.tokens := setCtx_tokens _ _
@[simp] theorem setReg_taken (k : Core) (rd : RegId) (v : Word) : (setReg k rd v).taken = k.taken := setCtx_taken _ _
@[simp] theorem setReg_stalls (k : Core) (rd : RegId) (v : Word) : (setReg k rd v).stalls = k.stalls := setCtx_stalls _ _
@[simp] theorem setReg_hazard (k : Core) (rd : RegId) (v : Word) : (setReg k rd v).hazard = k.hazard := setCtx_hazard _ _
@[simp] theorem setReg_copyStalls (k : Core) (rd : RegId) (v : Word) : (setReg k rd v).copyStalls = k.copyStalls := setCtx_copyStalls _ _
@[simp] theorem setReg_copyHazard (k : Core) (rd : RegId) (v : Word) : (setReg k rd v).copyHazard = k.copyHazard := setCtx_copyHazard _ _
@[simp] theorem setReg_doneCount (k : Core) (rd : RegId) (v : Word) : (setReg k rd v).doneCount = k.doneCount := setCtx_doneCount _ _
@[simp] theorem setReg_timeHi (k : Core) (rd : RegId) (v : Word) : (setReg k rd v).timeHi = k.timeHi := setCtx_timeHi _ _
@[simp] theorem setReg_waiting (k : Core) (rd : RegId) (v : Word) : (setReg k rd v).waiting = k.waiting := setCtx_waiting _ _
@[simp] theorem setReg_waitingFree (k : Core) (rd : RegId) (v : Word) : (setReg k rd v).waitingFree = k.waitingFree := setCtx_waitingFree _ _
@[simp] theorem setReg_me (k : Core) (rd : RegId) (v : Word) : (setReg k rd v).me = k.me := setCtx_me _ _
@[simp] theorem setReg_gated (k : Core) (rd : RegId) (v : Word) : (setReg k rd v).gated = k.gated := setCtx_gated _ _
@[simp] theorem setReg_group0 (k : Core) (rd : RegId) (v : Word) : (setReg k rd v).group0 = k.group0 := setCtx_group0 _ _
@[simp] theorem setReg_groupPos0 (k : Core) (rd : RegId) (v : Word) : (setReg k rd v).groupPos0 = k.groupPos0 := setCtx_groupPos0 _ _
@[simp] theorem setReg_group1 (k : Core) (rd : RegId) (v : Word) : (setReg k rd v).group1 = k.group1 := setCtx_group1 _ _
@[simp] theorem setReg_groupPos1 (k : Core) (rd : RegId) (v : Word) : (setReg k rd v).groupPos1 = k.groupPos1 := setCtx_groupPos1 _ _
@[simp] theorem setReg_compat (k : Core) (rd : RegId) (v : Word) : (setReg k rd v).compat = k.compat := setCtx_compat _ _
@[simp] theorem setReg_expressCut (k : Core) (rd : RegId) (v : Word) : (setReg k rd v).expressCut = k.expressCut := setCtx_expressCut _ _
@[simp] theorem setReg_issued (k : Core) (rd : RegId) (v : Word) : (setReg k rd v).issued = k.issued := setCtx_issued _ _
@[simp] theorem setReg_computed (k : Core) (rd : RegId) (v : Word) : (setReg k rd v).computed = k.computed := setCtx_computed _ _
@[simp] theorem setReg_flushHalt (k : Core) (rd : RegId) (v : Word) : (setReg k rd v).flushHalt = k.flushHalt := setCtx_flushHalt _ _

@[simp] theorem setPc_cur (k : Core) (p : BitVec 12) : (setPc k p).cur = k.cur := setCtx_cur _ _
@[simp] theorem setPc_bank (k : Core) (p : BitVec 12) : (setPc k p).bank = k.bank := setCtx_bank _ _
@[simp] theorem setPc_otherLoaded (k : Core) (p : BitVec 12) : (setPc k p).otherLoaded = k.otherLoaded := setCtx_otherLoaded _ _
@[simp] theorem setPc_leaving (k : Core) (p : BitVec 12) : (setPc k p).leaving = k.leaving := setCtx_leaving _ _
@[simp] theorem setPc_prog0 (k : Core) (p : BitVec 12) : (setPc k p).prog0 = k.prog0 := setCtx_prog0 _ _
@[simp] theorem setPc_prog1 (k : Core) (p : BitVec 12) : (setPc k p).prog1 = k.prog1 := setCtx_prog1 _ _
@[simp] theorem setPc_sp (k : Core) (p : BitVec 12) : (setPc k p).sp = k.sp := setCtx_sp _ _
@[simp] theorem setPc_tags (k : Core) (p : BitVec 12) : (setPc k p).tags = k.tags := setCtx_tags _ _
@[simp] theorem setPc_spPoison (k : Core) (p : BitVec 12) : (setPc k p).spPoison = k.spPoison := setCtx_spPoison _ _
@[simp] theorem setPc_pwr (k : Core) (p : BitVec 12) : (setPc k p).pwr = k.pwr := setCtx_pwr _ _
@[simp] theorem setPc_usable (k : Core) (p : BitVec 12) : (setPc k p).usable = k.usable := setCtx_usable _ _
@[simp] theorem setPc_zeroing (k : Core) (p : BitVec 12) : (setPc k p).zeroing = k.zeroing := setCtx_zeroing _ _
@[simp] theorem setPc_preloadFrom (k : Core) (p : BitVec 12) : (setPc k p).preloadFrom = k.preloadFrom := setCtx_preloadFrom _ _
@[simp] theorem setPc_starved (k : Core) (p : BitVec 12) : (setPc k p).starved = k.starved := setCtx_starved _ _
@[simp] theorem setPc_rings (k : Core) (p : BitVec 12) : (setPc k p).rings = k.rings := setCtx_rings _ _
@[simp] theorem setPc_sb (k : Core) (p : BitVec 12) : (setPc k p).sb = k.sb := setCtx_sb _ _
@[simp] theorem setPc_ops (k : Core) (p : BitVec 12) : (setPc k p).ops = k.ops := setCtx_ops _ _
@[simp] theorem setPc_reqs (k : Core) (p : BitVec 12) : (setPc k p).reqs = k.reqs := setCtx_reqs _ _
@[simp] theorem setPc_grantsOut (k : Core) (p : BitVec 12) : (setPc k p).grantsOut = k.grantsOut := setCtx_grantsOut _ _
@[simp] theorem setPc_grantsIn (k : Core) (p : BitVec 12) : (setPc k p).grantsIn = k.grantsIn := setCtx_grantsIn _ _
@[simp] theorem setPc_tokens (k : Core) (p : BitVec 12) : (setPc k p).tokens = k.tokens := setCtx_tokens _ _
@[simp] theorem setPc_taken (k : Core) (p : BitVec 12) : (setPc k p).taken = k.taken := setCtx_taken _ _
@[simp] theorem setPc_stalls (k : Core) (p : BitVec 12) : (setPc k p).stalls = k.stalls := setCtx_stalls _ _
@[simp] theorem setPc_hazard (k : Core) (p : BitVec 12) : (setPc k p).hazard = k.hazard := setCtx_hazard _ _
@[simp] theorem setPc_copyStalls (k : Core) (p : BitVec 12) : (setPc k p).copyStalls = k.copyStalls := setCtx_copyStalls _ _
@[simp] theorem setPc_copyHazard (k : Core) (p : BitVec 12) : (setPc k p).copyHazard = k.copyHazard := setCtx_copyHazard _ _
@[simp] theorem setPc_doneCount (k : Core) (p : BitVec 12) : (setPc k p).doneCount = k.doneCount := setCtx_doneCount _ _
@[simp] theorem setPc_timeHi (k : Core) (p : BitVec 12) : (setPc k p).timeHi = k.timeHi := setCtx_timeHi _ _
@[simp] theorem setPc_waiting (k : Core) (p : BitVec 12) : (setPc k p).waiting = k.waiting := setCtx_waiting _ _
@[simp] theorem setPc_waitingFree (k : Core) (p : BitVec 12) : (setPc k p).waitingFree = k.waitingFree := setCtx_waitingFree _ _
@[simp] theorem setPc_me (k : Core) (p : BitVec 12) : (setPc k p).me = k.me := setCtx_me _ _
@[simp] theorem setPc_gated (k : Core) (p : BitVec 12) : (setPc k p).gated = k.gated := setCtx_gated _ _
@[simp] theorem setPc_group0 (k : Core) (p : BitVec 12) : (setPc k p).group0 = k.group0 := setCtx_group0 _ _
@[simp] theorem setPc_groupPos0 (k : Core) (p : BitVec 12) : (setPc k p).groupPos0 = k.groupPos0 := setCtx_groupPos0 _ _
@[simp] theorem setPc_group1 (k : Core) (p : BitVec 12) : (setPc k p).group1 = k.group1 := setCtx_group1 _ _
@[simp] theorem setPc_groupPos1 (k : Core) (p : BitVec 12) : (setPc k p).groupPos1 = k.groupPos1 := setCtx_groupPos1 _ _
@[simp] theorem setPc_compat (k : Core) (p : BitVec 12) : (setPc k p).compat = k.compat := setCtx_compat _ _
@[simp] theorem setPc_expressCut (k : Core) (p : BitVec 12) : (setPc k p).expressCut = k.expressCut := setCtx_expressCut _ _
@[simp] theorem setPc_issued (k : Core) (p : BitVec 12) : (setPc k p).issued = k.issued := setCtx_issued _ _
@[simp] theorem setPc_computed (k : Core) (p : BitVec 12) : (setPc k p).computed = k.computed := setCtx_computed _ _
@[simp] theorem setPc_flushHalt (k : Core) (p : BitVec 12) : (setPc k p).flushHalt = k.flushHalt := setCtx_flushHalt _ _

@[simp] theorem nextPc_cur (k : Core)  : (nextPc k).cur = k.cur := setCtx_cur _ _
@[simp] theorem nextPc_bank (k : Core)  : (nextPc k).bank = k.bank := setCtx_bank _ _
@[simp] theorem nextPc_otherLoaded (k : Core)  : (nextPc k).otherLoaded = k.otherLoaded := setCtx_otherLoaded _ _
@[simp] theorem nextPc_leaving (k : Core)  : (nextPc k).leaving = k.leaving := setCtx_leaving _ _
@[simp] theorem nextPc_prog0 (k : Core)  : (nextPc k).prog0 = k.prog0 := setCtx_prog0 _ _
@[simp] theorem nextPc_prog1 (k : Core)  : (nextPc k).prog1 = k.prog1 := setCtx_prog1 _ _
@[simp] theorem nextPc_sp (k : Core)  : (nextPc k).sp = k.sp := setCtx_sp _ _
@[simp] theorem nextPc_tags (k : Core)  : (nextPc k).tags = k.tags := setCtx_tags _ _
@[simp] theorem nextPc_spPoison (k : Core)  : (nextPc k).spPoison = k.spPoison := setCtx_spPoison _ _
@[simp] theorem nextPc_pwr (k : Core)  : (nextPc k).pwr = k.pwr := setCtx_pwr _ _
@[simp] theorem nextPc_usable (k : Core)  : (nextPc k).usable = k.usable := setCtx_usable _ _
@[simp] theorem nextPc_zeroing (k : Core)  : (nextPc k).zeroing = k.zeroing := setCtx_zeroing _ _
@[simp] theorem nextPc_preloadFrom (k : Core)  : (nextPc k).preloadFrom = k.preloadFrom := setCtx_preloadFrom _ _
@[simp] theorem nextPc_starved (k : Core)  : (nextPc k).starved = k.starved := setCtx_starved _ _
@[simp] theorem nextPc_rings (k : Core)  : (nextPc k).rings = k.rings := setCtx_rings _ _
@[simp] theorem nextPc_sb (k : Core)  : (nextPc k).sb = k.sb := setCtx_sb _ _
@[simp] theorem nextPc_ops (k : Core)  : (nextPc k).ops = k.ops := setCtx_ops _ _
@[simp] theorem nextPc_reqs (k : Core)  : (nextPc k).reqs = k.reqs := setCtx_reqs _ _
@[simp] theorem nextPc_grantsOut (k : Core)  : (nextPc k).grantsOut = k.grantsOut := setCtx_grantsOut _ _
@[simp] theorem nextPc_grantsIn (k : Core)  : (nextPc k).grantsIn = k.grantsIn := setCtx_grantsIn _ _
@[simp] theorem nextPc_tokens (k : Core)  : (nextPc k).tokens = k.tokens := setCtx_tokens _ _
@[simp] theorem nextPc_taken (k : Core)  : (nextPc k).taken = k.taken := setCtx_taken _ _
@[simp] theorem nextPc_stalls (k : Core)  : (nextPc k).stalls = k.stalls := setCtx_stalls _ _
@[simp] theorem nextPc_hazard (k : Core)  : (nextPc k).hazard = k.hazard := setCtx_hazard _ _
@[simp] theorem nextPc_copyStalls (k : Core)  : (nextPc k).copyStalls = k.copyStalls := setCtx_copyStalls _ _
@[simp] theorem nextPc_copyHazard (k : Core)  : (nextPc k).copyHazard = k.copyHazard := setCtx_copyHazard _ _
@[simp] theorem nextPc_doneCount (k : Core)  : (nextPc k).doneCount = k.doneCount := setCtx_doneCount _ _
@[simp] theorem nextPc_timeHi (k : Core)  : (nextPc k).timeHi = k.timeHi := setCtx_timeHi _ _
@[simp] theorem nextPc_waiting (k : Core)  : (nextPc k).waiting = k.waiting := setCtx_waiting _ _
@[simp] theorem nextPc_waitingFree (k : Core)  : (nextPc k).waitingFree = k.waitingFree := setCtx_waitingFree _ _
@[simp] theorem nextPc_me (k : Core)  : (nextPc k).me = k.me := setCtx_me _ _
@[simp] theorem nextPc_gated (k : Core)  : (nextPc k).gated = k.gated := setCtx_gated _ _
@[simp] theorem nextPc_group0 (k : Core)  : (nextPc k).group0 = k.group0 := setCtx_group0 _ _
@[simp] theorem nextPc_groupPos0 (k : Core)  : (nextPc k).groupPos0 = k.groupPos0 := setCtx_groupPos0 _ _
@[simp] theorem nextPc_group1 (k : Core)  : (nextPc k).group1 = k.group1 := setCtx_group1 _ _
@[simp] theorem nextPc_groupPos1 (k : Core)  : (nextPc k).groupPos1 = k.groupPos1 := setCtx_groupPos1 _ _
@[simp] theorem nextPc_compat (k : Core)  : (nextPc k).compat = k.compat := setCtx_compat _ _
@[simp] theorem nextPc_expressCut (k : Core)  : (nextPc k).expressCut = k.expressCut := setCtx_expressCut _ _
@[simp] theorem nextPc_issued (k : Core)  : (nextPc k).issued = k.issued := setCtx_issued _ _
@[simp] theorem nextPc_computed (k : Core)  : (nextPc k).computed = k.computed := setCtx_computed _ _
@[simp] theorem nextPc_flushHalt (k : Core)  : (nextPc k).flushHalt = k.flushHalt := setCtx_flushHalt _ _

@[simp] theorem unstall_ctx0 (k : Core) : (unstall k).ctx0 = k.ctx0 := rfl
@[simp] theorem unstall_ctx1 (k : Core) : (unstall k).ctx1 = k.ctx1 := rfl
@[simp] theorem unstall_cur (k : Core) : (unstall k).cur = k.cur := rfl
@[simp] theorem unstall_bank (k : Core) : (unstall k).bank = k.bank := rfl
@[simp] theorem unstall_otherLoaded (k : Core) : (unstall k).otherLoaded = k.otherLoaded := rfl
@[simp] theorem unstall_leaving (k : Core) : (unstall k).leaving = k.leaving := rfl
@[simp] theorem unstall_prog0 (k : Core) : (unstall k).prog0 = k.prog0 := rfl
@[simp] theorem unstall_prog1 (k : Core) : (unstall k).prog1 = k.prog1 := rfl
@[simp] theorem unstall_sp (k : Core) : (unstall k).sp = k.sp := rfl
@[simp] theorem unstall_tags (k : Core) : (unstall k).tags = k.tags := rfl
@[simp] theorem unstall_spPoison (k : Core) : (unstall k).spPoison = k.spPoison := rfl
@[simp] theorem unstall_pwr (k : Core) : (unstall k).pwr = k.pwr := rfl
@[simp] theorem unstall_usable (k : Core) : (unstall k).usable = k.usable := rfl
@[simp] theorem unstall_zeroing (k : Core) : (unstall k).zeroing = k.zeroing := rfl
@[simp] theorem unstall_preloadFrom (k : Core) : (unstall k).preloadFrom = k.preloadFrom := rfl
@[simp] theorem unstall_starved (k : Core) : (unstall k).starved = k.starved := rfl
@[simp] theorem unstall_rings (k : Core) : (unstall k).rings = k.rings := rfl
@[simp] theorem unstall_sb (k : Core) : (unstall k).sb = k.sb := rfl
@[simp] theorem unstall_ops (k : Core) : (unstall k).ops = k.ops := rfl
@[simp] theorem unstall_reqs (k : Core) : (unstall k).reqs = k.reqs := rfl
@[simp] theorem unstall_grantsOut (k : Core) : (unstall k).grantsOut = k.grantsOut := rfl
@[simp] theorem unstall_grantsIn (k : Core) : (unstall k).grantsIn = k.grantsIn := rfl
@[simp] theorem unstall_tokens (k : Core) : (unstall k).tokens = k.tokens := rfl
@[simp] theorem unstall_taken (k : Core) : (unstall k).taken = k.taken := rfl
@[simp] theorem unstall_stalls (k : Core) : (unstall k).stalls = k.stalls := rfl
@[simp] theorem unstall_hazard (k : Core) : (unstall k).hazard = k.hazard := rfl
@[simp] theorem unstall_copyStalls (k : Core) : (unstall k).copyStalls = k.copyStalls := rfl
@[simp] theorem unstall_copyHazard (k : Core) : (unstall k).copyHazard = k.copyHazard := rfl
@[simp] theorem unstall_doneCount (k : Core) : (unstall k).doneCount = k.doneCount := rfl
@[simp] theorem unstall_timeHi (k : Core) : (unstall k).timeHi = k.timeHi := rfl
@[simp] theorem unstall_me (k : Core) : (unstall k).me = k.me := rfl
@[simp] theorem unstall_gated (k : Core) : (unstall k).gated = k.gated := rfl
@[simp] theorem unstall_group0 (k : Core) : (unstall k).group0 = k.group0 := rfl
@[simp] theorem unstall_groupPos0 (k : Core) : (unstall k).groupPos0 = k.groupPos0 := rfl
@[simp] theorem unstall_group1 (k : Core) : (unstall k).group1 = k.group1 := rfl
@[simp] theorem unstall_groupPos1 (k : Core) : (unstall k).groupPos1 = k.groupPos1 := rfl
@[simp] theorem unstall_compat (k : Core) : (unstall k).compat = k.compat := rfl
@[simp] theorem unstall_expressCut (k : Core) : (unstall k).expressCut = k.expressCut := rfl
@[simp] theorem unstall_issued (k : Core) : (unstall k).issued = k.issued := rfl
@[simp] theorem unstall_computed (k : Core) : (unstall k).computed = k.computed := rfl
@[simp] theorem unstall_flushHalt (k : Core) : (unstall k).flushHalt = k.flushHalt := rfl

@[simp] theorem unstall_waiting (k : Core) : (unstall k).waiting = none := rfl
@[simp] theorem unstall_waitingFree (k : Core) : (unstall k).waitingFree = false := rfl

end Sys2Proof.Laws
end

