-- ==== Sys2Proof/Laws/Core.lean ====
section
/-! SUPPORT. What a command on one core answers: the three outcomes of `withCore` and `ccRun`, said once. -/

namespace Sys2Proof.Laws

open Sys2Proof.Machine

/-- On a core that exists and whose island runs, the command has its effect. -/
theorem withCore_next (core : CoreId) (f : Core → State → State) (s : State) (he : coreExists s core = true)
    (hi : islandsOn s = true) : withCore core f s = .next (f (getCore s core.toNat) s) := by
  simp [withCore, he, hi]

/-- While islands stand still nothing happens. -/
theorem withCore_still (core : CoreId) (f : Core → State → State) (s : State) (he : coreExists s core = true)
    (hi : islandsOn s = false) : withCore core f s = .next s := by
  simp [withCore, he, hi]

/-- The one stop of the model: a core number that the device does not have. -/
theorem withCore_stop (core : CoreId) (f : Core → State → State) (s : State) (he : coreExists s core = false) :
    withCore core f s = .fault .noSuchCore := by
  simp [withCore, he]

/-- An instruction none of whose registers is the result of an operation in flight runs. -/
theorem ccRun_next (core : CoreId) (reads : List RegId) (f : Core → State → State) (s : State)
    (he : coreExists s core = true) (hi : islandsOn s = true)
    (hr : ∀ r ∈ reads, regPending (getCore s core.toNat) r = false) :
    ccRun core reads f s = .next (f (unstall (getCore s core.toNat)) s) := by
  unfold ccRun
  rw [withCore_next _ _ _ he hi, if_neg]
  simp only [List.any_eq_true, not_exists, not_and, Bool.not_eq_true]
  exact hr

/-- R241: otherwise it waits, and counts scoreboard. -/
theorem ccRun_waits (core : CoreId) (reads : List RegId) (f : Core → State → State) (s : State)
    (he : coreExists s core = true) (hi : islandsOn s = true) (r : RegId) (hm : r ∈ reads)
    (hr : regPending (getCore s core.toNat) r = true) :
    ccRun core reads f s = .next (setCore s core.toNat (stall 2 (getCore s core.toNat))) := by
  unfold ccRun
  rw [withCore_next _ _ _ he hi, if_pos]
  exact List.any_eq_true.mpr ⟨r, hm, hr⟩

theorem ccReg_next (core : CoreId) (reads : List RegId) (f : Core → Core) (s : State)
    (he : coreExists s core = true) (hi : islandsOn s = true)
    (hr : ∀ r ∈ reads, regPending (getCore s core.toNat) r = false) :
    ccReg core reads f s = .next (setCore s core.toNat (nextPc (f (unstall (getCore s core.toNat))))) :=
  ccRun_next core reads _ s he hi hr

theorem ccAlu_next (core : CoreId) (rd ra rb : RegId) (f : Word → Word → Word) (s : State)
    (he : coreExists s core = true) (hi : islandsOn s = true)
    (hr : ∀ r ∈ [ra, rb], regPending (getCore s core.toNat) r = false) :
    ccAlu core rd ra rb f s = .next (setCore s core.toNat (nextPc (setReg (unstall (getCore s core.toNat)) rd
      (f (getReg (getCore s core.toNat) ra) (getReg (getCore s core.toNat) rb))))) :=
  ccReg_next core _ _ s he hi hr

theorem ccImm_next (core : CoreId) (rd ra : RegId) (f : Word → Word) (s : State)
    (he : coreExists s core = true) (hi : islandsOn s = true) (hr : ∀ r ∈ [ra], regPending (getCore s core.toNat) r = false) :
    ccImm core rd ra f s = .next (setCore s core.toNat (nextPc (setReg (unstall (getCore s core.toNat)) rd
      (f (getReg (getCore s core.toNat) ra))))) :=
  ccReg_next core _ _ s he hi hr

/-- Setting a core changes that core alone. -/
theorem setCore_only (s : State) (c : Nat) (k : Core) :
    setCore s c k = { s with cores := (setCore s c k).cores } ∧ ∀ d, d ≠ c → getCore (setCore s c k) d = getCore s d :=
  ⟨rfl, fun d h => getCore_setCore_other s c d k h⟩

end Sys2Proof.Laws
end

