-- ==== Sys2Proof/Laws/Memory.lean ====
section
/-! SUPPORT. Byte memory: reading after writing, and that every operation keeps the canonical form (log entry 4). -/

namespace Sys2Proof.Laws

open Sys2Proof.Machine

/-- A cell of a memory after one byte is set is that byte, not 0, or a cell of the memory before at another address. -/
theorem mem_memSet (m : Memory) (a : Nat) (v : Byte) (c : Host.Cell) (h : c ∈ memSet m a v) :
    (c = (a, v) ∧ v ≠ 0) ∨ c ∈ m := by
  induction m with
  | nil =>
    simp only [memSet] at h
    split at h
    · simp at h
    · exact Or.inl ⟨by simpa using h, by assumption⟩
  | cons e r ih =>
    obtain ⟨k, b⟩ := e
    simp only [memSet] at h
    split at h
    · split at h
      · exact Or.inr h
      · rcases List.mem_cons.mp h with h | h
        · exact Or.inl ⟨h, by assumption⟩
        · exact Or.inr h
    · split at h
      · split at h
        · exact Or.inr (List.mem_cons_of_mem _ h)
        · rcases List.mem_cons.mp h with h | h
          · exact Or.inl ⟨h, by assumption⟩
          · exact Or.inr (List.mem_cons_of_mem _ h)
      · rcases List.mem_cons.mp h with h | h
        · exact Or.inr (h ▸ List.mem_cons_self)
        · rcases ih h with h | h
          · exact Or.inl h
          · exact Or.inr (List.mem_cons_of_mem _ h)

theorem memSet_rising (m : Memory) (a : Nat) (v : Byte) (h : m.Pairwise fun x y => x.1 < y.1) :
    (memSet m a v).Pairwise fun x y => x.1 < y.1 := by
  induction m with
  | nil => simp only [memSet]; split <;> simp
  | cons e r ih =>
    obtain ⟨k, b⟩ := e
    have hr := (List.pairwise_cons.mp h).2
    have hk := (List.pairwise_cons.mp h).1
    simp only [memSet]
    split
    · rename_i hak
      split
      · exact h
      · refine List.pairwise_cons.mpr ⟨fun c hc => ?_, h⟩
        rcases List.mem_cons.mp hc with hc | hc
        · subst hc; exact hak
        · exact Nat.lt_trans hak (hk c hc)
    · split
      · rename_i _ hak
        split
        · exact hr
        · refine List.pairwise_cons.mpr ⟨fun c hc => ?_, hr⟩
          have := hk c hc
          simp only at this ⊢
          omega
      · rename_i h1 h2
        refine List.pairwise_cons.mpr ⟨fun c hc => ?_, ih hr⟩
        rcases mem_memSet r a v c hc with hc | hc
        · rw [hc.1]; simp only; omega
        · exact hk c hc

/-- Setting a byte keeps the canonical form. -/
theorem memSet_wf (m : Memory) (a : Nat) (v : Byte) (h : Memory.wf m) : Memory.wf (memSet m a v) := by
  refine ⟨memSet_rising m a v h.1, fun c hc => ?_⟩
  rcases mem_memSet m a v c hc with hc | hc
  · rw [hc.1]; exact hc.2
  · exact h.2 c hc

/-- Writing bytes keeps the canonical form. -/
theorem memWrite_wf (m : Memory) (a : Nat) (bs : List Byte) (h : Memory.wf m) : Memory.wf (memWrite m a bs) := by
  induction bs generalizing m a with
  | nil => exact h
  | cons b r ih => exact ih _ _ (memSet_wf m a b h)

/-- Clearing bytes keeps the canonical form. -/
theorem memClear_wf (m : Memory) (a n : Nat) (h : Memory.wf m) : Memory.wf (memClear m a n) :=
  ⟨h.1.filter _, fun c hc => h.2 c (List.mem_filter.mp hc).1⟩

/-- Below every listed address a memory reads 0. -/
theorem memGet_below (m : Memory) (a : Nat) (h : ∀ c ∈ m, a < c.1) : memGet m a = 0 := by
  cases m with
  | nil => rfl
  | cons e r =>
    have := h e List.mem_cons_self
    obtain ⟨k, b⟩ := e
    simp only at this
    simp only [memGet]
    rw [if_neg (by omega), if_pos this]

/-- Reading a byte after setting one, of a memory in canonical form. -/
theorem memGet_memSet (m : Memory) (a c : Nat) (v : Byte) (hw : Memory.wf m) :
    memGet (memSet m a v) c = if c = a then v else memGet m c := by
  have h := hw.1
  clear hw
  induction m with
  | nil =>
    rw [memSet]
    by_cases hv : v = 0
    · rw [if_pos hv, hv]; simp [memGet]
    · rw [if_neg hv]
      by_cases hc : c = a
      · simp [memGet, hc]
      · simp [memGet, hc, Ne.symm hc]
  | cons e r ih =>
    obtain ⟨k, b⟩ := e
    have hr := (List.pairwise_cons.mp h).2
    have hk := (List.pairwise_cons.mp h).1
    simp only [memSet]
    split
    · rename_i hak
      by_cases hv : v = 0
      · rw [if_pos hv]
        by_cases hc : c = a
        · simp only [memGet, hc, if_true]
          rw [if_neg (by omega), if_pos hak, hv]
        · rw [if_neg hc]
      · rw [if_neg hv]
        by_cases hc : c = a
        · simp [memGet, hc]
        · rw [if_neg hc, memGet, if_neg (by omega)]
          split
          · rename_i hca
            rw [memGet, if_neg (by omega), if_pos (by omega)]
          · rfl
    · split
      · rename_i _ hak
        subst hak
        by_cases hv : v = 0
        · rw [if_pos hv]
          by_cases hc : c = a
          · rw [if_pos hc, hv]
            exact memGet_below r c fun d hd => by have := hk d hd; simp only at this; omega
          · rw [if_neg hc, memGet, if_neg (by omega)]
            split
            · exact memGet_below r c fun d hd => by have := hk d hd; simp only at this; omega
            · rfl
        · rw [if_neg hv]
          by_cases hc : c = a
          · simp [memGet, hc]
          · simp only [memGet, hc, Ne.symm hc, if_false]
      · rename_i h1 h2
        rw [memGet, memGet, ih hr]
        by_cases hc : c = a
        · rw [if_neg (by omega), if_neg (by omega), if_pos hc, if_pos hc]
        · rw [if_neg hc, if_neg hc]

/-- Reading a byte after a run of bytes is written. -/
theorem memGet_memWrite (m : Memory) (a c : Nat) (bs : List Byte) (h : Memory.wf m) :
    memGet (memWrite m a bs) c = if a ≤ c ∧ c < a + bs.length then bs.getD (c - a) 0 else memGet m c := by
  induction bs generalizing m a with
  | nil => simp only [memWrite, List.length_nil]; rw [if_neg (by omega)]
  | cons b r ih =>
    simp only [memWrite, List.length_cons]
    rw [ih _ _ (memSet_wf m a b h), memGet_memSet m a c b h]
    by_cases h1 : a + 1 ≤ c ∧ c < a + 1 + r.length
    · rw [if_pos h1, if_pos (by omega)]
      have : c - a = (c - (a + 1)) + 1 := by omega
      rw [this, List.getD_cons_succ]
    · rw [if_neg h1]
      by_cases h2 : c = a
      · subst h2
        rw [if_pos rfl, if_pos (by omega)]
        simp
      · rw [if_neg h2, if_neg (by omega)]

/-- Outside the bytes written a memory reads as before. -/
theorem memGet_memWrite_outside (m : Memory) (a c : Nat) (bs : List Byte) (h : Memory.wf m)
    (ho : c < a ∨ a + bs.length ≤ c) : memGet (memWrite m a bs) c = memGet m c := by
  rw [memGet_memWrite m a c bs h, if_neg (by omega)]

theorem memRead_memWrite_same (m : Memory) (a : Nat) (bs : List Byte) (h : Memory.wf m) :
    memRead (memWrite m a bs) a bs.length = bs := by
  apply List.ext_getElem
  · simp [memRead]
  · intro i h1 h2
    simp only [memRead, List.getElem_map, List.getElem_range, memGet_memWrite m a _ bs h]
    rw [if_pos (by omega)]
    simp [h2]

/-! DRAM (R364-R366). -/

theorem dramWrite_wf (s : State) (a : Nat) (bs : List Byte) (p : Bool) (h : Memory.wf s.dram) :
    Memory.wf (dramWrite s a bs p).dram := memWrite_wf _ _ _ h

end Sys2Proof.Laws
end

