-- ==== Sys2Proof/WellFormed.lean ====
section
/-! DEFINITION. The commands that the spec's encodings admit: the sizes that its tables give the operands. -/

namespace Sys2Proof

/-- R392: a command entry is sixteen words from one of four queues. -/
def HostCmd.wf (c : HostCmd) : Bool := c.words.length == 16

/-- R432: a module has four emitters and four ports. -/
def LaserEnv.wf (e : LaserEnv) : Bool := e.initialBias.length == 4 && e.linkTrains.length == 4

/-- R467: four modules, twelve compute dies, and the seven steps with units. -/
def StartEnv.wf (e : StartEnv) : Bool :=
  e.lasers.length == 4 && e.lasers.all LaserEnv.wf && e.columnsLost.length == 12 && e.columnsSpare.length == 12 &&
  e.steps.length == 7 && e.steps.all (fun t => t.failUnits.length == 3)

/-- R511: 21 rails. -/
def DecisionEnv.wf (e : DecisionEnv) : Bool := e.railMw.length == 21

/-- R436: four modules with four emitters each, and twelve stacks. -/
def WindowEnv.wf (e : WindowEnv) : Bool :=
  e.lasers.length == 4 && e.dramHotSeconds.length == 12 &&
  e.lasers.all (fun w => match w.reading with | some r => r.2.length == 4 | none => true)

/-- R363: an 80-bit codeword has at most 80 bits in error. -/
def CwError.wf (e : CwError) : Bool := decide (e.bits ≤ 80) && decide (e.verdict.toNat ≤ 2)

/-- R367: a read of 64 bytes is eight codewords. -/
def readWf (l : List CwError) : Bool := l.length == 8 && l.all CwError.wf

def Instr.wf (i : Instr) : Bool :=
  match i with
  | .startBegin e | .automaticRestart e => e.wf
  | .temperatureSample r => r.length == 32
  | .thymeDecision e => e.wf
  | .thymeWindowEnd e => e.wf
  | .d0ResumeComplete l | .commandFetch l => l.length == 4 && l.all LaserEnv.wf
  | .nop c | .phaseService c | .phaseTest c | .imageLoad c | .epoch c | .epochAbort c | .checkpoint c | .restore c
  | .kvEvict c | .kvRestore c | .kvFork c | .adaptRun c | .adaptStoreSave c | .adaptStoreRecall c | .scrub c
  | .journalCompact c | .laserQuiesce c | .attest c | .laserOverride c | .laserRevoke c | .ownerEnrol c
  | .ownerRevoke c => c.wf
  | .laserResume c e => c.wf && e.wf
  | .debugUnlock (some c) _ => c.wf
  | .railOutOfLimits r => decide (r.toNat < 21)
  | .avsRegulatorFail d => decide (d.toNat < 12)
  | .operatingMaximumHoldExpiry d => decide (d.toNat < 12)
  | .registerWrite _ size _ => decide (1 ≤ size ∧ size ≤ 8)
  | .reg64LowWordRead r => decide (1 ≤ r.size)
  | .reg64LowWordWrite off _ => off.toNat % 8 == 0
  | .mmuWalkComplete d _ _ => decide (d.toNat < 12)
  | .dramRead a e => decide (a.toNat % 64 = 0) && readWf e
  | .patrolScrubRead d e | .demandScrubRead d e => decide (d.toNat < 12) && readWf e
  | .flitReceive _ f => f.bytes.length == 256
  | .resultHoldoffExpiry v => decide (v.toNat ≠ 0)
  | .eventRaise _ _ _ d => decide (d.length ≤ 8)
  | _ => true

end Sys2Proof
end

