-- ==== Sys2Proof/Tests/Slice0.lean ====
section
/-! SUPPORT. Small tests: ill-formed commands that WellFormed refuses, words of the control core written out from
Tables 7.8 and 7.9, and for every statement states and operands that meet its hypotheses, with what the command answers. -/

namespace Sys2Proof.Tests

open Sys2Proof.Machine Sys2Proof.Claims

set_option Elab.async false

/-! Helpers: a device that is up, a core of it, a command entry, and what a command answers. -/

/-- A device past its start, with die 0 of DRAM and 64 cores. -/
def up : State :=
  { State.reset with
    hub.phase := .test, hub.ready := true, hub.linkUp := true, hub.fwRunning := true, hub.powerGood := true
    hub.enumerated := true, hub.coreCount := 64, hub.cd := 1, boot.step := 15 }

/-- A core with all banks usable and some registers set. -/
def coreOf (rs : List (RegId × Word)) : Core :=
  rs.foldl (fun k e => setReg k e.1 e.2) { Core.init with pwr := 255, usable := 255 }

/-- Core 3 of the device. -/
def withCore3 (k : Core) : State := setCore up 3 k

/-- Core 3 with some registers. -/
def at3 (rs : List (RegId × Word)) : State := withCore3 (coreOf rs)

/-- Words stored little-endian from an address on. -/
def words (a : Nat) (ws : List Nat) : Memory := memWrite [] a (ws.flatMap (leBytes 4))

/-- A command entry of queue 1: its first word and other words. -/
def cmd (op : Nat) (ws : List (Nat × Nat)) : HostCmd :=
  { queue := 1, words := (List.range 16).map fun i => BitVec.ofNat 32 (((ws.find? fun e => decide (e.1 = i)).map (·.2)).getD (if i = 0 then op else 0)) }

/-- The command answers a next state with the property. -/
def gives (i : Instr) (s : State) (p : State → Bool) : Bool :=
  match exec i s with
  | .next t => p t
  | _ => false

/-- The command ends in the fault of a core that does not exist. -/
def faults (i : Instr) (s : State) : Bool :=
  match exec i s with
  | .fault .noSuchCore => true
  | _ => false

/-- Two states agree in their events and cores. -/
def same (t u : State) : Bool := decide (t.evt = u.evt) && decide (t.cores = u.cores)

/-- A register of core 3. -/
def r3 (t : State) (r : RegId) : Word := getReg (getCore t 3) r

/-- The PC of core 3. -/
def pc3 (t : State) : Nat := (pcOf (getCore t 3)).toNat

/-! Control core: arithmetic, branches, memory, special registers (statements on IntegerAndImmediateArithmetic to WaitsAndSwitches). -/

theorem wit_coreRuns : CoreRuns 3 (at3 [(1, 5), (2, 7)]) [1, 2, 31] := by unfold CoreRuns; decide +kernel
/-- Of the last core of the device. -/
theorem wit_coreRuns_last : CoreRuns 63 up [0, 31] := by unfold CoreRuns; decide +kernel
theorem test_no_such_core : faults (.add 64 1 2 3) up = true := by decide +kernel
theorem test_add_wraps : gives (.add 3 1 1 2) (at3 [(1, 0xFFFFFFFF), (2, 2)]) (fun t => r3 t 1 == 1 && pc3 t == 1) = true := by decide +kernel
theorem test_sub : gives (.sub 3 4 1 2) (at3 [(1, 1), (2, 2)]) (fun t => r3 t 4 == 0xFFFFFFFF) = true := by decide +kernel
theorem test_and : gives (.and 3 4 1 2) (at3 [(1, 0xF0F0), (2, 0xFF00)]) (fun t => r3 t 4 == 0xF000) = true := by decide +kernel
theorem test_or : gives (.or 3 4 1 2) (at3 [(1, 0xF0F0), (2, 0xFF00)]) (fun t => r3 t 4 == 0xFFF0) = true := by decide +kernel
theorem test_xor : gives (.xor 3 4 1 2) (at3 [(1, 0xF0F0), (2, 0xFF00)]) (fun t => r3 t 4 == 0x0FF0) = true := by decide +kernel
theorem test_shl_by_33 : gives (.shl 3 4 1 2) (at3 [(1, 0x80000001), (2, 33)]) (fun t => r3 t 4 == 2) = true := by decide +kernel
theorem test_shr : gives (.shr 3 4 1 2) (at3 [(1, 0x80000000), (2, 31)]) (fun t => r3 t 4 == 1) = true := by decide +kernel
theorem test_sra : gives (.sra 3 4 1 2) (at3 [(1, 0x80000000), (2, 31)]) (fun t => r3 t 4 == 0xFFFFFFFF) = true := by decide +kernel
theorem test_mul : gives (.mul 3 4 1 2) (at3 [(1, 0x10001), (2, 0x10001)]) (fun t => r3 t 4 == 0x20001) = true := by decide +kernel
theorem test_slt : gives (.slt 3 4 1 2) (at3 [(1, 0xFFFFFFFF), (2, 0)]) (fun t => r3 t 4 == 1) = true := by decide +kernel
theorem test_sltu : gives (.sltu 3 4 1 2) (at3 [(1, 0xFFFFFFFF), (2, 0)]) (fun t => r3 t 4 == 0) = true := by decide +kernel
theorem test_addi : gives (.addi 3 4 1 0xFFFF) (at3 [(1, 5)]) (fun t => r3 t 4 == 4) = true := by decide +kernel
theorem test_lui : gives (.lui 3 4 0x8001) up (fun t => r3 t 4 == 0x80010000) = true := by decide +kernel
theorem test_andi : gives (.andi 3 4 1 0xFFFF) (at3 [(1, 0x12345678)]) (fun t => r3 t 4 == 0x5678) = true := by decide +kernel
theorem test_ori : gives (.ori 3 4 1 0x8000) (at3 [(1, 0x12340000)]) (fun t => r3 t 4 == 0x12348000) = true := by decide +kernel
/-- 1.5 + 2.25; 1 - 1; 3 x -0.5; 2 x 3 + 1; the conversions of 7 and of 2.5, ties away from zero. -/
theorem test_fadd : gives (.fadd 3 4 1 2) (at3 [(1, 0x3FC00000), (2, 0x40100000)]) (fun t => r3 t 4 == 0x40700000) = true := by decide +kernel
theorem test_fsub : gives (.fsub 3 4 1 1) (at3 [(1, 0x3F800000)]) (fun t => r3 t 4 == 0) = true := by decide +kernel
theorem test_fmul : gives (.fmul 3 4 1 2) (at3 [(1, 0x40400000), (2, 0xBF000000)]) (fun t => r3 t 4 == 0xBFC00000) = true := by decide +kernel
theorem test_fma : gives (.fma 3 4 1 2) (at3 [(1, 0x40000000), (2, 0x40400000), (4, 0x3F800000)]) (fun t => r3 t 4 == 0x40E00000) = true := by decide +kernel
theorem test_fmin : gives (.fmin 3 4 1 2) (at3 [(1, 0x80000000), (2, 0)]) (fun t => r3 t 4 == 0x80000000) = true := by decide +kernel
theorem test_fmax : gives (.fmax 3 4 1 2) (at3 [(1, 0x7F800000), (2, 0)]) (fun t => r3 t 4 == 0x7FC00000) = true := by decide +kernel
theorem test_i2f : gives (.i2f 3 4 1) (at3 [(1, 0xFFFFFFF9)]) (fun t => r3 t 4 == 0xC0E00000) = true := by decide +kernel
theorem test_f2i : gives (.f2i 3 4 1) (at3 [(1, 0x40200000)]) (fun t => r3 t 4 == 3) = true := by decide +kernel
theorem test_flt : gives (.flt 3 4 1 2) (at3 [(1, 0xBF800000), (2, 0x3F800000)]) (fun t => r3 t 4 == 1) = true := by decide +kernel
/-- Branches taken at both ends of the bank, not taken, and out of it. -/
theorem test_beq_taken : gives (.beq 3 1 1 0xFFF) up (fun t => pc3 t == 4095) = true := by decide +kernel
theorem test_beq_fault : gives (.beq 3 1 1 0x1000) up (fun t => same t (ccFault 3 0x18 (setCore up 3 (unstall (getCore up 3))))) = true := by decide +kernel
theorem test_bne : gives (.bne 3 1 2 5) (at3 [(1, 1)]) (fun t => pc3 t == 5) = true := by decide +kernel
theorem test_blt_back : gives (.blt 3 1 2 0xFFFF) (withCore3 (setPc (coreOf [(1, 0xFFFFFFFF)]) 7)) (fun t => pc3 t == 6) = true := by decide +kernel
theorem test_bge_not : gives (.bge 3 1 2 9) (at3 [(1, 0xFFFFFFFF)]) (fun t => pc3 t == 1) = true := by decide +kernel
theorem test_bltu_not : gives (.bltu 3 1 2 9) (at3 [(1, 0xFFFFFFFF)]) (fun t => pc3 t == 1) = true := by decide +kernel
theorem test_bgeu : gives (.bgeu 3 1 2 9) (at3 [(1, 0xFFFFFFFF)]) (fun t => pc3 t == 9) = true := by decide +kernel
theorem test_jal : gives (.jal 3 31 4095) up (fun t => pc3 t == 4095 && r3 t 31 == 1) = true := by decide +kernel
theorem test_jr : gives (.jr 3 1) (at3 [(1, 0x12345)]) (fun t => pc3 t == 0x345) = true := by decide +kernel
theorem wit_bsum : sumPending (getCore up 3) = false := by decide +kernel
theorem test_bsum : gives (.bsum 3 true 2 8) (withCore3 { coreOf [] with ctx0 := { Ctx.init with sumw := 2 } }) (fun t => pc3 t == 8) = true := by decide +kernel

def padCore : Core := { coreOf [(1, 8), (2, 0x11223344), (5, 3), (6, 64)] with sp := words 8 [0xA1B2C3D4], tags := [(0, 0x77)] }
theorem wit_ld : powered padCore 8 4 = true ∧ readBlocked padCore 8 = false ∧ rawViolation padCore true false 8 4 = none ∧
    spPoisoned padCore 8 4 = false ∧ rawViolation padCore true true 8 4 = none ∧ writeBlocked padCore 8 = false ∧ Memory.wf padCore.sp := by decide +kernel
theorem test_ld : gives (.ld 3 4 1 0) (withCore3 padCore) (fun t => r3 t 4 == 0xA1B2C3D4) = true := by decide +kernel
theorem test_ld_misaligned : gives (.ld 3 4 1 1) (withCore3 padCore) (fun t => same t (ccFault 3 0x10 (setCore (withCore3 padCore) 3 (unstall padCore)))) = true := by decide +kernel
theorem test_ldt : gives (.ldt 3 4 1 0) (withCore3 padCore) (fun t => r3 t 4 == 0x77) = true := by decide +kernel
theorem test_st : gives (.st 3 2 1 4) (withCore3 padCore) (fun t => memGet (getCore t 3).sp 12 == 0x44 && memGet (getCore t 3).sp 15 == 0x11 &&
    memGet (getCore t 3).sp 11 == 0xA1) = true := by decide +kernel
theorem test_st_unpowered : gives (.st 3 2 1 4) up (fun t => same t (ccFault 3 0x11 (setCore up 3 (unstall (getCore up 3))))) = true := by decide +kernel
/-- LDR of the core itself, and of another core. -/
theorem test_ldr_own : gives (.ldr 3 4 5 1) (withCore3 padCore) (fun t => r3 t 4 == 0xA1B2C3D4 && vget 0 (getCore t 3).stalls 4 == 1) = true := by decide +kernel
theorem wit_ldr : powered (getCore (setCore (withCore3 padCore) 9 { padCore with gated := true }) 9) 8 4 = true ∧
    coreExists up (BitVec.ofNat 17 3) = true := by decide +kernel
theorem test_str : gives (.str 3 2 5 1) (withCore3 { padCore with grantsIn := [{ dst := 3, num := 0, base := 0, len := 64 }] })
    (fun t => t.mesh == [Msg.write 3 3 8 [0x44, 0x33, 0x22, 0x11] false none] && pc3 t == 1) = true := by decide +kernel
theorem test_str_waits : gives (.str 3 2 5 1) (withCore3 padCore) (fun t => same t (setCore (withCore3 padCore) 3 (stall 1 (unstall padCore)))) = true := by decide +kernel

theorem test_mfs_core : gives (.mfs 3 4 1) up (fun t => r3 t 4 == 3) = true := by decide +kernel
theorem test_mfs_time : gives (.mfs 3 4 4) { up with clk.time := 0x100000002 } (fun t => r3 t 4 == 2 && (getCore t 3).timeHi == 1) = true := by decide +kernel
theorem test_mfs_fault : gives (.mfs 3 4 17) up (fun t => same t (ccFault 3 0x21 (setCore up 3 (unstall (getCore up 3))))) = true := by decide +kernel
theorem test_mts : gives (.mts 3 1 15) (at3 [(1, 9)]) (fun t => vget 0 (getCore t 3).stalls 7 == 9) = true := by decide +kernel
theorem test_mts_fault : gives (.mts 3 1 7) up (fun t => same t (ccFault 3 0x22 (setCore up 3 (unstall (getCore up 3))))) = true := by decide +kernel

theorem test_ccNop : gives (.ccNop 3 0) up (fun t => pc3 t == 1) = true := by decide +kernel
theorem wit_ccNop_bad : (1 : Word) ≠ 0 ∧ ccDecode 3 1 = none ∧ gives (.ccNop 3 1) up (fun t => same t (ccFault 3 0 (setCore up 3 (unstall (getCore up 3))))) = true := by decide +kernel
theorem test_yield : gives (.yield 3) up (fun t => pc3 t == 1) = true := by decide +kernel
theorem test_yield_compat : gives (.yield 3) (withCore3 { coreOf [] with compat := true, ctx1 := { Ctx.init with pc := 9 } })
    (fun t => pc3 t == 9 && (getCore t 3).cur == 1 && (getCore t 3).ctx0.pc == 1) = true := by decide +kernel
theorem test_waitop : gives (.waitop 3 1) (at3 [(1, 0xFFFFFFFF)]) (fun t => pc3 t == 1) = true := by decide +kernel
theorem test_waitop_waits : gives (.waitop 3 1) (withCore3 { coreOf [(1, 15)] with ops := [{ Op.init with id := 15 }] })
    (fun t => pc3 t == 0 && (getCore t 3).waitingFree) = true := by decide +kernel

/-! Tokens, rings and grants (TakeGivesTheEarliestToken to GrantsAreGivenAndEnded). -/

def tokA : Token := { Token.init with stream := 5, chunk := 9, deadline := 300, frames := 4, express := true }
def tokB : Token := { tokA with stream := 6, deadline := 200, bank := 1, final := true, express := false }
/-- A core that holds both tokens, with both program banks loaded. -/
def takeCore : Core := { coreOf [] with tokens := [tokA, tokB], otherLoaded := true }
theorem wit_take : takeFull takeCore = false ∧ banksReady takeCore = true ∧
    bestToken (takeCore.tokens.filter (eligible (withCore3 takeCore) takeCore)) = some tokB ∧ tokB.bank ≠ takeCore.bank := by decide +kernel
theorem test_take : gives (.take 3 27) (withCore3 takeCore) (fun t => r3 t 27 == 0x9006 && r3 t 28 == 9 && r3 t 29 == 200 && r3 t 30 == 4 &&
    r3 t 31 == 0 && pc3 t == 0 && (getCore t 3).bank == 1 && decide ((getCore t 3).tokens = [tokA])) = true := by decide +kernel
theorem test_take_rd : gives (.take 3 28) (withCore3 takeCore) (fun t => same t (ccFault 3 0x26 (withCore3 takeCore))) = true := by decide +kernel
theorem test_take_waits : gives (.take 3 0) up (fun t => (getCore t 3).waitingFree) = true := by decide +kernel

def doneCore : Core := { coreOf [(1, 6)] with taken := [{ Taken.init with tok := tokB }] }
theorem wit_done : (doneCore.taken.find? fun t => decide (t.tok.stream.toNat = (getReg doneCore 1).toNat)) = some { Taken.init with tok := tokB } := by decide +kernel
theorem test_done : gives (.done 3 1) (withCore3 doneCore) (fun t => (getCore t 3).taken.isEmpty && (getCore t 3).doneCount == 1 && pc3 t == 1) = true := by decide +kernel
theorem test_done_fault : gives (.done 3 2) (withCore3 doneCore) (fun t => same t (ccFault 3 0x27 (withCore3 doneCore))) = true := by decide +kernel

/-- A ring of 4 slots of 64 B at 0x1000 with two slots: slot 3 committed, slot 0 allocated by the control core. -/
def ringA : Ring :=
  { Ring.init with base := 0x1000, en := true, nslots := 4, head := 3, writer := some 16, slots := [{ Slot.init with idx := 3, state := .committed }, { Slot.init with idx := 0 }] }
/-- Registers: 1 the ring, 2 slot 3, 3 slot 0, 4 a ring record, 5 a tag, 6 an address in no slot. -/
def ringCore : Core :=
  { setRing (coreOf [(1, 2), (2, 0x10C0), (3, 0x1000), (4, 0x2000), (5, 0x12345), (6, 0x1100), (7, 15)]) 2 ringA with sp := words 0x2000 [0x00100800, 0x800] }
theorem wit_rcfg : powered ringCore 0x2000 16 = true ∧
    ringRecordOk up { ringCore with sp := words 0x2000 [0x00100800 + 0x1F800, 1] } 15 [0x0011F800, 1, 0, 0] = true ∧
    ((getRing ringCore 15).en && ringInUse (getRing ringCore 15)) = false := by decide +kernel
theorem test_rcfg : gives (.rcfg 3 7 4) (withCore3 { ringCore with sp := words 0x2000 [0x0011FFC0, 1] })
    (fun t => (getRing (getCore t 3) 15).base == 0x1FFC0 && (getRing (getCore t 3) 15).en && (getRing (getCore t 3) 15).nslots == 1 && pc3 t == 1) = true := by decide +kernel
theorem test_rcfg_bad : gives (.rcfg 3 7 4) (withCore3 { ringCore with sp := words 0x2000 [0x0011FFC0, 2] })
    (fun t => same t (ccFault 3 0x28 (withCore3 { ringCore with sp := words 0x2000 [0x0011FFC0, 2] }))) = true := by decide +kernel
theorem test_rwait_committed : gives (.rwaitCommitted 3 9 1) (withCore3 ringCore) (fun t => r3 t 9 == 0x10C0 && pc3 t == 1) = true := by decide +kernel
theorem test_rwait_waits : gives (.rwaitCommitted 3 9 7) (withCore3 ringCore) (fun t => pc3 t == 0 && vget 0 (getCore t 3).stalls 0 == 1) = true := by decide +kernel
theorem test_rwait_allocate : gives (.rwaitAllocate 3 9 1) (withCore3 ringCore) (fun t => r3 t 9 == 0x1040 && (getRing (getCore t 3) 2).slots.length == 3) = true := by decide +kernel
theorem test_rwait_full : gives (.rwaitAllocate 3 9 1) (withCore3 (setRing ringCore 2 { ringA with nslots := 2, head := 1 })) (fun t => pc3 t == 0 && vget 0 (getCore t 3).stalls 1 == 1) = true := by decide +kernel
theorem wit_rrel : slotOf ringA 0x10C0 = some 3 ∧ slotOf ringA 0x1100 = none ∧ slotOf ringA 0x1000 = some 0 ∧ nextFree ringA = some 1 ∧
    findSlot ringA 0 = some { Slot.init with idx := 0 } := by decide +kernel
/-- HEAD passes the last slot, so its wrap bit turns. -/
theorem test_rrel : gives (.rrel 3 1 2) (withCore3 ringCore) (fun t => (getRing (getCore t 3) 2).head == 0 && (getRing (getCore t 3) 2).headWrap &&
    (getRing (getCore t 3) 2).slots.length == 1 && pc3 t == 1) = true := by decide +kernel
theorem test_rrel_fault : gives (.rrel 3 1 6) (withCore3 ringCore) (fun t => same t (ccFault 3 0x2A (withCore3 ringCore))) = true := by decide +kernel
theorem test_rcommit : gives (.rcommit 3 5 1 3) (withCore3 ringCore) (fun t => tagAt (getCore t 3) 0x1000 == 0x2345 && (filledSlots (getRing (getCore t 3) 2)).length == 2 &&
    pc3 t == 1) = true := by decide +kernel
theorem test_rcommit_fault : gives (.rcommit 3 5 1 6) (withCore3 ringCore) (fun t => same t (ccFault 3 0x2B (withCore3 ringCore))) = true := by decide +kernel

/-- Registers: 1 another core, 2 a grant record, 3 a grant number. -/
def grantCore : Core :=
  { coreOf [(1, 63), (2, 0), (3, 2)] with sp := words 0 [0x10000, 0x10000], grantsOut := [{ num := 0, src := 9, base := 32, len := 32, ended := false }, { num := 2, src := 9, base := 64, len := 32, ended := true }], grantsIn := [{ dst := 63, num := 2, base := 0, len := 64 }] }
theorem wit_grant : powered grantCore 0 8 = true ∧ powered grantCore 0x10000 0x10000 = true ∧ ringOverlap grantCore 16 0x10000 0x10000 = false ∧
    freeGrant grantCore = some 1 ∧ coreExists up (BitVec.ofNat 17 63) = true := by decide +kernel
theorem test_grant : gives (.grant 3 9 1 2) (withCore3 grantCore) (fun t => r3 t 9 == 1 && (getCore t 3).grantsOut.length == 3 &&
    decide ((getCore t 63).grantsIn = [{ dst := 3, num := 1, base := 0x10000, len := 0x10000 }])) = true := by decide +kernel
theorem test_gend : gives (.gend 3 1 3) (withCore3 grantCore) (fun t => (getCore t 3).grantsIn.isEmpty && decide (t.mesh = [Msg.grantEnd 3 63 2]) && pc3 t == 1) = true := by decide +kernel
theorem test_gwait : gives (.gwait 3 3) (withCore3 grantCore) (fun t => (getCore t 3).grantsOut.length == 1 && pc3 t == 1) = true := by decide +kernel
theorem test_gwait_waits : gives (.gwait 3 2) (withCore3 grantCore) (fun t => (getCore t 3).grantsOut.length == 2 && pc3 t == 0) = true := by decide +kernel
def noticeState : State := { withCore3 grantCore with mesh := [Msg.grantEnd 9 3 0, Msg.write 8 3 32 [0] false none] }
theorem wit_grantEndNotice : takeMsg (fun m => match m with | .grantEnd _ d _ => decide (d = 3) | _ => false) noticeState.mesh =
      some (.grantEnd 9 3 0, [Msg.write 8 3 32 [0] false none]) ∧
    (noticeState.mesh.any fun m => isWrite m && decide (msgDst m = 3 ∧ msgSrc m = 9)) = false := by decide +kernel
theorem test_grantEndNotice : gives (.grantEndNotice 3) noticeState (fun t => t.mesh.length == 1 && (getCore t 3).grantsOut.all (·.ended)) = true := by decide +kernel

/-! The seven units of ISSUE (IssueStartsAnOperation). -/

/-- The hypotheses of an ISSUE that its unit accepts. -/
def issueHyps (u size align : Nat) (chains : Core → List Word → Option (List Word × List Word)) (plan : State → Core → Op → Plan)
    (s : State) (ra rb : RegId) : Bool :=
  let k := unstall (getCore s 3)
  let a := (getReg k ra).toNat
  let f := (getReg k rb).toNat
  let desc := wordsOf (size / 4) (spRead k a size)
  let fp := wordsOf 4 (spRead k f 16)
  match freeOpId k, chains k desc with
  | some id, some (pro, epi) =>
    let p := plan s k (newOp s k u id desc pro epi)
    let es := fpEntries fp id
    decide ((unitOps k u).length < queueDepth u) && decide (a % align = 0) && powered k a size && decide (f % 16 = 0) && powered k f 16 &&
    (p.regs.all fun r => !regPending k (BitVec.ofNat 5 r)) && (fp.all fun w => decide (fld w 26 6 = 0)) && (p.ranges.all fun r => rangeOk k es r) &&
    decide (k.sb.length + es.length ≤ 8) && !writeConflict k es && p.check.isNone && !ringsTaken k p
  | _, _ => false

/-- The scratchpad word of a footprint entry: lines of a byte range. -/
def fpWord (a n : Nat) (write : Bool) : Nat := a / 32 + 4096 * ((a + n - 1) / 32 - a / 32) + 2 ^ 24 * b2n write + 2 ^ 25

/-- Register 1 the descriptor at 0x400, register 2 the footprint at 0x600, register 3 misaligned by 16 less than the unit asks. -/
def issueAt (desc fp : List Nat) : State :=
  withCore3 { coreOf [(1, 0x400), (2, 0x600), (3, 0x408)] with sp := memWrite (words 0x400 desc) 0x600 (fp.flatMap (leBytes 4)) }

/-- A tile of 1 x 1 over K = 32 in F16: A, W and the result of 32 bytes each. -/
def meDesc : List Nat := [3, 32, 0x10001, 0x1000, 64, 0x1800, 64, 0, 0, 0, 0x2000, 64, 0, 0, 0, 0]
def meFp : List Nat := [fpWord 0x1000 64 false, fpWord 0x1800 64 false, fpWord 0x2000 64 true, 0]
theorem wit_issueMe : issueHyps 0 64 32 meChains mePlan (issueAt meDesc meFp) 1 2 = true := by decide +kernel
theorem test_issueMe : gives (.issueMe 3 9 1 2) (issueAt meDesc meFp) (fun t => r3 t 9 == 0 && pc3 t == 1 && (getCore t 3).ops.length == 1 && (getCore t 3).sb.length == 3) = true := by decide +kernel
/-- EC of one element: X and O of one F32 element, Y and Z absent. -/
def ecDesc : List Nat :=
  List.replicate 16 0 ++ [0x1000, 0, 0x10001, 0x10001, 1, 0, 0, 0] ++ [2 * 2 ^ 17, 0, 0, 0, 0, 0, 0, 0] ++ [2 * 2 ^ 17, 0, 0, 0, 0, 0, 0, 0] ++ [0x2000, 0, 0x10001, 0x10001, 1, 0, 0, 0]
theorem wit_issueEc : issueHyps 1 192 32 noChains ecPlan (issueAt ecDesc [fpWord 0x1000 4 false, fpWord 0x2000 4 true, 0, 0]) 1 2 = true := by decide +kernel
theorem test_issueEc : gives (.issueEc 3 9 1 2) (issueAt ecDesc [fpWord 0x1000 4 false, fpWord 0x2000 4 true]) (fun t => r3 t 9 == 0 && (getCore t 3).ops.length == 1) = true := by decide +kernel
theorem test_issueEc_rejected : gives (.issueEc 3 9 3 2) (issueAt ecDesc []) (fun t => (getCore t 3).ops.isEmpty && pc3 t == 1) = true := by decide +kernel
/-- GP of one position of one channel. -/
def gpDesc : List Nat := [0, 0x10001, 0x10001, 0x1000, 0x1800, 0x2000, 0x2800, 0, 0x3000, 0x3800, 0, 0x4000, 0x5000, 0x6000, 0, 0]
def gpFp : List Nat := [fpWord 0x1000 0x2820 false, fpWord 0x4000 8 true, fpWord 0x5000 4 true, fpWord 0x6000 4 false]
theorem wit_issueGp : issueHyps 2 64 32 noChains gpPlan (issueAt gpDesc gpFp) 1 2 = true := by decide +kernel
theorem test_issueGp : gives (.issueGp 3 9 1 2) (issueAt gpDesc gpFp) (fun t => r3 t 9 == 0 && (getCore t 3).ops.length == 1 && (getCore t 3).sb.length == 4) = true := by decide +kernel
/-- The finish of one record of one head. -/
def atDesc : List Nat := [0x102, 1, 0, 0, 0, 0, 0, 1, 0x2000, 0x1000, 0, 0, 0, 0, 0, 0]
theorem wit_issueAttention : issueHyps 3 64 32 noChains atPlan (issueAt atDesc [fpWord 0x1000 528 false, fpWord 0x2000 512 true, 0, 0]) 1 2 = true := by decide +kernel
theorem test_issueAttention : gives (.issueAttention 3 9 1 2) (issueAt atDesc [fpWord 0x1000 528 false, fpWord 0x2000 512 true, 0, 0])
    (fun t => r3 t 9 == 0 && (getCore t 3).ops.length == 1) = true := by decide +kernel
/-- A transfer of 256 bytes from device memory 0x10000 to the pad; its request is sent at once. -/
def dmaDesc : List Nat := [0x10, 0, 256, 0x10001, 0x10001, 0, 0x10000, 0, 0, 0, 0, 0, 1, 0x2000, 0, 0, 0, 0, 0]
theorem wit_issueDma : issueHyps 4 128 32 noChains dmaPlan (issueAt dmaDesc [fpWord 0x2000 256 true, 0, 0, 0]) 1 2 = true := by decide +kernel
theorem test_issueDma : gives (.issueDma 3 9 1 2) (issueAt dmaDesc [fpWord 0x2000 256 true, 0, 0, 0])
    (fun t => r3 t 9 == 0 && (getCore t 3).ops.length == 1 && (getCore t 3).reqs.length == 1) = true := by decide +kernel
theorem wit_issueFill : issueHyps 5 16 16 noChains (fcPlan false) (issueAt [0x2000, 0, 64, 7] [fpWord 0x2000 64 true, 0, 0, 0]) 1 2 = true := by decide +kernel
theorem test_issueFill : gives (.issueFill 3 9 1 2) (issueAt [0x2000, 0, 64, 7] [fpWord 0x2000 64 true, 0, 0, 0])
    (fun t => r3 t 9 == 0 && (getCore t 3).ops.length == 1) = true := by decide +kernel
theorem wit_issueCopy : issueHyps 6 16 16 noChains (fcPlan true) (issueAt [0x2000, 0x1000, 64, 0] [fpWord 0x2000 64 true, fpWord 0x1000 64 false, 0, 0]) 1 2 = true := by decide +kernel
theorem test_issueCopy : gives (.issueCopy 3 9 1 2) (issueAt [0x2000, 0x1000, 64, 0] [fpWord 0x2000 64 true, fpWord 0x1000 64 false, 0, 0])
    (fun t => r3 t 9 == 0 && (getCore t 3).ops.length == 1 && (getCore t 3).sb.length == 2) = true := by decide +kernel
/-- A full queue makes ISSUE wait. -/
theorem test_issueFill_full : gives (.issueFill 3 9 1 2) (withCore3 { coreOf [] with ops := (List.range 4).map fun i => { Op.init with id := i, unit := 5 } })
    (fun t => vget 0 (getCore t 3).stalls 2 == 1 && pc3 t == 0) = true := by decide +kernel

/-! What the engines do (MatrixTileDrains to AttentionOperationRuns). -/

/-- An operation in flight on core 3. -/
def opOf (u : BitVec 3) (desc : List Nat) : Op := { Op.init with unit := u, desc := desc.map (BitVec.ofNat 32) }
def core3 (t : State) : Core := getCore t 3
/-- The state after a command. -/
def after (i : Instr) (s : State) : State := match exec i s with
  | .next t => t
  | _ => s

/-- The operation whose tile is next, with its core as ME_OPERATION_HALT finds it and as ME_TILE_DRAIN does. -/
def meHaltAt (s : State) : State × Op := match meBegin 3 s with
  | some (s1, id) => (s1, (findOp (core3 s1) id).getD Op.init)
  | none => (s, Op.init)
def meDrainAt (s : State) : State × Op := match meBegin 3 s with
  | some (s1, id) => (prologueNext 3 id s1, (findOp (core3 (prologueNext 3 id s1)) id).getD Op.init)
  | none => (s, Op.init)
def meAs (e : State × Op) : List RowData := tileRows (core3 e.1) e.2 (freeAcc e.1)
def meWs (e : State × Op) : List RowData := tileCols (core3 e.1) e.2
/-- What stands in the way of the next tile. -/
def meStop (e : State × Op) : Option (Nat × Nat × Nat × Nat) × Ready × Nat := (meFault e.1 (core3 e.1) e.2, (meReady (core3 e.1) e.2).2)

/-- A of 1.0 and W of 2.0 in their first elements: one tile, over K = 32. -/
def meOp : Op := opOf 0 meDesc
def meState : State := withCore3 { coreOf [] with sp := memWrite (memWrite [] 0x1000 [0, 0x3C]) 0x1800 [0, 0x40], ops := [meOp], sb := [{ SbEntry.init with write := true, op := 0, line := 0x100 }] }
theorem wit_meTileDrain : ((meBegin 3 meState).map (·.2)) = some 0 ∧ findOp (core3 (meDrainAt meState).1) 0 = some (meDrainAt meState).2 ∧
    meStop (meDrainAt meState) = (none, .ok, 0) ∧ (meDrainAt meState).2.pos = 0 ∧ (meBegin 3 up).isNone = true := by decide +kernel
theorem wit_meTileDrain_cell : ((meAs (meDrainAt meState)).all fun a => !a.nan) = true ∧
    ((meAs (meDrainAt meState)).map fun a => (meWs (meDrainAt meState)).map fun w => decide ((cellSum 3 a w).natAbs < 2 ^ 111)) = [[true]] := by decide +kernel
theorem test_meTileDrain : gives (.meTileDrain 3) meState (fun t => memWord (core3 t).sp 0x2000 == 0x40000000 && (core3 t).ops.map (·.pos) == [1]) = true := by decide +kernel
/-- A from a ring that holds nothing yet, and that holds a poison slot. -/
def meRingOp : Op := opOf 0 [3, 32, 0x10001, 2 ^ 17 + 2 * 2 ^ 19, 64, 0x1800, 64, 0, 0, 0, 0x2000, 64, 0, 0, 0, 0]
def meRingState (l : List Slot) : State := withCore3 { setRing (coreOf [(1, 1)]) 2 { ringA with writer := none, reader := some 0, slots := l } with ops := [meRingOp] }
theorem wit_meTileDrain_waits : ((meBegin 3 (meRingState [])).map (·.2)) = some 0 ∧ meStop (meDrainAt (meRingState [])) = (none, .wait, 0) ∧
    Ready.wait.halts = false := by decide +kernel
theorem test_meTileDrain_waits : gives (.meTileDrain 3) (meRingState []) (fun t => vget 0 (core3 t).stalls 0 == 1 && (core3 t).ops.length == 1) = true := by decide +kernel
theorem wit_meComplete : ((unitOps (core3 (after (.meTileDrain 3) meState)) 0).find? fun o => decide (meTiles o.desc ≤ o.pos)).map (fun x => (x.outBuf, x.part)) =
    some ([], []) := by decide +kernel
theorem test_meComplete : gives (.meOperationComplete 3) (after (.meTileDrain 3) meState) (fun t => (core3 t).ops.isEmpty && (core3 t).sb.isEmpty) = true := by decide +kernel
/-- I8 operands, the scale of W being the code 255. -/
def meBadOp : Op := opOf 0 [0, 32, 0x10001, 0x1000, 32, 0x1800, 32, 0x2800, 0x3000, 0, 0x2000, 64, 0, 0, 0, 0]
def meBadState : State := withCore3 { coreOf [] with sp := [(0x2800, 127), (0x3000, 255)], ops := [meBadOp] }
theorem wit_meHalt_scale : ((meBegin 3 meBadState).map (·.2)) = some 0 ∧ findOp (core3 (meHaltAt meBadState).1) 0 = some (meHaltAt meBadState).2 ∧
    (meStop (meHaltAt meBadState)).1 = some (0, 0, 1, 2) := by decide +kernel
theorem test_meHalt_scale : gives (.meOperationHalt 3) meBadState (fun t => (core3 t).ops.isEmpty && (core3 t).me.zero0 && t.evt.handling.toList.map (·.code) == [0x0104]) = true := by decide +kernel
def poisonSlot : Slot := { Slot.init with idx := 3, state := .committed, poison := true }
theorem wit_meHalt_poison : (meStop (meHaltAt (meRingState [poisonSlot]))).1 = none ∧ (meStop (meHaltAt (meRingState [poisonSlot]))).2.1 = .poisoned := by decide +kernel
theorem test_meHalt_poison : gives (.meOperationHalt 3) (meRingState [poisonSlot]) (fun t => (core3 t).ops.isEmpty && t.evt.handling.isNone) = true := by decide +kernel
/-- W inside an enabled ring. -/
def meRawState : State := withCore3 { setRing (coreOf []) 2 { ringA with base := 0x1800, writer := none, slots := [] } with ops := [meOp] }
theorem wit_meHalt_raw : (meStop (meHaltAt meRawState)).1 = none ∧ (meStop (meHaltAt meRawState)).2.1 = .raw false 2 0 0x1800 := by decide +kernel
theorem test_meHalt_raw : gives (.meOperationHalt 3) meRawState (fun t => (core3 t).ops.isEmpty && t.evt.handling.toList.map (·.code) == [0x0203]) = true := by decide +kernel
theorem wit_haltedLeaves : heldCount meRawState.evt < 255 ∧ meOp.tok = none ∧ ringsWritten (core3 meRawState) 0 = [] := by decide +kernel

/-- EC: O = X, one element. -/
def ecOp : Op := opOf 1 ecDesc
def ecState : State := withCore3 { coreOf [] with sp := words 0x1000 [0x3FC00000], ops := [ecOp] }
theorem wit_ecComplete : headOp (core3 ecState) 1 = some ecOp ∧ firstStop (ecPull (core3 ecState) ecOp) ecOp = none ∧
    findOp (ecPull (core3 ecState) ecOp) 0 = some ecOp ∧ tSrc (tO ecOp.desc) ≠ 1 := by decide +kernel
theorem test_ecComplete : gives (.ecOperationComplete 3) ecState (fun t => memWord (core3 t).sp 0x2000 == 0x3FC00000 && (core3 t).ops.isEmpty) = true := by decide +kernel
/-- EC: the sum of X, 1.5 + 2.0, goes to 0x3000 and register 7, with the summary word. -/
def ecSumOp : Op := opOf 1 ([30, 0x3000] ++ List.replicate 6 0 ++ [0x1000005] ++ List.replicate 7 0 ++ [0x1000, 0, 0x10002, 0x10001, 0x10001, 0, 0, 0] ++
  [2 * 2 ^ 17, 0, 0, 0, 0, 0, 0, 0] ++ [2 * 2 ^ 17, 0, 0, 0, 0, 0, 0, 0] ++ [2 * 2 ^ 17, 0, 0, 0, 0, 0, 0, 0])
def ecSumState : State := withCore3 { coreOf [] with sp := words 0x1000 [0x3FC00000, 0x40000000], ops := [ecSumOp] }
theorem wit_ecSum : ecEncoding ecSumOp.desc = false ∧ ecSumEn ecSumOp = true ∧ headOp (core3 ecSumState) 1 = some ecSumOp ∧
    firstStop (ecPull (core3 ecSumState) ecSumOp) ecSumOp = none ∧ (ecRed ecSumOp.desc).map redResultBytes = some 4 := by decide +kernel
theorem test_ecSum : gives (.ecOperationComplete 3) ecSumState (fun t => memWord (core3 t).sp 0x3000 == 0x40600000 && r3 t 7 == 0x40600000) = true := by decide +kernel
/-- EC: an I8 X whose scale is 255, a poison slot, an X inside an enabled ring, an X in a ring that is empty. -/
def ecX (x : List Nat) : Op := opOf 1 (List.replicate 16 0 ++ x ++ [2 * 2 ^ 17, 0, 0, 0, 0, 0, 0, 0] ++ [2 * 2 ^ 17, 0, 0, 0, 0, 0, 0, 0] ++ [0x2000, 0, 0x10001, 0x10001, 1, 0, 0, 0])
def ecWith (o : Op) (k : Core) : State := withCore3 { k with ops := [o] }
def ecBadOp : Op := ecX [0x1000 + 2 * 2 ^ 23, 0x3000, 0x10001, 0x10001, 0x10001, 0, 0, 0]
def ecBad : State := ecWith ecBadOp { coreOf [] with sp := [(0x3000, 255)] }
theorem wit_ecHalt_scale : firstStop (ecPull (core3 ecBad) ecBadOp) ecBadOp = some (0, 0, 0, .scale 0 2) := by decide +kernel
theorem test_ecHalt_scale : gives (.ecOperationHalt 3) ecBad (fun t => (core3 t).ops.isEmpty && t.evt.handling.toList.map (·.code) == [0x0104]) = true := by decide +kernel
def ecRingOp : Op := ecX [2 ^ 17 + 2 * 2 ^ 19, 0, 0x10001, 0x10001, 1, 0, 0, 0]
def ecRing (l : List Slot) : State := ecWith ecRingOp (setRing (coreOf [(1, 1)]) 2 { ringA with writer := none, reader := some 0, slots := l })
theorem wit_ecHalt_poison : headOp (core3 (ecRing [poisonSlot])) 1 = some ecRingOp ∧
    ((fun k => firstStop k ((findOp k 0).getD ecRingOp)) (ecPull (core3 (ecRing [poisonSlot])) ecRingOp)) = some (0, 0, 0, .ready .poisoned 0) := by decide +kernel
theorem test_ecHalt_poison : gives (.ecOperationHalt 3) (ecRing [poisonSlot]) (fun t => (core3 t).ops.isEmpty && t.evt.handling.isNone) = true := by decide +kernel
theorem wit_ecHalt_waits : firstStop (ecPull (core3 (ecRing [])) ecRingOp) ecRingOp = some (0, 0, 0, .ready .wait 0) := by decide +kernel
theorem test_ecHalt_waits : gives (.ecOperationHalt 3) (ecRing []) (fun t => (core3 t).ops.length == 1) = true := by decide +kernel
def ecRaw : State := ecWith ecOp (setRing (coreOf []) 2 { ringA with writer := none, slots := [] })
theorem wit_ecHalt_raw : firstStop (ecPull (core3 ecRaw) ecOp) ecOp = some (0, 0, 0, .ready (.raw false 2 0 0x1000) 0) := by decide +kernel
theorem test_ecHalt_raw : gives (.ecOperationHalt 3) ecRaw (fun t => (core3 t).ops.isEmpty && t.evt.handling.toList.map (·.code) == [0x0203]) = true := by decide +kernel

/-- GP: one position of one channel, then an express operation behind it. -/
def gpOp : Op := opOf 2 gpDesc
def gpExp : Op := { opOf 2 (0x10 :: gpDesc.tail) with id := 1 }
def gpState : State := withCore3 { coreOf [] with ops := [gpOp, gpExp] }
theorem wit_gpComplete : headOp (core3 gpState) 2 = some gpOp ∧ gpStop (gpPull (core3 gpState) gpOp) gpOp = none ∧
    findOp (gpPull (core3 gpState) gpOp) 0 = some gpOp ∧ (gpY gpOp.desc).ring = none ∧ (initBytes gpState (core3 gpState) gpOp).isSome = true := by decide +kernel
theorem test_gpComplete : gives (.gpOperationComplete 3) gpState (fun t => (core3 t).ops.map (·.id) == [1]) = true := by decide +kernel
theorem wit_expressGateInsert : unitOps (core3 gpState) 2 = gpOp :: [gpExp] ∧ [gpExp].find? (fun o => gpExpress o) = some gpExp ∧ gpExpress gpOp = false ∧
    gpStop (gpPull (core3 gpState) gpExp) gpExp = none := by decide +kernel
theorem test_expressGateInsert : gives (.expressGateInsert 3) gpState (fun t => (core3 t).ops.map (·.id) == [1, 0] && (core3 t).expressCut == 2) = true := by decide +kernel

/-- FILL of the last 8 bytes of the scratchpad, and COPY of 4 bytes. -/
def fcState (o : Op) : State := withCore3 { coreOf [] with sp := words 0x1000 [0x04030201], ops := [o] }
def fillOp : Op := { opOf 5 [0x1FFF8, 0, 8, 0xA1B2C3D4] with id := 15 }
def copyOp : Op := { opOf 6 [0x2000, 0x1000, 4, 0] with id := 15 }
theorem wit_fillCopy : Memory.wf (core3 (fcState fillOp)).sp ∧ findOp (core3 (fcState fillOp)) 15 = some fillOp ∧
    rawViolation (core3 (fcState fillOp)) false true 0x1FFF8 8 = none ∧ opBlocked (core3 (fcState copyOp)) 15 0x1000 4 = false ∧
    rawViolation (core3 (fcState copyOp)) false false 0x1000 4 = none := by decide +kernel
theorem test_fill : gives (.fillCopyComplete 3 15) (fcState fillOp) (fun t => memGet (core3 t).sp 0x1FFFF == 0xA1 && memGet (core3 t).sp 0x1FFF8 == 0xD4 &&
    memGet (core3 t).sp 0x1FFF7 == 0 && (core3 t).ops.isEmpty) = true := by decide +kernel
theorem test_copy : gives (.fillCopyComplete 3 15) (fcState copyOp) (fun t => memWord (core3 t).sp 0x2000 == 0x04030201 && memWord (core3 t).sp 0x2004 == 0 && (core3 t).ops.isEmpty) = true := by decide +kernel

/-- Attention: the finish of one record that holds m = 0, l = 2 and o(0) = 3, from scratchpad and from a ring that is empty; the
partial of a set without nodes. -/
def atOf (d : List Nat) (k : Core) : State := withCore3 { k with sp := words 0x1000 [0, 0x40000000, 0, 0, 0x40400000], ops := [opOf 3 d] }
def atFin : State := atOf atDesc (coreOf [])
/-- The core with the ring inputs of its attention operation taken in, the operation, and whether it is at the head and may run. -/
def atCore (s : State) : Core := ((headOp (core3 s) 3).map (atInputs (core3 s))).getD (core3 s)
def atTop (s : State) : Op := (findOp (atCore s) 0).getD Op.init
def atRuns (s : State) : Bool :=
  decide ((headOp (core3 s) 3).map (fun o => (o.id, o.ended, o.suspended)) = some (0, false, none)) &&
    decide ((Sys2Proof.Machine.atReady (setCore s 3 (atCore s)) (atCore s) (atTop s)).1 = .ok)
theorem wit_attention_finish : atRuns atFin = true ∧ (partialsIn (atCore atFin) (atTop atFin)).2 = none ∧
    partialsFull (atTop atFin).desc (partialsIn (atCore atFin) (atTop atFin)).1 = true := by decide +kernel
theorem test_attention_finish : gives (.attentionOperationComplete 3) atFin (fun t => memWord (core3 t).sp 0x2000 == 0x3FC00000 && (core3 t).ops.isEmpty) = true := by decide +kernel
def atWaitDesc : List Nat := [0x102, 1, 0, 0, 0, 0, 0, 1, 0x2000, 2 ^ 17 + 2 * 2 ^ 18, 0, 0, 0, 0, 0, 0]
def atWait : State := atOf atWaitDesc (setRing (coreOf []) 2 { ringA with slotLog2 := 4, writer := none, slots := [] })
theorem wit_attention_waits : atRuns atWait = true ∧ (partialsIn (atCore atWait) (atTop atWait)).2 = none ∧
    partialsFull (atTop atWait).desc (partialsIn (atCore atWait) (atTop atWait)).1 = false ∧
    ((atIn (atTop atWait).desc).ring.bind (poisonAt (atTop atWait))).isSome = false := by decide +kernel
theorem test_attention_waits : gives (.attentionOperationComplete 3) atWait (fun t => vget 0 (core3 t).stalls 0 == 1 && (core3 t).ops.length == 1) = true := by decide +kernel
/-- Records that an earlier FILL has yet to write, and an operation suspended at a fault. -/
def atBlocked : State := withCore3 { core3 atFin with
  ops := [{ opOf 5 [0x1000, 0, 64, 0] with id := 9 }, opOf 3 atDesc], sb := [{ SbEntry.init with write := true, op := 9, line := 0x80, count := 1 }] }
theorem test_attention_blocked : gives (.attentionOperationComplete 3) atBlocked (fun t => vget 0 (core3 t).stalls 2 == 1 && (core3 t).ops.length == 2) = true := by decide +kernel
theorem test_attention_suspended : gives (.attentionOperationComplete 3) (withCore3 { coreOf [] with ops := [{ opOf 3 atDesc with suspended := some 7 }] })
    (fun t => vget 0 (core3 t).stalls 5 == 1) = true := by decide +kernel
def atPartDesc : List Nat := [0x104, 1, 0x4000, 0, 0, 0, 0, 1, 0x2000, 0, 0, 0, 0x10000, 0, 0, 0]
def atPart : State := atOf atPartDesc (coreOf [])
theorem wit_attention_partial : atRuns atPart = true ∧
    (match atPartials (setCore atPart 3 (atCore atPart)) 3 (atCore atPart) (atTop atPart) with | .ok l => decide (l.length = 1) | .error _ => false) = true := by decide +kernel
theorem test_attention_partial : gives (.attentionOperationComplete 3) atPart (fun t => memWord (core3 t).sp 0x2000 == 0xFF7FFFFF && (core3 t).ops.isEmpty) = true := by decide +kernel
theorem test_attention_goes_on : gives (.attentionOperationComplete 3) (withCore3 { coreOf [] with ops := [{ opOf 3 atDesc with ended := true }] })
    (fun t => (core3 t).ops.isEmpty) = true := by decide +kernel

/-! The DMA engine, ring slots and the KV flush (DmaResponsesDeliver to HostReadErrorsAndWriteAcknowledgements). -/

/-- A transfer of 256 bytes: source space and address, destination space and address, with its descriptor's other bits. -/
def dmaOp (extra ss sa ds da : Nat) : Op :=
  { opOf 4 [extra, 0, 256, 0x10001, 0x10001, ss, sa % 2 ^ 32, sa / 2 ^ 32, 0, 0, 0, 0, ds, da % 2 ^ 32, da / 2 ^ 32, 0, 0, 0, 0] with pos := 256 }
def dmaReq : DmaReq := { DmaReq.init with tag := 15, len := 256, data := List.replicate 256 9 }
/-- The operation and its request on core 3. -/
def dmaState (o : Op) (q : DmaReq) : State := withCore3 { coreOf [(1, 1)] with ops := [o], reqs := [q], grantsIn := [{ dst := 9, num := 2, base := 0, len := 64 }] }
/-- Page 0 of the translated window lies in host memory at 0x10000, page 1 in DRAM at 0x20000, read-only. -/
def mapped (s : State) : State :=
  { s with dram := [(2048, 1), (2049, 0x40), (0x4000, 1), (0x4001, 0x80), (0x8000, 7), (0x8002, 1), (0x8008, 1), (0x800A, 2)] }
def page0 : Nat := 0x400000000000
def okPlace (r : Except Nat Place × State) (p : Place) : Bool := match r.1 with | .ok q => decide (q = p) | .error _ => false
def badPlace (r : Except Nat Place × State) (k : Nat) : Bool := match r.1 with | .ok _ => false | .error e => e == k

def dmaFar : State := setCore (dmaState (dmaOp 0x10 3 (9 * 2 ^ 32 + 0x1000) 1 0x2000) dmaReq) 9 { coreOf [] with sp := words 0x10FC [0xA1B2C3D4] }
theorem wit_dmaResponse_far : findReq (core3 dmaFar) 15 = some dmaReq ∧ (findOp (core3 dmaFar) 0).isSome = true ∧ Memory.wf (core3 dmaFar).sp ∧
    spCore (9 * 2 ^ 32 + 0x1000) = 9 := by decide +kernel
/-- The bytes return to the tag's buffer, and the engine's next cycle puts them into the pad. -/
theorem test_dmaResponse_far : gives (.dmaResponseReturn 3 15) dmaFar (fun t => memWord (core3 t).sp 0x20FC == 0xA1B2C3D4 && (core3 t).reqs.isEmpty) = true := by decide +kernel
def dmaMem : State := { dmaState (dmaOp 0x10 0 0x10000 1 0x2000) dmaReq with dram := words 0x10000 [0x01020304] }
theorem wit_dmaResponse_dram : okPlace (dieTranslate (coreDie dmaMem 3) 0x10000 false dmaMem) (false, 0x10000) = true := by decide +kernel
theorem test_dmaResponse_dram : gives (.dmaResponseReturn 3 15) dmaMem (fun t => memWord (core3 t).sp 0x2000 == 0x01020304 && (core3 t).reqs.isEmpty) = true := by decide +kernel
/-- A movement cycle with a returned buffer. -/
def dmaBack (p : Bool) : State := dmaState (dmaOp 0x10 0 0x10000 1 0x2000) { dmaReq with state := .returned, poison := p }
theorem wit_dmaStep : ((core3 (dmaBack false)).reqs.find? fun q => decide (q.state = .returned)) = some { dmaReq with state := .returned } ∧
    rawViolation (core3 (dmaBack false)) false true 0x2000 256 = none ∧ (dstAt (core3 (dmaBack false)) (dmaOp 0x10 0 0x10000 1 0x2000) 0).toNat = 0x2000 ∧
    (match dmaStep 3 (dmaBack false) with | .ok u => (core3 u).reqs.isEmpty && memGet (core3 u).sp 0x20FF == 9 && memGet (core3 u).sp 0x2100 == 0 | _ => false) = true ∧
    (match dmaStep 3 (dmaBack true) with | .ok u => spPoisoned (core3 u) 0x2000 256 && !spPoisoned (core3 u) 0x2100 1 | _ => false) = true := by decide +kernel
/-- The last byte of the present DRAM's window, and the first beyond it. -/
def dmaHole : State := dmaState (dmaOp 0x10 0 0x2400000000 1 0x2000) dmaReq
theorem wit_dmaResponse_fault : badPlace (dieTranslate (coreDie dmaHole 3) 0x2400000000 false dmaHole) 3 = true := by decide +kernel
theorem test_dmaResponse_fault : gives (.dmaResponseReturn 3 15) dmaHole (fun t => (core3 t).reqs.isEmpty &&
    (core3 t).ops.map (·.undone) == [[(0, 3, 0x2400000000, false)]]) = true := by decide +kernel

def dmaEnd (x : Nat) : State := withCore3 { coreOf [] with ops := [dmaOp x 1 0x2000 3 (9 * 2 ^ 32)], grantsIn := [{ dst := 9, num := 2, base := 0, len := 64 }] }
theorem wit_dmaComplete : nextPos (dmaOp 0 1 0x2000 3 (9 * 2 ^ 32)) = none ∧ (findOp (core3 (dmaEnd 0)) 0).map (·.unit) = some 4 := by decide +kernel
/-- GRANT_END of grant 2. -/
def dmaGrant : State := withCore3 { coreOf [] with ops := [{ dmaOp 0x80 1 0x2000 (3 + 512) (9 * 2 ^ 32) with pos := 256 }], grantsIn := [{ dst := 9, num := 2, base := 0, len := 64 }] }
theorem test_dmaComplete_grant : gives (.dmaOperationComplete 3 0) dmaGrant (fun t => (core3 t).ops.isEmpty && (core3 t).grantsIn.isEmpty && decide (t.mesh = [Msg.grantEnd 3 9 2])) = true := by decide +kernel
theorem test_dmaComplete : gives (.dmaOperationComplete 3 0) (dmaEnd 0) (fun t => (core3 t).ops.isEmpty && (core3 t).grantsIn.length == 1) = true := by decide +kernel

def ringS (l : List Slot) : State := withCore3 (setRing (coreOf [(1, 1)]) 15 { ringA with writer := none, windowBytes := 64, slots := l })
theorem test_ringSlotCommit : gives (.ringSlotCommit 3 15) (ringS [{ Slot.init with idx := 3, state := .full, tag := 7 }])
    (fun t => tagAt (core3 t) 0x10C0 == 7 && (filledSlots (getRing (core3 t) 15)).length == 1) = true := by decide +kernel
theorem wit_ringSlotRelease : routeOfRing (ringS []) (core3 (ringS [])) 15 = none := by decide +kernel
theorem test_ringSlotRelease : gives (.ringSlotRelease 3 15) (ringS [{ Slot.init with idx := 3, state := .read }])
    (fun t => (getRing (core3 t) 15).head == 0 && (getRing (core3 t) 15).slots.isEmpty && (getRing (core3 t) 15).windowBytes == 128) = true := by decide +kernel
/-- A ring of core 3 that a cross route drains to member 1 of the cascade. -/
def routed : State := { withCore3 { core3 (ringS [{ Slot.init with idx := 3, state := .committed }]) with group0 := some 2 } with
  cas := { Cas.init with state := 2, xrBase := 0x4000, xrCount := 1 }, dram := words 0x4000 [0x1F0002, 0x20003, 5] }
theorem test_ringSlotRelease_routed : (routeOfRing routed (core3 routed) 15).isSome = true ∧ gives (.ringSlotRelease 3 15) routed (fun t =>
    (getRing (core3 t) 15).head == 0 && (getRing (core3 t) 15).slots.isEmpty && decide (t.cas.xrCredits ≠ routed.cas.xrCredits)) = true := by decide +kernel
theorem test_ringDryWindowEnd : gives (.ringDryWindowEnd 3 15) (ringS []) (fun t => (getRing (core3 t) 15).lastBytes == 64 && (getRing (core3 t) 15).windowBytes == 0) = true := by decide +kernel

def slotBs : List Byte := List.replicate 63 0 ++ [9]
def arriving : State := { ringS [] with mesh := [Msg.slot 9 3 2 15 7 slotBs false false 0] }
theorem wit_ringForwardArrival : (grantMsg 3 (fun m => match m with | .slot _ _ _ r .. => decide (r = 15) | _ => false) arriving).map (fun e => (e.1, e.2.mesh)) =
      some (.slot 9 3 2 15 7 slotBs false false 0, []) ∧ slotBs.length = slotBytes (getRing (core3 arriving) 15) ∧
    nextFree (getRing (core3 arriving) 15) = some 3 ∧ (getStream arriving 7).state ≠ .faulted := by decide +kernel
theorem test_ringForwardArrival : gives (.ringForwardArrival 3 15) arriving (fun t => memGet (core3 t).sp 0x10FF == 9 && tagAt (core3 t) 0x10C0 == 7 && t.mesh.isEmpty) = true := by decide +kernel
theorem test_ringForwardArrival_overrun : gives (.ringForwardArrival 3 14) { arriving with mesh := [Msg.slot 9 3 2 14 7 slotBs false false 0] }
    (fun t => t.evt.handling.toList.map (·.code) == [0x0202]) = true := by decide +kernel
def chained : State := { ringS [] with mesh := [Msg.chain 9 3 15 7 slotBs false false 2 0 [(63, 1)] 5] }
theorem wit_chainSlotArrival : (grantMsg 3 (fun m => match m with | .chain _ _ r .. => decide (r = 15) | _ => false) chained).map (fun e => (e.1, e.2.mesh)) =
    some (.chain 9 3 15 7 slotBs false false 2 0 [(63, 1)] 5, []) := by decide +kernel
theorem test_chainSlotArrival : gives (.chainSlotArrival 3 15) chained (fun t => decide (t.mesh = [Msg.chain 9 63 1 7 slotBs false false 2 1 [] 5]) &&
    (getRing (core3 t) 15).slots.length == 1) = true := by decide +kernel
/-- Of two sources the earlier DRY is granted, and the other is passed over once more; one passed over 32 times goes first. -/
def twoSlots : State := { ringS [] with mesh := [Msg.slot 9 3 2 15 7 slotBs false false 6, Msg.slot 10 3 2 15 8 slotBs false false 5] }
theorem test_grant_earliest : gives (.ringForwardArrival 3 15) twoSlots (fun t => tagAt (core3 t) 0x10C0 == 8 && passCount t 3 9 == 1) = true := by decide +kernel
theorem test_grant_starved : gives (.arbiterStarved 3 9) { twoSlots with passed := [(3, 9, 32)] } (fun t => decide (t.starvedArb = [(3, 9)]) &&
    gives (.ringForwardArrival 3 15) t fun t => tagAt (core3 t) 0x10C0 == 7 && t.starvedArb.isEmpty) = true ∧
    gives (.arbiterStarved 3 9) { twoSlots with passed := [(3, 9, 31)] } (fun t => t.starvedArb.isEmpty) = true := by decide +kernel

/-- An image with one template of one attention layer, run by core 3, and a KV pool of one frame. -/
def tmpl : ImgTemplate :=
  { ImgTemplate.init with template := 7, f := 1, framePayload := 16, resultBytes := 4, layers := [{ ImgLayer.init with kind := 1, kvHeads := 1 }], blockBytes := 64, modelDigest := List.replicate 32 5 }
def img : Image :=
  { Image.init with templates := [tmpl], replicas := [{ ImgReplica.init with template := 7, groups := [1] }], groups := [{ ImgGroup.init with group := 1, coreFirst := 3, coreCount := 1, bankPwr := 255 }], pools := [{ ImgPool.init with kv := true, dataBase := 0x200000, frames := 1, frameBytes := 65536, scaleBase := 0x240000, descOffset := 0x50000 }] }
/-- A device with that image in force, and stream 5 as given. -/
def live (x : Stream) : State := setStream { up with cfg.cur := some img, cfg.epoch := 1, cfg.phase := .loaded } 5 x
def x5 : Stream := { Stream.init with state := .running, r.model := 7, r.placement := 0, r.kvTable := 0x100000, d.epoch := 1, d.kvOwners := [(0, 3)] }
def chunk0 : Chunk := { Chunk.init with frames := 512, released := true, kvReady := true, epoch := 1, layers := [LayerWork.init] }
/-- A table of one I4 head, 8 pages, with 512 positions, one of its pages full. -/
def kvHead (length : Nat) : Memory := words 0x100000 [0x4B565442, 0x101, 8, 0, length, 0, 0, 0]
def kvState (refs : Nat) : State := { live { x5 with d.chunks := [chunk0] } with dram := kvHead 512 ++ words 0x250000 [refs, 0] }
theorem wit_kvFlush : ((readHead (kvState 0) 0x100000).map fun h => (h.layers, h.heads, h.length, h.cap, h.pool, h.i8)) = some (1, 1, 512, 8, 0, false) ∧
    ((kvPool (kvState 0) 0).map fun e => (freeDescs (kvState 0) e.1 e.2, freeFrames (kvState 0) e.1 e.2)) = some ([0], [0]) := by decide +kernel
theorem wit_kvFlush_due : ((readHead (kvState 0) 0x100000).bind fun h => dueFlush (kvState 0) (getStream (kvState 0) 5) 0x100000 h 0 0) = some (chunk0, .live, 0) ∧
    kvOwner (getStream (kvState 0) 5) 0 0 = some 3 ∧ (core3 (kvState 0)).flushHalt = none := by decide +kernel
theorem wit_kvFlush_full : ((kvPool (kvState 1) 0).map fun e => (freeDescs (kvState 1) e.1 e.2, freeFrames (kvState 1) e.1 e.2)) = some ([], []) := by decide +kernel

def hostRead : State := mapped (dmaState (dmaOp 0x10 0 page0 1 0x2000) dmaReq)
theorem wit_hostReadError : okPlace (dieTranslate (coreDie hostRead 3) page0 false hostRead) (true, 0x10000) = true := by decide +kernel
theorem test_hostReadError : gives (.hostReadError 3 15) hostRead (fun t => t.hub.aerErrors == 1 && spPoisoned (core3 t) 0x20FF 1 && !spPoisoned (core3 t) 0x2100 1 && (core3 t).reqs.isEmpty) = true := by decide +kernel
def ackOf (ds da : Nat) (q : DmaReq) : State := mapped (dmaState (dmaOp 0 1 0x2000 ds da) { q with isWrite := true })
theorem test_dmaWriteAck_core : gives (.dmaWriteAck 3 15) (ackOf 3 (9 * 2 ^ 32) { dmaReq with state := .landed }) (fun t => (core3 t).reqs.isEmpty) = true := by decide +kernel
theorem wit_dmaWriteAck_host : okPlace (dieTranslate (coreDie (ackOf 0 page0 dmaReq) 3) page0 true (ackOf 0 page0 dmaReq)) (true, 0x10000) = true ∧
    inStateBlock (ackOf 0 page0 dmaReq) (dmaOp 0 1 0x2000 0 page0) page0 = false := by decide +kernel
theorem test_dmaWriteAck_host : gives (.dmaWriteAck 3 15) (ackOf 0 page0 dmaReq) (fun t => memGet t.hostMem 0x100FF == 9 && (core3 t).reqs.isEmpty) = true := by decide +kernel
theorem wit_dmaWriteAck_fault : badPlace (dieTranslate (coreDie (ackOf 0 (page0 + 0x10000) dmaReq) 3) (page0 + 0x10000) true (ackOf 0 (page0 + 0x10000) dmaReq)) 1 = true := by decide +kernel
theorem test_dmaWriteAck_fault : gives (.dmaWriteAck 3 15) (ackOf 0 (page0 + 0x10000) dmaReq) (fun t => (core3 t).ops.map (·.undone) == [[(0, 1, page0 + 0x10000, true)]]) = true := by decide +kernel

/-! Resets, starts, power, time, events and NVM (ResetsAndFunctionLevelReset to NvmEntriesAreWrittenAndRead). -/

theorem test_sysRstN : gives .sysRstNAssert (live x5) (fun t => t.hub.resetLow && t.hub.powerGood && t.streams.isEmpty && t.cfg.cur.isNone) = true := by decide +kernel
theorem test_perstN : gives .perstNAssert { up with hostMem := [(5, 1)] } (fun t => t.hub.resetLow && decide (t.hostMem = [(5, 1)]) && !t.hub.ready) = true := by decide +kernel
theorem test_powerGood : gives .powerGood { up with hub.powerGood := false } (fun t => t.hub.powerGood && !t.hub.ready && t.boot.step == 0) = true := by decide +kernel
theorem test_powerGood_tripped : gives .powerGood { up with hub.thermTripN := false } (fun t => t.hub.thermTripN && !t.hub.ready) = true := by decide +kernel
theorem wit_flr : up.hub.linkUp = true ∧ up.hub.resetLow = false ∧ agentsOn up = true ∧ up.hub.ready = true ∧ up.pwr.hot = false ∧ up.pwr.resuming = false := by decide +kernel
theorem test_flr : gives .functionLevelReset { up with que.evEn := true, hub.degraded := true } (fun t => !t.que.evEn && decide (t.hub.phase = .recovery)) = true := by decide +kernel
theorem test_flr_hot : gives .functionLevelReset { up with pwr.hot := true } (fun t => t.pwr.flrDue) = true := by decide +kernel

def noLaser : LaserEnv := ⟨false, 0, 0, [], [], [], false, [], 0, [0, 0, 0, 0], 0, false, [false, false, false, false]⟩
/-- A start whose every check holds, with no module seated and blank NVM: no image, so it is degraded. -/
def goodStart : StartEnv :=
  ⟨1, true, true, true, true, 1, 1, true, true, true, true, true, true, true, List.replicate 7 ⟨[0, 0, 0], 1, 0⟩, List.replicate 12 0, List.replicate 12 0, 0, true, List.replicate 4 noLaser, 900⟩
theorem wit_start : State.reset.boot.step = 0 ∧ (match startSteps goodStart { coldState State.reset with
    hub.powerGood := true, boot.log.cause := 1, boot.log.durationMs := 900, clk.time := 900000000 } with | .ok _ => true | .error _ => false) = true := by decide +kernel
theorem test_startBegin : gives (.startBegin goodStart) State.reset (fun t => t.hub.ready && t.boot.step == 14 && decide (t.hub.phase = .recovery) && t.hub.linkUp) = true := by decide +kernel
theorem test_startBegin_rails : gives (.startBegin { goodStart with railsOk := false }) State.reset (fun t => t.hub.powerGood && t.boot.step == 0 && !t.hub.ready) = true := by decide +kernel
theorem test_startBegin_rom : gives (.startBegin { goodStart with romOk := false }) State.reset (fun t => t.hub.halted && t.hub.step == 1) = true := by decide +kernel
def failedStart : State := after (.startBegin { goodStart with steps := List.replicate 7 ⟨[0xFFFF, 0xFFFF, 0xFFFF], 1, 0⟩ }) State.reset
theorem wit_automaticRestart : failedStart.boot.failedAt.isSome = true := by decide +kernel
theorem test_automaticRestart : gives (.automaticRestart goodStart) failedStart (fun t => t.hub.ready && t.boot.restarts == 1 && t.boot.log.cause == 3) = true := by decide +kernel
theorem wit_pcieLinkTraining : ({ up with hub.linkUp := false } : State).boot.step ≠ 0 ∧ up.hub.training = false := by decide +kernel
theorem test_pcieLinkTraining : gives .pcieLinkTraining { up with hub.linkUp := false } (fun t => t.hub.linkUp && t.hub.training) = true := by decide +kernel

theorem test_pwrFailN : gives (.pwrFailNFall 1000) up (fun t => t.hub.holdUp && t.hub.halted && t.evt.handling.isNone) = true := by decide +kernel
theorem test_pwrFailN_short : gives (.pwrFailNFall 999) up (fun t => !t.hub.holdUp && !t.hub.halted) = true := by decide +kernel
theorem test_railOutOfLimits : gives (.railOutOfLimits 20) up (fun t => t.hub.holdUp && t.hub.halted) = true := by decide +kernel
theorem wit_d3hot : cleanForHot up = true ∧ cleanForHot { up with prg := up.prg.set 0 { Prg.init with active := true }, long := [{ LongCmd.init with slot := 0 }] } = false := by decide +kernel
theorem test_d3hot : gives .d3hotWrite (at3 [(1, 1)]) (fun t => t.pwr.hot && t.cores.isEmpty && (getLaser t 3).quiesced && !t.pwr.unclean) = true := by decide +kernel
theorem test_d3hot_unclean : gives .d3hotWrite { up with prg := up.prg.set 0 { Prg.init with active := true }, long := [{ LongCmd.init with slot := 0 }] } (fun t => t.pwr.unclean && t.pwr.flrDue && t.long.isEmpty) = true := by decide +kernel
theorem test_d0 : gives .d0Write { up with pwr.hot := true } (fun t => t.pwr.resuming && !t.pwr.hot) = true := by decide +kernel
theorem test_d0Resume : gives (.d0ResumeComplete (List.replicate 4 noLaser)) { up with pwr.resuming := true } (fun t => !t.pwr.resuming) = true := by decide +kernel
theorem test_d0Resume_flr : gives (.d0ResumeComplete []) { up with pwr.resuming := true, pwr.flrDue := true, que.evEn := true } (fun t => !t.pwr.flrDue && !t.que.evEn) = true := by decide +kernel
theorem test_sysrefLoss : gives .sysrefLoss { up with clk.sysref := true } (fun t => !t.clk.sysref) = true := by decide +kernel
theorem test_avsFail : gives (.avsRegulatorFail 11) up (fun t => t.pwr.avsFail == 0x800 && vget 0 t.pwr.mv 11 == 750) = true := by decide +kernel

/-- A write of the last 32 bytes under an in-flight entry of one line. -/
def landing : State := { withCore3 { coreOf [(1, 1)] with sb := [{ SbEntry.init with line := 1, count := 0 }] } with mesh := [Msg.write 9 3 56 (List.replicate 16 7) false none] }
theorem wit_remoteWriteLand : takeMsg (fun m => isWrite m && decide (msgDst m = 3)) landing.mesh = some (.write 9 3 56 (List.replicate 16 7) false none, []) ∧
    Memory.wf (core3 landing).sp := by decide +kernel
theorem test_remoteWriteLand : gives (.remoteWriteLand 3) landing (fun t => memGet (core3 t).sp 56 == 7 && memGet (core3 t).sp 71 == 7 && memGet (core3 t).sp 72 == 0 &&
    (core3 t).hazard == 1 && t.mesh.isEmpty) = true := by decide +kernel
def bankCore : Core := { coreOf [(1, 1)] with usable := 0x7F }
theorem wit_bankPowerUp : bankCore.pwr.getLsbD 7 = true ∧ bankCore.usable.getLsbD 7 = false ∧ bankCore.preloadFrom = none := by decide +kernel
theorem test_bankPowerUp : gives (.bankPowerUp 3 7) (withCore3 bankCore) (fun t => (core3 t).usable == 255) = true := by decide +kernel
theorem test_bankZeroFillEnd : gives (.bankZeroFillEnd 3) (withCore3 { coreOf [(1, 1)] with zeroing := 1, sp := [(5, 1), (0x4000, 2)] })
    (fun t => decide ((core3 t).sp = [(0x4000, 2)]) && (core3 t).zeroing == 0) = true := by decide +kernel
theorem test_bankRequestStarved : gives (.bankRequestStarved 3 7 7) (withCore3 { coreOf [] with starved := [(7, 7), (1, 2)] })
    (fun t => decide ((core3 t).starved = [(1, 2), (7, 7)]) && vget 0 (core3 t).stalls 3 == 16) = true := by decide +kernel
theorem wit_islandClockGate : islandIdle up 3 (core3 up) = true := by decide +kernel
theorem test_islandClockGate : gives (.islandClockGate 3) up (fun t => (core3 t).gated) = true := by decide +kernel

theorem wit_temperature : up.hub.powerGood = true ∧ up.hub.holdUp = false ∧ monitorOn up = true ∧ atLeast 0x7D00 (tempLimits 31).2.2 = true ∧
    atLeast (tempOf up 31).t (tempLimits 31).2.2 = false := by decide +kernel
theorem test_temperature_trips : gives (.temperatureSample (List.replicate 32 0x7D00)) up (fun t => t.hub.halted && (tempOf t 0).t == 0x7D00 && (tempOf t 0).warn) = true := by decide +kernel
theorem test_temperature_cool : gives (.temperatureSample (List.replicate 32 0x0100)) up (fun t => !t.hub.halted && (tempOf t 0).t == 0x100 && !(tempOf t 0).warn &&
    (tempOf t 11).t == 0x8000) = true := by decide +kernel
theorem test_operatingMaximumHold : gives (.operatingMaximumHoldExpiry 11) { up with pwr.limitSince := [(11, 5)] } (fun t => t.hub.halted && now t == 100000005) = true := by decide +kernel

theorem wit_writesOn : writesOn up = true := by decide +kernel
theorem test_pwrTimeSet : gives (.pwrTimeSet 0x100000000) up (fun t => t.clk.time == 0x100000000 && !t.pwr.badWrite) = true := by decide +kernel
theorem test_pwrTimeSet_running : gives (.pwrTimeSet 5) (live x5) (fun t => t.clk.time == 0 && t.pwr.badWrite) = true := by decide +kernel
theorem test_pwrTimeSlew : gives (.pwrTimeSlew 0xFFFFFFFF) { up with clk.slewLeft := 5 } (fun t => t.clk.slewLeft == 4) = true := by decide +kernel
/-- The ends of the range, 100,000 and -100,000 ppb, and one beyond. -/
theorem test_pwrTimeRate : gives (.pwrTimeRate 100000) up (fun t => t.clk.rate == 100000) = true := by decide +kernel
theorem test_pwrTimeRate_low : gives (.pwrTimeRate 0xFFFE795F) up (fun t => t.clk.rate == 0 && t.pwr.badWrite) = true := by decide +kernel
theorem test_pwrLimitW : gives (.pwrLimitWWrite 200) up (fun t => t.pwr.limitW == 200) = true := by decide +kernel
theorem test_pwrLimitW_3072 : gives (.pwrLimitWWrite 601) { up with fixed.variant := 1 } (fun t => t.pwr.limitW == 750 && t.pwr.badWrite) = true := by decide +kernel

theorem wit_thyme : thymeOn up = true ∧ decisionFirst up = true ∧ windowFirst up = true ∧ decisionFirst { up with clk.tickAt := 20000000 } = false ∧
    windowFirst { up with clk.decisionAt := 2000000000 } = false := by decide +kernel
theorem test_thymeTick : gives .thymeTick up (fun t => now t == 125000 && t.clk.tickAt == 125000) = true := by decide +kernel
theorem test_thymeTick_late : gives .thymeTick { up with clk.tickAt := 20000000 } (fun t => now t == 0) = true := by decide +kernel
theorem test_thymeDecision : gives (.thymeDecision ⟨500000, List.replicate 21 1000, 77⟩) up (fun t => t.pwr.pkgMw == 500000 && t.pwr.energyJ == 77 && now t == 10000000) = true := by decide +kernel
theorem test_thymeWindowEnd : gives (.thymeWindowEnd ⟨[], []⟩) { up with thm.wCur := [(7, 0, 99)], pwr.temp := up.pwr.temp.set 0 { Temp.init with warn := true } }
    (fun t => decide (t.thm.wMeas = [(7, 0, 99)]) && t.thm.wCur.isEmpty && !(tempOf t 0).warn && (tempOf t 0).coolWindow) = true := by decide +kernel

theorem wit_eventRaise : handlersOn up = true ∧ 0x0202 ∈ eventCodes ∧ heldCount up.evt < 255 ∧ eventClass 0x0202 = 4 ∧ eventClass 0x0902 = 5 := by decide +kernel
theorem test_eventRaise : gives (.eventRaise 0x0202 5 3 [1, 2]) up (fun t => t.evt.handling.toList.map (fun r => (r.code, r.cls, r.stream)) == [(0x0202, 4, 5)] && t.bay.buffer.length == 1) = true := by decide +kernel
/-- The last CORRECTED record of a window, and the first that is folded. -/
theorem test_eventRaise_last : gives (.eventRaise 0x0102 5 3 []) { up with evt.corrCount := 999 } (fun t => t.evt.handling.isSome && t.evt.summarised.isEmpty) = true := by decide +kernel
theorem test_eventRaise_folded : gives (.eventRaise 0x0102 5 3 []) { up with evt.corrCount := 1000 } (fun t => t.evt.handling.isNone && t.evt.summarised.length == 1) = true := by decide +kernel
theorem test_eventRaise_trip : gives (.eventRaise 0x0902 0xFFFF 0 []) up (fun t => t.hub.halted) = true := by decide +kernel
theorem wit_eventRaise_device : eventClass 0x0A02 = 5 ∧ 0x0A02 ∈ eventCodes ∧ 0x0902 ∈ eventCodes := by decide +kernel
theorem test_eventRaise_device : gives (.eventRaise 0x0A02 0xFFFF 0 []) up (fun t => !t.hub.halted && t.evt.graceUntil == some 1000000) = true := by decide +kernel
def held1 : Record := { Record.init with code := 0x0202, cls := 4, seq := 6, detail := List.replicate 8 0 }
def handlingState : State := { up with evt.handling := some held1 }
theorem test_eventHandlingEnd : gives .eventHandlingEnd handlingState (fun t => t.evt.handling.isNone && vget 0 t.evt.classCount 4 == 1 && decide (t.hub.phase = .recovery)) = true := by decide +kernel
theorem test_eventHandlingEnd_hot : gives .eventHandlingEnd { handlingState with pwr.hot := true } (fun t => decide (t.evt.handled = [held1])) = true := by decide +kernel
def entryState : State := { up with evt.handled := [held1], que.evEn := true, que.evSize := 4, que.evTail := 15, que.evHead := 15, que.evBase := 0x10000 }
theorem wit_eventEntryWrite : evqRoom entryState.que = true := by decide +kernel
theorem test_eventEntryWrite : gives .eventEntryWrite entryState (fun t => t.evt.handled.isEmpty && t.que.evTail == 0 && t.evt.seq == 6) = true := by decide +kernel
theorem test_deviceGraceExpiry : gives .deviceGraceExpiry { up with evt.graceUntil := some 1000000 } (fun t => t.hub.halted && t.evt.graceUntil.isNone) = true := by decide +kernel
theorem test_summaryWindowEnd : gives .summaryWindowEnd { up with evt.summarised := [(0x0101, 1, 3, 5, 9)] } (fun t => t.evt.summarised.isEmpty && t.evt.nextSeq == 1) = true := by decide +kernel
theorem test_evtInject : gives (.evtInject 0xABCD) up (fun t => t.evt.handling.toList.map (fun r => (r.code, r.injected)) == [(0xABCD, true)]) = true := by decide +kernel
theorem test_evtInject_service : gives (.evtInject 0xABCD) { up with hub.phase := .service } (fun t => t.evt.handling.isNone) = true := by decide +kernel

def bayState (r : Record) : State := { up with bay.opened := true, bay.buffer := [r], bay.nextSeq := 0xFFFFF }
theorem test_bayEntryWrite : gives (.bayEntryWrite true false) (bayState held1) (fun t => t.bay.head == 0 && t.bay.nextSeq == 0x100000 && t.bay.bad1 && !t.bay.bad0 &&
    (tabGet t.bay.copy0 0xFFFFF).isSome && (tabGet t.bay.copy1 0xFFFFF).isNone) = true := by decide +kernel
theorem test_bayEntryWrite_trip : gives (.bayEntryWrite true true) (bayState { held1 with code := 0x0902 }) (fun t => !t.hub.thermTripN) = true := by decide +kernel
def bayFull : State := { up with bay.copy0 := [(0xFFFFF, bayWords held1 0xFFFFF)] }
theorem test_bbxRead : gives (.bbxReadIndexWrite 0x3FFFFF) bayFull (fun t => t.bay.readIndex == 0xFFFFF && t.bay.readData == bayWords held1 0xFFFFF && t.bay.readValid) = true := by decide +kernel
theorem test_mgmtBayIndex : gives (.mgmtBayIndexWrite 0) bayFull (fun t => t.bay.mgmtIndex == 0 && !t.bay.mgmtValid) = true := by decide +kernel
theorem wit_mgmtHead : bayHeads { bayFull with hub.fwRunning := false }.bay = some (0xFFFFF, 0xFFFFF) ∧ bayHeads State.reset.bay = none := by decide +kernel
theorem test_mgmtHeadSearch : gives .mgmtHeadSearch { bayFull with hub.fwRunning := false } (fun t => t.bay.mgmtHead == some (0, 0xFFFFF)) = true := by decide +kernel
def txn1 : Txn := { seq := 9, recs := [{ JRec.init with type := 1, key := 2, payload := [1, 2, 3] }] }
def jnlState : State := { up with jnl.mounted := true, jnl.queue := [txn1], jnl.seq := 8 }
theorem test_journalCommit : gives (.journalCommit true true) jnlState (fun t => decide (t.jnl.copy0 = [txn1]) && decide (t.jnl.copy1 = [txn1]) && t.jnl.seq == 9 && t.jnl.queue.isEmpty &&
    t.jnl.fill.toNat == txnBytes txn1) = true := by decide +kernel
theorem test_compactionSwitch : gives .compactionSwitch { jnlState with jnl.compacting := true } (fun t => !t.jnl.compacting && t.jnl.gen == 1) = true := by decide +kernel

/-! Streams (StreamsObeyTheirCommands to StreamEntriesAreWritten). -/

/-- Descriptors at 0x110000 (16 input slots of 32 bytes, indices as given) and 0x110040 (16 output slots), and an empty KV table. -/
def ringMem (wr rd outRd : Nat) : Memory :=
  memWrite (memWrite (kvHead 0) 0x110000 ([0x120000, 0, 16, 32, wr, 0, rd, 0].flatMap (leBytes 4))) 0x110040 ([0x130000, 0, 16, 64, 0, 0, outRd, 0].flatMap (leBytes 4))
/-- Stream 5 in a state of Table 9.6, with both rings. -/
def xs (st : SteState) : Stream :=
  { x5 with state := st, r.periodUs := 250, r.delayUs := 500, r.inRing := 0x110000, r.outRing := 0x110040, d.inR := { InRing.init with base := 0x120000, nslots := 16, slotBytes := 32 }, d.outR := { InRing.init with base := 0x130000, nslots := 16, slotBytes := 64 } }
def on (x : Stream) : State := { live x with dram := ringMem 4 2 0 }
def s5 (t : State) : Stream := getStream t 5
def st5 (t : State) (st : SteState) : Bool := decide ((s5 t).state = st)
def flying : Chunk := { Chunk.init with num := 3, frames := 1, released := true, epoch := 1, outIdx := 0, layers := [{ LayerWork.init with complete := true }] }
def formed : Chunk := { Chunk.init with num := 4, frames := 1, epoch := 1, arrival := 700 }
theorem wit_streamBusy : streamBusy (on (xs .idle)) 5 = false ∧ writesOn (on (xs .idle)) = true := by decide +kernel
theorem wit_streamStart : (startChecks (on (xs .idle)) 5 (xs .idle)).1 = 0 ∧ (startChecks (on (xs .idle)) 5 (xs .idle)).2.isSome = true ∧
    startChecks (on (xs .idle)) 5 { xs .idle with r.periodUs := 249 } = (4, none) := by decide +kernel
theorem test_streamStart : gives (.streamStart 5 0) (on (xs .idle)) (fun t => st5 t .starting && (s5 t).d.rdIdx == 2 && (s5 t).d.inR.nslots == 16) = true := by decide +kernel
theorem test_streamStart_refused : gives (.streamStart 5 0) (on { xs .idle with r.periodUs := 249 }) (fun t => st5 t .idle && (s5 t).r.cause == 4) = true := by decide +kernel
theorem wit_ctrlAllowed : ctrlAllowed (withCmd 2 0) (xs .running) := by unfold ctrlAllowed; decide +kernel
theorem test_streamPause : gives (.streamPause 5 0) (on (xs .running)) (fun t => st5 t .paused) = true := by decide +kernel
/-- A pause of a stream that a checkpoint in progress names waits for it. -/
theorem test_streamPause_busy : (let s : State := { on (xs .running) with long := [{ LongCmd.init with cmd := cmd 0x20 [(2, 5)] }] }
    gives (.streamPause 5 0) s (fun t => st5 t .running && t.waitState.length == 1)) = true := by decide +kernel
theorem test_streamPause_waits : gives (.streamPause 5 0) (on { xs .running with d.chunks := [flying] }) (fun t => st5 t .running && (s5 t).d.pausePend) = true := by decide +kernel
theorem test_streamResume : gives (.streamResume 5 0) (on { xs .running with d.pausePend := true }) (fun t => st5 t .running && !(s5 t).d.pausePend) = true := by decide +kernel
theorem test_streamResume_paused : gives (.streamResume 5 0) (on (xs .paused)) (fun t => st5 t .running) = true := by decide +kernel
theorem test_streamEnd : gives (.streamEnd 5 0) (on (xs .running)) (fun t => st5 t .ending) = true := by decide +kernel
theorem test_streamAbort : gives (.streamAbort 5 0) (on (xs .ended)) (fun t => st5 t .free) = true := by decide +kernel
theorem test_streamAbort_waits : gives (.streamAbort 5 0) (on { xs .running with d.chunks := [flying] }) (fun t => st5 t .running && (s5 t).d.abortPend) = true := by decide +kernel
theorem wit_rejected : cmdAccepted .free 1 false = false ∧ cmdAccepted .idle 2 false = false ∧ cmdAccepted .starting 3 false = false ∧
    cmdAccepted .ended 4 false = false ∧ cmdAccepted .free 5 false = false := by decide +kernel
theorem test_streamStart_rejected : gives (.streamStart 5 0) (on (xs .free)) (fun t => st5 t .free && t.cfg.reject == 0x0D) = true := by decide +kernel

theorem test_pauseComplete : gives (.pauseComplete 5) (on { xs .running with d.pausePend := true }) (fun t => st5 t .paused) = true := by decide +kernel
theorem test_abortComplete : gives (.abortComplete 5) (on { xs .running with d.abortPend := true }) (fun t => st5 t .free) = true := by decide +kernel
/-- A chunk ready for its release, one ready for posting, one that is its stream's last. -/
def ready5 : State := on { xs .running with d.chunks := [formed] }
theorem wit_chunkRelease : mayRelease ready5 (s5 ready5) = true ∧ nextToRelease (s5 ready5) = some formed ∧ outFree (s5 ready5) = true ∧ chunksOut (s5 ready5) = 0 ∧
    dueAt (s5 ready5) formed = 700 := by decide +kernel
theorem wit_chunkRelease_place : (releaseEpoch 5 (endHoldOut 5 (advanceTo ready5 700))).isSome = true ∧ imageAt ready5 1 = some img ∧ templateIn img 7 = some tmpl ∧
    (replicaIn img 7 0).map (fun r => tokensFull ready5 img r (s5 ready5)) = some false ∧ (nextDue ready5 (s5 ready5)) = some formed := by decide +kernel
theorem test_chunkRelease : gives (.chunkRelease 5) ready5 (fun t => (s5 t).d.chunks.map (·.released) == [true] && (s5 t).d.lastRelease == some t.clk.time && t.thm.releases == 1 &&
    (core3 t).tokens.length == 1 && now t == 700) = true := by decide +kernel
theorem wit_resultPost : postable { xs .ending with d.chunks := [{ flying with final := true }] } = some { flying with final := true } := by decide +kernel
theorem test_resultPost : gives (.resultPost 5) (on { xs .ending with d.chunks := [{ flying with final := true }], d.outWr := 2 ^ 64 - 1 })
    (fun t => st5 t .ended && (s5 t).d.outWr == 0 && (s5 t).r.chunksDone == 1 && (s5 t).d.chunks.isEmpty) = true := by decide +kernel
def pended (wr outRd : Nat) : State := { on (xs .running) with que.dbIn := [5], que.dbOut := [5], dram := ringMem wr 0 outRd }
theorem wit_inputWrIdxRead : (readIndex 5 0x110010 (pended 16 0)).1 = some 16 ∧ (readIndex 5 0x110010 (pended 17 0)).1 = some 17 := by decide +kernel
theorem test_inputWrIdxRead : gives (.inputWrIdxRead 5) (pended 16 0) (fun t => (s5 t).d.wrSeen == 16 && st5 t .running && t.que.dbIn.isEmpty) = true := by decide +kernel
theorem test_inputWrIdxRead_overwritten : gives (.inputWrIdxRead 5) (pended 17 0) (fun t => st5 t .faulted && (s5 t).r.cause == 0x15 && (s5 t).d.overwritten) = true := by decide +kernel
theorem wit_outputRdIdxRead : (readIndex 5 0x110058 (pended 0 0)).1 = some 0 ∧ (readIndex 5 0x110058 (pended 0 1)).1 = some 1 := by decide +kernel
theorem test_outputRdIdxRead : gives (.outputRdIdxRead 5) (pended 0 0) (fun t => (s5 t).d.outRd == 0 && t.que.dbOut.isEmpty && (s5 t).r.cause == 0) = true := by decide +kernel
theorem test_outputRdIdxRead_bad : gives (.outputRdIdxRead 5) (pended 0 1) (fun t => (s5 t).r.cause == 0x16 && (s5 t).d.outBad) = true := by decide +kernel
theorem test_streamDbIn : gives (.streamDbIn 5 [(9, 1)]) (on (xs .paused)) (fun t => t.que.dbIn == [5] && decide (t.hostMem = [(9, 1)])) = true := by decide +kernel
theorem test_streamDbOut : gives (.streamDbOut 5 []) (on (xs .ending)) (fun t => t.que.dbOut == [5]) = true := by decide +kernel

theorem test_steGroup : gives (.steGroupWrite 5 0x7FFFF) (live Stream.init) (fun t => st5 t .idle && (s5 t).r.placement == 0xFFFF && (s5 t).r.model == 7) = true := by decide +kernel
theorem test_steGroup_none : gives (.steGroupWrite 5 0x7FFFF) up (fun t => st5 t .free && t.cfg.reject == 0x0D) = true := by decide +kernel
theorem wit_steGroup : (templateIn img 7).isSome = true ∧ (replicaIn img 7 0).isSome = true := by decide +kernel
theorem test_steGroup_states : gives (.steGroupWrite 5 0x7FFFF) (on (xs .ended)) (fun t => st5 t .ended && (s5 t).r.placement == 0xFFFF) = true ∧
    gives (.steGroupWrite 5 0x7FFFF) (on (xs .paused)) (fun t => t.cfg.reject == 0x0D && (s5 t).r.placement == 0) = true := by decide +kernel
theorem test_stePeriod : gives (.steConfigWrite 5 0x0C 40000 false) (on (xs .idle)) (fun t => (s5 t).r.periodUs == 40000) = true := by decide +kernel
theorem test_stePeriod_running : gives (.steConfigWrite 5 0x0C 251 false) (on (xs .running)) (fun t => (s5 t).r.periodUs == 250 && t.cfg.reject == 0x0D) = true := by decide +kernel
theorem test_steInitPtr_running : gives (.steConfigWrite 5 0x20 0x1234567890 true) (on (xs .running)) (fun t => (s5 t).r.initPtr == 0x1234567890) = true := by decide +kernel
/-- STE_CTRL with CMD 0, and STE_STATE_PTR of a block that the device placed. -/
theorem test_steCtrl : ctrlAllowed 0x100 (xs .idle) ∧ gives (.steConfigWrite 5 0 0x100 false) (on (xs .idle)) (fun t => st5 t .idle && decide ((s5 t).r = ctrlFields 0x100 (xs .idle).r)) = true := by
  unfold ctrlAllowed; decide +kernel
theorem test_steStatePtr : gives (.steConfigWrite 5 0x18 0x500000 true) (on { xs .idle with d.devPlaced := true }) (fun t => t.cfg.reject == 0x0D && (s5 t).r.statePtr == 0) = true ∧
    gives (.steConfigWrite 5 0x18 0x500000 true) (on (xs .idle)) (fun t => (s5 t).r.statePtr == 0x500000) = true := by decide +kernel
theorem test_steParam : gives (.steParamWrite 5 31 9) (on (xs .running)) (fun t => vget 0 (s5 t).r.param 31 == 9 && (s5 t).r.paramPending && vget 0 (paramsNow t (s5 t)) 31 == 0) = true := by decide +kernel

/-! Commands of the queues (ShortCommandsAnswer to KvCommandsMoveAndSharePages). -/

/-- The statuses of the completions that wait in queue 1. -/
def replied (t : State) : List (Nat × List Word) := (getQ t 1).held.map fun c => (c.status.toNat, c.result)
def mayAnswer (c : HostCmd) (s : State) : Bool := commandsOn s && decide (entryStatus s c = 0) && s.waitCmds.isEmpty && s.waitState.isEmpty
def mayStart (c : HostCmd) (envs : List LaserEnv) (s : State) : Bool :=
  commandsOn s && decide (entryStatus s c = 0) && decide (entryFor s c envs (s.waitCmds.flatMap namedStreams) = some 0)

theorem wit_nop : mayAnswer (cmd 0 []) up = true ∧ entryStatus up (cmd 0 [(15, 1)]) ≠ 0 := by decide +kernel
theorem test_nop : gives (.nop (cmd 0 [])) up (fun t => replied t == [(0, [])]) = true := by decide +kernel
theorem test_nop_reserved : gives (.nop (cmd 0 [(15, 1)])) up (fun t => replied t == [(stBadField, [])]) = true := by decide +kernel
theorem wit_phase : mayAnswer (cmd 1 [(2, 1)]) up = true ∧ mayAnswer (cmd 1 [(2, 2)]) { up with hub.phase := .service } = true := by decide +kernel
theorem test_phaseService : gives (.phaseService (cmd 1 [(2, 1)])) up (fun t => decide (t.hub.phase = .service) && replied t == [(0, [1])]) = true := by decide +kernel
theorem test_phaseService_state : gives (.phaseService (cmd 1 [(2, 1)])) { up with hub.phase := .service } (fun t => replied t == [(stState, [])]) = true := by decide +kernel
theorem test_phaseTest : gives (.phaseTest (cmd 1 [(2, 2)])) { up with hub.phase := .recovery } (fun t => decide (t.hub.phase = .test) && replied t == [(0, [2])]) = true := by decide +kernel
theorem test_phaseTest_state : gives (.phaseTest (cmd 1 [(2, 2)])) up (fun t => replied t == [(stState, [])]) = true := by decide +kernel
theorem wit_epochAbort : mayAnswer (cmd 0x12 []) up = true := by decide +kernel
theorem test_epochAbort : gives (.epochAbort (cmd 0x12 [])) { live x5 with cfg.phase := .switch, cfg.load := some Load.init, cfg.staged := some img } (fun t => decide (t.cfg.phase = .rollback) && replied t == [(0, [])]) = true := by decide +kernel
theorem test_epochAbort_rollback : gives (.epochAbort (cmd 0x12 [])) { live x5 with cfg.phase := .rollback } (fun t => replied t == [(0, [])]) = true := by decide +kernel
theorem test_epochAbort_state : gives (.epochAbort (cmd 0x12 [])) (live x5) (fun t => replied t == [(stState, [])]) = true := by decide +kernel
def attestCmd (n : Nat) : HostCmd := cmd 0x48 [(12, 0x10000), (14, n)]
theorem wit_attest : mayAnswer (attestCmd 10028) up = true ∧ mayAnswer (attestCmd 10029) up = true := by decide +kernel
theorem test_attest_short : gives (.attest (attestCmd 10028)) up (fun t => replied t == [(stBadField, [10029])]) = true := by decide +kernel
/-- DRAM takes all of a report there: every piece translates, whatever the opaque signature. -/
theorem wit_attest_room : (piecesOf 0x10000 10029).all (fun p => match translate up p.1 true with | .ok _ => true | .error _ => false) = true := by decide +kernel

/-- An override of module serial 77 with sequence number 1, at 0x10000. -/
def ovrMem : Memory := words 0x10000 [0x5244564F, 1, 8, 0, 0, 0, 1, 0, 0, 0, 0, 0, 0, 0, 0, 0, 77]
def ovrCmd : HostCmd := cmd 0x49 [(4, 0x10000), (6, 3381)]
def ovrState : State := { up with dram := ovrMem }
/-- The bytes of the record as the command reads them. -/
def ovrBytes : List Byte := match vread ovrState 0x10000 3381 with
  | .ok r => r.1
  | .error _ => []
theorem wit_override_read : mayAnswer ovrCmd ovrState = true ∧ (match vread ovrState 0x10000 3381 with | .ok _ => true | .error _ => false) = true := by decide +kernel
theorem wit_override : recFormOk ovrBytes = true ∧ recType ovrBytes = 1 ∧ natAt ovrBytes 16 8 = ovrState.fixed.serial.toNat ∧
    ovrState.sec.ovrSeq.toNat < recSeq ovrBytes ∧ recForbidden ovrState ovrBytes = none ∧ recSigned ovrState ovrBytes = false := by decide +kernel
/-- With a slot programmed, the signature holds exactly where the opaque verification says so. -/
def ovrSlot : OwnerSlot := { key := [1], programmed := true, revoked := false }
def ovrKeyed : State := { ovrState with sec.slots := ovrState.sec.slots.set 0 ovrSlot }
theorem wit_override_slot : recType ovrBytes = 1 ∧ recVendor ovrBytes = false ∧ ownerSlot ovrKeyed (recSlot ovrBytes) = ovrSlot := by decide +kernel
theorem wit_override_signed (h : Config.mldsaVerify [1] (signedPart ovrBytes) (signatureOf ovrBytes) = true) : recSigned ovrKeyed ovrBytes = true := by
  have w := wit_override_slot
  simp only [recSigned, w.1, w.2.1, w.2.2]
  simp [usable, ovrSlot]
  exact h
theorem test_override_unsigned : gives (.laserOverride ovrCmd) ovrState (fun t => t.cfg.reject == 0x05 && t.sec.overrides.isEmpty) = true := by decide +kernel
theorem test_override_device : gives (.laserOverride ovrCmd) { ovrState with fixed.serial := 9 } (fun t => t.cfg.reject == 0x07) = true := by decide +kernel

theorem wit_imageLoad : mayStart (cmd 0x10 []) [] up = true ∧ cfgBusy up = false ∧ streamsQuiet up = true ∧ mayStart (cmd 0x11 []) [] (live x5) = true := by decide +kernel
theorem test_imageLoad : gives (.imageLoad (cmd 0x10 [(4, 0x10000), (6, 4096)])) up (fun t => decide (t.cfg.phase = .load) && (getPrg t 0).active &&
    ((t.cfg.load.map (·.bytes)).getD 0) == 4096) = true := by decide +kernel
theorem test_imageLoad_busy : gives (.imageLoad (cmd 0x10 [])) { up with cfg.persist := true } (fun t => replied t == [(stReject, [])] && t.cfg.reject == 2) = true := by decide +kernel
theorem test_epoch : gives (.epoch (cmd 0x11 [(4, 0x10000), (6, 4096)])) (live x5) (fun t => decide (t.cfg.phase = .stage) && (getPrg t 0).active) = true := by decide +kernel
/-- A job of rank 64 over the only layer, of one step, at a budget of 250 us. -/
def jobMem : Memory := words 0x10000 [0x10000, 64, 1, 0, 0, 0, 0, 0, 0, 0, 0, 0, 0, 250]
def adaptCmd : HostCmd := cmd 0x30 [(2, 5), (4, 0x10000)]
def adaptOn : State := { live { x5 with r.adaptEn := true } with dram := jobMem }
theorem wit_adaptRun : mayStart adaptCmd [] adaptOn = true ∧ adaptState (s5 adaptOn) = true ∧
    jobOk { LongCmd.init with cmd := { adaptCmd with words := adaptCmd.words ++ wordsOf 16 (memRead jobMem 0x10000 64) } } tmpl = true := by decide +kernel
theorem test_adaptRun : gives (.adaptRun adaptCmd) adaptOn (fun t => t.long.length == 1 && (getPrg t 0).active && (getPrg t 0).total == 1) = true := by decide +kernel
def jnlUp : State := { up with jnl.mounted := true }
theorem wit_adaptStore : mayStart (cmd 0x31 [(4, 0x10000), (6, 64)]) [] jnlUp = true ∧
    (journalPut [jrec jAdapter (adaptKey (cmd 0x31 [])) [1]] jnlUp).isSome = true := by decide +kernel
theorem test_adaptStoreSave : gives (.adaptStoreSave (cmd 0x31 [(4, 0x10000), (6, 64)])) jnlUp (fun t => t.jnl.queue.length == 1 && (getPrg t 0).total == 1) = true := by decide +kernel
def kept : State := { jnlUp with jnl.copy0 := [{ seq := 1, recs := [jrec jAdapter (adaptKey (cmd 0x31 [])) [1, 2, 3]] }], jnl.copy1 := [{ seq := 1, recs := [jrec jAdapter (adaptKey (cmd 0x31 [])) [1, 2, 3]] }] }
def recallCmd : HostCmd := cmd 0x31 [(2, 2 ^ 24), (4, 0x10000), (6, 3)]
theorem wit_adaptStoreRecall : mayStart recallCmd [] kept = true ∧ ((jnlGet kept jAdapter (adaptKey recallCmd)).map (·.payload)) = some [1, 2, 3] := by decide +kernel
theorem test_adaptStoreRecall : gives (.adaptStoreRecall recallCmd) kept (fun t => replied t == [(0, [3])] && memGet t.dram 0x10002 == 3) = true := by decide +kernel
def scrubCmd (n : Nat) : HostCmd := cmd 0x38 [(2, 1), (6, n)]
theorem wit_scrub : mayStart (scrubCmd 64) [] up = true ∧ scrubLen (scrubCmd 64) = 64 ∧ scrubDies up (scrubCmd 64) = [0] ∧ otherOf up 0x38 0 = false := by decide +kernel
theorem test_scrub : gives (.scrub (scrubCmd 64)) up (fun t => t.long.length == 1 && (getPrg t 0).total == 1) = true := by decide +kernel
theorem test_scrub_nothing : gives (.scrub (scrubCmd 0)) up (fun t => t.long.isEmpty && replied t == [(0, [0, 0])]) = true := by decide +kernel
theorem wit_journalCompact : mayStart (cmd 0x39 []) [] jnlUp = true ∧ otherOf jnlUp 0x39 0 = false := by decide +kernel
theorem test_journalCompact : gives (.journalCompact (cmd 0x39 [])) jnlUp (fun t => t.jnl.compacting && t.long.length == 1) = true := by decide +kernel
theorem wit_laserQuiesce : mayStart (cmd 0x40 [(2, 3)]) [] up = true ∧ (laserPorts 3).all (fun p => decide ((getPort up p).active ≠ 2)) = true := by decide +kernel
theorem test_laserQuiesce : gives (.laserQuiesce (cmd 0x40 [(2, 3)])) up (fun t => (getLaser t 3).quiesced && !(getLaser t 2).quiesced && replied t == [(0, [])]) = true := by decide +kernel
/-- Module 3 seated and disabled. -/
def seated : State := modLaser up 3 fun l => { l with present := true }
theorem wit_laserResume : mayStart (cmd 0x41 [(2, 3)]) (List.replicate 4 noLaser) seated = true ∧ (getLaser seated 3).en = false := by decide +kernel
theorem test_laserResume_absent : gives (.laserResume (cmd 0x41 [(2, 3)]) noLaser) up (fun t => replied t == [(stState, [])]) = true := by decide +kernel
theorem test_laserResume : gives (.laserResume (cmd 0x41 [(2, 3)]) noLaser) seated (fun t => t.long.isEmpty && !(getLaser t 3).en && (replied t).length == 1) = true := by decide +kernel

theorem test_tapBypass : gives (.tapBypass [true, false, true]) State.reset (fun t => t.tap.tdo == 2 && t.tap.bypass && t.tap.ir == 0) = true := by decide +kernel
theorem test_tapIdcode : gives .tapIdcode { up with fixed.jedec := 0x7FF, fixed.stepping := 0x21 } (fun t => t.tap.tdo == 0x10F40FFF) = true := by decide +kernel
theorem test_tapSample : gives (.tapSamplePreload 9) State.reset (fun t => t.tap.boundary == 9 && t.tap.ir == 2) = true := by decide +kernel
theorem test_tapExtest : gives .tapExtest State.reset (fun t => t.tap.pinsTaken && t.tap.ir == 3) = true := by decide +kernel

/-! Checkpoints: the block of stream 5 is the 64 bytes at 0x300000, and a checkpoint at 0x310000 takes 4,160 bytes. -/
def xc (st : SteState) : Stream := { xs st with r.statePtr := 0x300000 }
def ckpCmd (n : Nat) : HostCmd := cmd 0x20 [(2, 5), (4, 0x310000), (6, n)]
theorem wit_checkpoint : mayStart (ckpCmd 4160) [] (live (xc .running)) = true ∧ ckpState (xc .running) = true ∧ ckpTemplate (live (xc .running)) (xc .running) = some tmpl ∧
    ckpBytes tmpl = 4160 ∧ ckpState (xc .starting) = false := by decide +kernel
theorem test_checkpoint : gives (.checkpoint (ckpCmd 4160)) (live (xc .running)) (fun t => (s5 t).d.hold && t.long.length == 1 && (getPrg t 0).total == 2) = true := by decide +kernel
theorem test_checkpoint_short : gives (.checkpoint (ckpCmd 4159)) (live (xc .running)) (fun t => replied t == [(stBadField, [4160])] && !(s5 t).d.hold) = true := by decide +kernel
theorem test_checkpoint_state : gives (.checkpoint (ckpCmd 4160)) (live (xc .starting)) (fun t => replied t == [(stState, [])]) = true := by decide +kernel
def capturing (dst : Nat) : State :=
  { live { xc .running with d.hold := true } with long := [{ LongCmd.init with cmd := cmd 0x20 [(2, 5), (4, dst % 2 ^ 32), (5, dst / 2 ^ 32), (6, 4160)] }], dram := words 0x30003C [7] }
theorem wit_checkpointBoundary : ((checkpointOf (capturing 0x310000) 5).map (·.slot)) = some 0 ∧ inFlight (s5 (capturing 0x310000)) = false ∧ cmdStream (ckpCmd 4160) = 5 := by decide +kernel
theorem test_checkpointBoundary : gives (.checkpointBoundary 5) (capturing 0x310000) (fun t => replied t == [(0, [4160])] && !(s5 t).d.hold && t.long.isEmpty) = true := by decide +kernel
/-- A checkpoint for which a section of another package has still to come. -/
theorem test_checkpointBoundary_gathers : (let s := modStream (capturing 0x310000) 5 fun x => { x with d.gathering := true, d.gatherDue := [1] }
    decide ((gatherFirst 5 s).1 = false) && gives (.checkpointBoundary 5) s (fun t => t.long.length == 1 && replied t == [] && (s5 t).d.hold)) = true := by decide +kernel
/-- A checkpoint to the hole above the physical window, and one whose header alone fits below it. -/
theorem test_checkpointBoundary_fault : gives (.checkpointBoundary 5) (capturing 0x2400000000) (fun t => replied t == [(stHostFault, [0, 0x24])]) = true := by decide +kernel
theorem test_checkpointBoundary_block : gives (.checkpointBoundary 5) (capturing (dieBytes - 4096)) (fun t => replied t == [(stHostFault, [0, 3])]) = true := by decide +kernel
/-- A restore of a checkpoint of five chunks. -/
def ckpMem (magic : Nat) : Memory :=
  memWrite (words 0x310000 [magic, 0x10001, 5, 0, 160, 0, 64, 7]) 0x310020 (List.replicate 16 5 ++ leBytes 8 6)
def restoreCmd (n : Nat) : HostCmd := cmd 0x21 [(2, 5), (4, 0x310000), (6, n)]
def restorable (magic : Nat) : State := { live (xc .idle) with dram := ckpMem magic }
theorem wit_restore : mayStart (restoreCmd 4160) [] (restorable ckpMagic) = true ∧ ckpMatches (xc .idle) tmpl (memRead (ckpMem ckpMagic) 0x310000 4160) = true ∧
    ckpMatches (xc .idle) tmpl (memRead (ckpMem 1) 0x310000 4160) = false ∧ (blockForRestore 5 img tmpl (restorable ckpMagic)).isSome = true := by decide +kernel
theorem test_restore : gives (.restore (restoreCmd 4160)) (restorable ckpMagic) (fun t => (s5 t).r.chunksDone == 5 && (s5 t).r.position == 160 && (s5 t).d.nextChunk == 6 && (s5 t).r.carry &&
    replied t == [(0, [4160])]) = true := by decide +kernel
theorem test_restore_mismatch : gives (.restore (restoreCmd 4160)) (restorable 1) (fun t => replied t == [(stMismatch, [])] && !(s5 t).r.carry) = true := by decide +kernel
theorem test_restore_short : gives (.restore (restoreCmd 4159)) (restorable ckpMagic) (fun t => replied t == [(stBadField, [4160])]) = true := by decide +kernel
theorem test_restore_state : gives (.restore (restoreCmd 4160)) (live (xc .running)) (fun t => replied t == [(stState, [])]) = true := by decide +kernel
/-- A job of two steps whose adapter goes to 0x20000 and whose losses go to 0x21000. -/
def jobL : LongCmd := { LongCmd.init with cmd := { cmd 0x30 [(2, 5)] with words := (List.range 32).map fun i => if i = 0 then 0x30 else if i = 2 then 5 else if i = 18 then 2 else 0 } }
theorem wit_adaptStep : findLong { adaptOn with long := [jobL] } 0 = some jobL ∧ agentsOn adaptOn = true ∧ jobWord jobL 2 = 2 := by decide +kernel
theorem test_adaptStep : gives (.adaptStepComplete 0 0x3F800000 ⟨[1], [(0, 3, 64)]⟩ false) { adaptOn with long := [jobL] } (fun t => (s5 t).r.satCount == 3 && t.long.map (·.cursor) == [1] && (getPrg t 0).doneUnits == 1) = true := by decide +kernel
theorem test_adaptStep_last : gives (.adaptStepComplete 0 0x3F800000 ⟨[1], []⟩ false) { adaptOn with long := [{ jobL with cursor := 1 }] } (fun t => t.long.isEmpty && replied t == [(0, [2, 0x3F800000])]) = true := by decide +kernel
theorem test_adaptStep_fault : gives (.adaptStepComplete 0 0 ⟨[], []⟩ true) { adaptOn with long := [jobL] } (fun t => replied t == [(stFault, [])]) = true := by decide +kernel
def jobHole : LongCmd := { jobL with cmd := { cmd 0x30 [(2, 5)] with words := (List.range 32).map fun i => if i = 0 then 0x30 else if i = 18 then 2 else if i = 21 then 0x24 else 0 } }
theorem test_adaptStep_hole : gives (.adaptStepComplete 0 0 ⟨[1], []⟩ false) { adaptOn with long := [jobHole] } (fun t => replied t == [(stHostFault, [0, 0x24])]) = true := by decide +kernel

/-! KV commands: page 0 of head (0, 0) is flushed to descriptor 0 and frame 0, or host slot 0 (the pool has one frame). -/
def kvPaged (w0 : Nat) : State :=
  { live { xs .idle with d.kvFlushed := [(0, 1)], d.kvPages := true } with dram := kvHead 512 ++ (memWrite [] 0x100040 (List.replicate 4 0) ++ words 0x250000 [w0, 0]) }
def kvCmd (op : Nat) (n : Nat) : HostCmd := cmd op [(2, 5), (5, n)]
theorem wit_kvEvict : mayStart (kvCmd 0x28 1) [] (kvPaged 1) = true ∧
    ((kvRef (kvPaged 1) (kvCmd 0x28 1)).map fun r => (kvMoves (kvPaged 1) (kvCmd 0x28 1) r true, slotNamed (kvPaged 1) r 0, r.h.layers, r.h.heads)) = some ([(0, 0)], false, 1, 1) := by decide +kernel
theorem test_kvEvict_none : gives (.kvEvict (kvCmd 0x28 1)) (kvPaged 0x10001) (fun t => replied t == [(0, [0, 1])]) = true := by decide +kernel
theorem test_kvEvict_layer : gives (.kvEvict (cmd 0x28 [(2, 0x10005), (5, 1)])) (kvPaged 1) (fun t => replied t == [(stBadField, [])]) = true := by decide +kernel
theorem test_kvEvict_state : gives (.kvEvict (kvCmd 0x28 1)) up (fun t => replied t == [(stState, [])]) = true := by decide +kernel
theorem wit_kvRestore : mayStart (kvCmd 0x29 1) [] (kvPaged 0x10001) = true ∧
    ((kvRef (kvPaged 0x10001) (kvCmd 0x29 1)).map fun r => (kvMoves (kvPaged 0x10001) (kvCmd 0x29 1) r false, freeFrames (kvPaged 0x10001) r.g r.p)) = some ([(0, 0)], [0]) := by decide +kernel
theorem test_kvRestore_none : gives (.kvRestore (kvCmd 0x29 1)) (kvPaged 1) (fun t => replied t == [(0, [0, 1, 0])]) = true := by decide +kernel
theorem test_kvRestore_layer : gives (.kvRestore (cmd 0x29 [(2, 0x10005), (5, 1)])) (kvPaged 1) (fun t => replied t == [(stBadField, [])]) = true := by decide +kernel
theorem test_kvRestore_state : gives (.kvRestore (kvCmd 0x29 1)) up (fun t => replied t == [(stState, [])]) = true := by decide +kernel
/-- A fork of stream 5's first 512 positions into stream 6, whose table is at 0x180000. -/
def forking (st : SteState) : State :=
  let s := setStream (kvPaged 1) 6 { xs st with r.kvTable := 0x180000 }
  { s with dram := s.dram.filter (fun e => decide (e.1 < 0x180000)) ++ (words 0x180000 [0x4B565442, 0x101, 8] ++ s.dram.filter fun e => decide (0x180000 ≤ e.1)) }
def forkCmd (p : Nat) : HostCmd := cmd 0x2A [(2, 5), (3, 6), (4, p)]
theorem wit_kvFork : mayStart (forkCmd 512) [] (forking .idle) = true ∧
    ((kvRef (forking .idle) (forkCmd 512)).bind fun r => (readHead (forking .idle) 0x180000).map fun h => (forkAllowed (forking .idle) (s5 (forking .idle)) (getStream (forking .idle) 6) r h 512,
      forkAllowed (forking .idle) (s5 (forking .idle)) (getStream (forking .idle) 6) r h 513)) = some (true, false) := by decide +kernel
theorem test_kvFork : gives (.kvFork (forkCmd 512)) (forking .idle) (fun t => replied t == [(0, [1])] && (getStream t 6).d.kvPages) = true := by decide +kernel
theorem test_kvFork_state : gives (.kvFork (forkCmd 512)) (forking .paused) (fun t => replied t == [(stState, [])]) = true := by decide +kernel
/-- The records of the other types, in the same place: type, bytes of payload, first payload word. -/
def recMem (type len v : Nat) : Memory := words 0x10000 [0x5244564F, type, len, 0, 0, 0, 1, 0, 0, 0, 0, 0, 0, 0, 0, 0, v]
def recCmd (len : Nat) : HostCmd := cmd 0x49 [(4, 0x10000), (6, 64 + len + 3309)]
/-- Slot 0 programmed and revoked, slot 1 in use: records signed under slot 0 fail. -/
def recState (type len v : Nat) : State :=
  { up with dram := recMem type len v, sec.slots := (up.sec.slots.set 0 { key := [1], programmed := true, revoked := true }) }
theorem test_revoke_unsigned : gives (.laserRevoke (recCmd 8)) (recState 2 8 77) (fun t => t.cfg.reject == 0x05 && decide (t.sec = (recState 2 8 77).sec)) = true := by decide +kernel
theorem test_ownerRevoke_unsigned : gives (.ownerRevoke (recCmd 4)) (recState 4 4 1) (fun t => t.cfg.reject == 0x05) = true := by decide +kernel
theorem test_ownerEnrol_unsigned : gives (.ownerEnrol (recCmd 1952)) (recState 3 1952 9) (fun t => t.cfg.reject == 0x05) = true := by decide +kernel
/-- What the accepting clauses ask beside the signature: records that do nothing forbidden. -/
def recRead (type len v : Nat) : List Byte := memRead (recMem type len v) 0x10000 (64 + len + 3309)
theorem wit_records : recFormOk (recRead 2 8 77) = true ∧ recForbidden ovrKeyed (recRead 2 8 77) = none ∧ recFormOk (recRead 4 4 1) = true ∧
    recForbidden ovrKeyed (recRead 4 4 1) = none ∧ recForbidden ovrKeyed (recRead 4 4 0) = some (some 1) ∧ recForbidden ovrKeyed (recRead 4 4 4) = some none ∧
    recForbidden up (recRead 3 1952 9) = none ∧ recForbidden ovrKeyed (recRead 3 1952 9) = some (some 1) := by decide +kernel

/-! Images (ImagesComeIntoForce). -/

/-- A section-table entry: type, offset 8192, length; its digest is 64 zeros. -/
def sectionWords (e : Nat × Nat) : List Nat := [e.1, 0, 8192, 0, e.2, 0] ++ List.replicate 18 0
/-- The least image: eight sections, all empty but POLICY, of base 0x10000. -/
def leastImage : Memory :=
  words 0x20000000 ([0x58445559, 0x80001, 0, 0, 8256, 0, 0x10000, 0, 0x5000000, 0, 0, 0x380] ++ List.replicate 8 0 ++ [1024, 12288] ++ List.replicate 42 0 ++
    [(1, 0), (2, 0), (3, 0), (4, 0), (6, 0), (7, 0), (9, 0), (10, 64)].flatMap sectionWords)
def load1 : Load := { Load.init with src := 0x20000000, bytes := 8256 }
/-- The copy of an image under way, at its end. -/
def imgState (l : Load) (m : Memory) : State := { up with dram := m, cfg.phase := .load, cfg.load := some l }
/-- What the copy reads. -/
def readOf (s : State) (l : Load) : List Byte := match vread s l.src.toNat l.bytes with | .ok (b, _) => b | _ => []
def leastRead : List Byte := readOf (imgState load1 leastImage) load1
theorem img_head : headerOk leastRead 8256 = true := by decide +kernel
theorem img_rest : let s := imgState load1 leastImage
    let g := parseImage leastRead
    decide (g.secVersion.toNat < imgCounter s) = false ∧ decide (s.hub.coreCount.toNat < g.minCores ∨ g.spadKib ≠ 128 ∨ !(if s.fixed.variant = 0 then g.on4096 else g.on3072)) = false ∧
    rangeOk5 s g = true ∧ g.sections.all (fun t => decide (t.digest = List.replicate 64 0)) = true ∧ imageKeys s ≠ [] := by decide +kernel
theorem img_records : let g := parseImage leastRead
    recordsOk (copyImage 0x20000000 g.base g.bytes (imgState load1 leastImage)) leastRead g = true := by decide +kernel
/-- The hypotheses about the three outcomes of the checks: the whole chain passes where the signature verifies and the digests
agree (both are the environment's functions). -/
theorem img_accepted (hv : ∀ k m s, Config.mldsaVerify k m s = true) (hd : ∀ bs, Config.shake256 64 bs = List.replicate 64 0) :
    let s := imgState load1 leastImage
    let g := parseImage leastRead
    headCheck s leastRead 8256 = 0 ∧ bodyCheck (copyImage 0x20000000 g.base g.bytes s) leastRead g = 0 := by
  have hk : imageKeys (imgState load1 leastImage) ≠ [] := img_rest.2.2.2.2
  refine ⟨?_, ?_⟩
  · have h1 : ((imageKeys (imgState load1 leastImage)).any fun k => Config.mldsaVerify k (leastRead.take (parseImage leastRead).sigOffset)
        (cut leastRead (parseImage leastRead).sigOffset 3309)) = true := by
      cases h : imageKeys (imgState load1 leastImage) with
      | nil => exact absurd h hk
      | cons a l => simp [hv]
    have h2 := of_decide_eq_false img_rest.1
    have h3 := of_decide_eq_false img_rest.2.1
    simp only [headCheck, img_head, h1, h2, h3, img_rest.2.2.1, Bool.not_true, Bool.false_eq_true, if_false]
  · have h1 := img_rest.2.2.2.1
    simp only [bodyCheck, hd, img_records]
    rw [show (fun t : ImgSection => decide (List.replicate 64 (0 : Byte) = t.digest)) = fun t => decide (t.digest = List.replicate 64 0) from by
      funext t; simp [eq_comm], h1]
    rfl
theorem wit_images_epoch : (let g := parseImage leastRead
    (switchCheck (imgState { load1 with isEpoch := true } leastImage) g, (imgState load1 leastImage).cfg.cur, sparesFree up,
     sparesFree (setCore up 3 { coreOf [] with tokens := [{ Token.init with bank := 1 }] }))) = (0, none, true, false) := by decide +kernel
/-- An image that the checks refuse: no header word is set. -/
theorem wit_images_reject : headCheck (imgState load1 []) (readOf (imgState load1 []) { load1 with bytes := 64 }) 64 = 3 ∧
    gives .imageVerifyComplete (imgState { load1 with bytes := 64 } []) (fun t => t.cfg.load.isNone && decide (t.cfg.cur = none)) = true := by decide +kernel
/-- A copy that does not translate ends its command. -/
theorem wit_images_fault : (match vread (imgState { load1 with src := 0x500000000000 } []) 0x500000000000 8256 with | .error _ => true | .ok _ => false) = true ∧
    gives .imageVerifyComplete (imgState { load1 with src := 0x500000000000 } []) (fun t => t.cfg.load.isNone) = true := by decide +kernel
/-- An image that differs from the one in force in its static part. -/
theorem wit_images_static : switchCheck (live x5) { img with pools := [] } = 9 := by decide +kernel
/-- A switch in Prepare, with its one core ready. -/
def prep (g : Image) (x : Stream) (p : CfgPhase) (l : Load) : State :=
  { setCore (live x) 3 { coreOf [] with otherLoaded := true } with cfg.staged := some g, cfg.load := some l, cfg.phase := p }
def wave1 : Wave := { Wave.init with wave := 1, groups := [1], timeUs := 10 }
theorem wit_prepare : preparedPct (prep img { x5 with r.periodUs := 1000 } .prepare load1) = 100 ∧
    gives .prepareComplete (prep img { x5 with r.periodUs := 1000 } .prepare load1) (fun t => (t.cfg.load.map (·.prepared)).getD false) = true ∧
    gives .prepareComplete (prep { img with replicas := [] } { x5 with r.placement := 0xFFFF } .prepare load1)
      (fun t => decide (t.cfg.phase = .rollback) && decide (t.cfg.load.map (·.abortCause) = some 2)) = true ∧
    gives .prepareComplete (prep { img with waves := [wave1] } { x5 with r.periodUs := 100 } .prepare load1)
      (fun t => decide (t.cfg.phase = .rollback) && decide (t.cfg.load.map (·.abortCause) = some 3)) = true := by decide +kernel
theorem wit_wave : waveNow { load1 with waveOn := true, waveIdx := 1 } = some 0 ∧
    affectedBy (prep { img with waves := [wave1] } x5 .switch { load1 with waveOn := true, waveIdx := 1 }) img { img with waves := [wave1] } 0 = [5] ∧
    inFlight (getStream (prep { img with waves := [wave1] } x5 .switch { load1 with waveOn := true, waveIdx := 1 }) 5) = false ∧
    gives .waveReconfigure (prep { img with waves := [wave1] } x5 .rollback { load1 with waveOn := true, waveIdx := 1 })
      (fun t => decide (t.cfg.load.map (·.waveIdx) = some 0)) = true := by decide +kernel
theorem wit_rollback : rolledBack (prep img x5 .rollback load1) = true ∧
    gives .rollbackComplete (prep img x5 .rollback { load1 with abortCause := 3 }) (fun t => decide (t.cfg.abort = 3) && decide (t.cfg.phase = .loaded)) = true := by decide +kernel
theorem wit_persist : (persistImage { img with bytes := 64 } true true { live x5 with cfg.persist := true }).1 = true ∧
    gives (.imagePersistComplete true true) { live x5 with cfg.persist := true } (fun t => !t.cfg.persist && t.jnl.image0.isSome && t.jnl.image1.isSome) = true ∧
    streamsQuiet up = true ∧ streamsQuiet (live x5) = false := by decide +kernel

/-! Queues, registers, translation and DRAM (QueuesTakeDoorbellsAndControl, CommandsAreFetchedAndCompleted,
RegistersTakeAndGiveValues, TranslationIsInvalidatedAndResumed, DramIsReadWrittenAndScrubbed). -/

/-- Queue 1 with some fields. -/
def queued (q : Queue) : State := { up with que.q := up.que.q.set 1 q }
/-- An enabled command queue of 16 entries at 0x10000, and a completion queue of 16 at 0x20000. -/
def open16 : Queue := { Queue.init with cmdEn := true, cmdSize := 4, cmdBase := 0x10000, cplEn := true, cplSize := 4, cplBase := 0x20000, cplPhase := true }
theorem wit_doorbell : writesOn (queued open16) = true := by decide +kernel
theorem test_doorbell : gives (.commandQueueDoorbell 1 15 [(0x10000, 7)]) (queued open16) (fun t => decide ((getQ t 1).tail = 15) && decide (t.que.err = 0)) = true := by decide +kernel
theorem test_doorbell_size : gives (.commandQueueDoorbell 1 16 []) (queued open16) (fun t => decide ((getQ t 1).tail = 0) && decide (t.que.err = 2)) = true := by decide +kernel
theorem test_doorbell_over : gives (.commandQueueDoorbell 1 4 []) (queued { open16 with head := 5, tail := 6 }) (fun t => decide ((getQ t 1).tail = 4) && decide (t.que.err = 0)) = true ∧
    gives (.commandQueueDoorbell 1 5 []) (queued { open16 with head := 5, tail := 6 }) (fun t => decide ((getQ t 1).tail = 6) && decide (t.que.err = 2)) = true := by decide +kernel
theorem test_cplDoorbell : gives (.completionQueueDoorbell 1 3) (queued { open16 with cplTail := 3 }) (fun t => decide ((getQ t 1).cplHead = 3) && decide (t.que.err = 0)) = true ∧
    gives (.completionQueueDoorbell 1 4) (queued { open16 with cplTail := 3 }) (fun t => decide ((getQ t 1).cplHead = 0) && decide (t.que.err = 2)) = true := by decide +kernel
def evq : State := { up with que.evEn := true, que.evSize := 4, que.evTail := 2, que.evBase := 0x30000 }
theorem test_evDoorbell : gives (.eventQueueDoorbell 2) evq (fun t => decide (t.que.evHead = 2) && !t.que.evqErr) = true ∧
    gives (.eventQueueDoorbell 3) evq (fun t => decide (t.que.evHead = 0) && t.que.evqErr) = true := by decide +kernel
theorem test_queueEnable : gives (.queueEnableWrite 1 0x19) (queued { Queue.init with head := 5, tail := 7 }) (fun t => (getQ t 1).cmdEn && decide ((getQ t 1).cmdSize = 12) && decide ((getQ t 1).head = 0)) = true ∧
    gives (.queueEnableWrite 1 0x1B) (queued Queue.init) (fun t => !(getQ t 1).cmdEn && decide (t.que.err = 2)) = true ∧
    gives (.queueEnableWrite 1 0x7) (queued Queue.init) (fun t => !(getQ t 1).cmdEn && decide (t.que.err = 2)) = true := by decide +kernel
theorem test_queueEnable_cpl : gives (.queueEnableWrite 5 0x00050309) (queued { open16 with cplSize := 4, cplTail := 3 }) (fun t => (getQ t 1).cplEn && decide ((getQ t 1).count = 3) &&
      decide ((getQ t 1).waitUs = 5) && decide ((getQ t 1).cplTail = 3)) = true ∧
    gives (.queueEnableWrite 5 0x0B) (queued open16) (fun t => decide ((getQ t 1).cplSize = 4) && decide (t.que.err = 2)) = true := by decide +kernel
theorem test_queueEnable_ev : gives (.queueEnableWrite 8 0x1D) up (fun t => t.que.evEn && decide (t.que.evSize = 14) && t.que.evPhase) = true ∧
    gives (.queueEnableWrite 8 0x1F) up (fun t => !t.que.evEn && t.que.evqErr) = true ∧
    gives (.queueEnableWrite 8 0x1D) { up with hub.ready := false } (fun t => !t.que.evEn && t.que.evqErr) = true := by decide +kernel

/-- One NOP in queue 1. -/
def oneNop : State := { queued { open16 with tail := 1 } with dram := words 0x10000 [0x00070000] }
theorem wit_fetch : commandsOn oneNop = true ∧ nextQueue oneNop = some 1 ∧ (match vread oneNop 0x10000 64 with | .ok _ => true | .error _ => false) = true ∧
    gives (.commandFetch []) oneNop (fun t => decide ((getQ t 1).head = 1) && replied t == [(0, [])] && decide (t.que.turn = 2)) = true := by decide +kernel
def doneCpl : Cpl := { cmdId := 7, status := 0, cause := 0, result := [], slot := some 2 }
theorem wit_completion : agentsOn (queued { open16 with held := [doneCpl] }) = true ∧ (queued open16).pwr.hot = false ∧ (queued open16).waitCmds = [] ∧ (queued open16).waitState = [] := by decide +kernel
theorem test_completion : gives (.completionWrite 1) (queued { open16 with held := [doneCpl], cplTail := 15, cplHead := 3 }) (fun t => replied t == [] && decide ((getQ t 1).cplTail = 0) &&
    !(getQ t 1).cplPhase && !(getPrg t 2).active && decide (memRead t.dram 0x203C0 4 = [7, 0, 0, 0x81])) = true := by decide +kernel
theorem test_completion_full : gives (.completionWrite 1) (queued { open16 with held := [doneCpl], cplTail := 2, cplHead := 3 }) (fun t => replied t == [(0, [])]) = true := by decide +kernel
theorem test_completion_lost : gives (.completionWrite 1) (queued { open16 with held := [doneCpl], cplEn := false }) (fun t => replied t == [] && decide (t.que.cplLost = 2)) = true := by decide +kernel
theorem wit_timers : gives (.completionCoalesceExpiry 1) (queued { open16 with oldest := some 3, unsignalled := 1 }) (fun t => (getQ t 1).oldest.isNone) = true ∧
    gives .eventBatchExpiry { evq with que.evUnread := true } (fun t => t.que.evBatched.isSome) = true ∧
    gives (.resultHoldoffExpiry 9) { up with que.resPending := [9] } (fun t => t.que.resPending.isEmpty && (tabGet t.que.resFired 9).isSome) = true := by decide +kernel
/-- Without work they complete and change nothing. -/
theorem wit_timers_idle : gives (.commandFetch []) up (fun t => same t up) = true ∧ gives (.completionWrite 1) up (fun t => same t up) = true ∧
    gives (.completionCoalesceExpiry 1) up (fun t => same t up) = true ∧ gives .eventBatchExpiry up (fun t => t.que.evBatched.isNone) = true ∧
    gives (.resultHoldoffExpiry 9) up (fun t => (tabGet t.que.resFired 9).isNone) = true := by decide +kernel
/-- A masked vector sets its pending bit. -/
theorem test_coalesce_masked : gives (.completionCoalesceExpiry 1) { queued { open16 with oldest := some 3, unsignalled := 1 } with que.msix := [(44, 1)] }
    (fun t => decide (t.que.pba = 4) && decide (vget 0 t.que.fired 2 = 0)) = true := by decide +kernel
/-- With its vector unmasked, the timer fires it. -/
theorem test_coalesce_fires : gives (.completionCoalesceExpiry 1) { queued { open16 with oldest := some 3, unsignalled := 1 } with que.msix := [] } (fun t => decide (vget 0 t.que.fired 2 = 1)) = true := by decide +kernel

/-- HUB_SERIAL, and MMU_ROOT's halves. -/
theorem wit_registers : hostOn up = true ∧ isReg64 0xC008 = true ∧ isReg64 0xC00C = false ∧ isReg64 0xC040 = false ∧ isReg64 0xC03C = false := by decide +kernel
theorem test_latch : gives (.reg64LowWordRead ⟨false, 0xC008, 4⟩) { up with mmu.root := 0x500002000 } (fun t => decide (t.hub.busData = [0, 32, 0, 0]) && decide (tabGet t.hub.latches 0xC008 = some 5)) = true ∧
    gives (.reg64LowWordRead ⟨false, 0xC00C, 4⟩) { up with hub.latches := [(0xC008, 5)] } (fun t => decide (t.hub.busData = [5, 0, 0, 0]) && t.hub.latches.isEmpty) = true := by decide +kernel
/-- Both words of MMU_ROOT at once, two words that are no 64-bit register, an odd size, and the class code. -/
theorem test_read_wide : gives (.reg64LowWordRead ⟨false, 0xC008, 8⟩) { up with mmu.root := 0x500002000, hub.latches := [(0xC008, 9)] }
      (fun t => decide (t.hub.busData = [0, 32, 0, 0, 5, 0, 0, 0]) && t.hub.latches.isEmpty) = true ∧
    gives (.reg64LowWordRead ⟨false, 0x5000, 8⟩) up (fun t => decide (t.hub.busData = [3, 0, 0, 0, 80, 0, 0, 0])) = true ∧
    gives (.reg64LowWordRead ⟨false, 0x5000, 2⟩) up (fun t => decide (t.hub.busData = [0, 0])) = true ∧
    gives (.reg64LowWordRead ⟨true, 9, 3⟩) up (fun t => decide (t.hub.busData = [0, 0, 0x12])) = true := by decide +kernel
/-- A write of two bytes and one that is not aligned change nothing; in safe halt 64 bits at BBX_READ_CTRL write the index. -/
theorem test_write_odd : gives (.registerWrite 0x1124 2 9) up (fun t => decide (t.que.holdoffUs = up.que.holdoffUs)) = true ∧
    gives (.registerWrite 0x1126 4 9) up (fun t => decide (t.que.holdoffUs = up.que.holdoffUs)) = true ∧
    gives (.registerWrite 0xA010 8 0x300000001) { up with hub.halted := true } (fun t => decide (regWord t 0xA014 = 3)) = true := by decide +kernel
theorem test_held : gives (.reg64LowWordWrite 0xC008 0x2FFF) up (fun t => decide (t.mmu.root = 0) && decide (t.hub.heldLow = some (0xC008, 0x2FFF))) = true ∧
    gives (.registerWrite 0xC00C 4 5) { up with hub.heldLow := some (0xC008, 0x2FFF) } (fun t => decide (t.mmu.root = 0x500002000) && t.hub.heldLow.isNone) = true := by decide +kernel
theorem test_halted : gives (.registerWrite 0x1124 4 9) { up with hub.halted := true } (fun t => decide (t.que.holdoffUs = up.que.holdoffUs)) = true ∧
    gives (.registerWrite 0x1124 4 9) up (fun t => decide (t.que.holdoffUs = 9)) = true := by decide +kernel
theorem test_thm : gives (.thmRegisterWrite 0x10 0x3240 false) up (fun t => decide (t.thm.maxMoves = 64) && decide (t.thm.hyst = 50)) = true ∧
    gives (.thmRegisterWrite 0x10 0x0040 false) up (fun t => decide (t.cfg.reject = 0x0E) && decide (t.thm = up.thm)) = true ∧
    gives (.thmRegisterWrite 0x48 0x12345001 true) up (fun t => t.thm.telEn && decide (t.thm.telAddr = 0x12345000)) = true := by decide +kernel
/-- RATIO is read back at once, and a release at the same device time takes the one from before. -/
theorem test_ratio : gives (.thmRegisterWrite 0x0C 0x80 false) up (fun t => decide (t.thm.ratio = 0x80) && decide (ratioNow t = ratioNow up)) = true := by decide +kernel
theorem test_challenge : gives (.secDebugRequest 0x13) up (fun t => t.sec.challengeOut && decide (t.sec.dbgScope = 3)) = true ∧
    gives (.secDebugLock 0x20) { up with sec.scope := 3, sec.unlockRecord := [1] } (fun t => decide (t.sec.scope = 0) && t.sec.unlockRecord.isEmpty) = true ∧
    gives .clearLevels up (fun t => t.boot.clearLevels) = true ∧
    gives .debugChallengeLapse { up with sec.challengeOut := true } (fun t => !t.sec.challengeOut && !challengeLive t) = true := by decide +kernel

/-- Two TLB entries of die 0, an invalidation of the first one's page under way. -/
def tlb2 : State := { up with mmu.tlb := [(0, 0x40000000, 3), (0, 0x40000001, 3)], mmu.invalGo := true, mmu.invalPages := 1, mmu.invalVa := 0x400000000000 }
theorem test_invalGo : gives (.mmuInvalGo 0x80000002) up (fun t => t.mmu.invalGo && decide (t.mmu.invalPages = 2)) = true := by decide +kernel
theorem test_invalidation : gives .mmuInvalidationDone tlb2 (fun t => decide (t.mmu.tlb = [(0, 0x40000001, 3)]) && !t.mmu.invalGo) = true ∧
    gives .mmuInvalidationDone { tlb2 with mmu.invalPages := 0 } (fun t => decide (t.mmu.tlb = [])) = true := by decide +kernel
def faulted1 : State := { up with mmu.faults := [(1, FaultEntry.init)] }
theorem wit_resume : tabGet faulted1.mmu.faults 1 = some FaultEntry.init ∧ FaultEntry.init.waiters = [] ∧ waitsForEntry up = none ∧
    gives (.mmuResume 1) faulted1 (fun t => t.mmu.faults.isEmpty && !t.mmu.badResume) = true ∧ gives (.mmuAbort 0x10001) faulted1 (fun t => t.mmu.faults.isEmpty) = true ∧
    gives (.mmuResume 2) faulted1 (fun t => t.mmu.badResume) = true ∧ gives (.mmuResume 0x401) faulted1 (fun t => t.mmu.badResume) = true := by decide +kernel
/-- An ME operation of core 3 waits in entry 1. -/
def waiting1 : State := { setCore up 3 { coreOf [(1, 1)] with ops := [{ opOf 0 [] with suspended := some 1 }] } with mmu.faults := [(1, { FaultEntry.init with waiters := [(3, (opOf 0 []).id)] })] }
theorem wit_resume_op : (findOp (getCore waiting1 3) (opOf 0 []).id).isSome = true ∧
    gives (.mmuResume 1) waiting1 (fun t => ((getCore t 3).ops.map (·.suspended)) == [none] && t.mmu.faults.isEmpty) = true := by decide +kernel
theorem test_aperBase : gives (.mmuAperBaseWrite 0x0007FFFFFFFFFFFF) up (fun t => decide (t.mmu.aperBase = 0xFFFFFFFF0000)) = true := by decide +kernel
theorem wit_walk : inTranslated 0x400000000000 = true ∧ (match walk up 0x400000000000 with | .error _ => true | .ok _ => false) = true ∧ gives (.mmuWalkComplete 0 0x400000000000 false) up (fun t => t.mmu.walkFault.isSome) = true ∧
    gives (.mmuWalkComplete 0 0x400000000000 true) (mapped up) (fun t => t.mmu.walkFault.isNone && decide (t.mmu.tlb.length = 1)) = true ∧
    gives (.mmuWalkComplete 0 0x400000010000 true) (mapped up) (fun t => decide ((t.mmu.walkFault.map (·.2.2)) = some 1)) = true := by decide +kernel

theorem test_bar2Read : gives (.bar2Read 0x10 4) { up with dram := [(0x12, 9)] } (fun t => decide (t.hub.busData = [0, 0, 9, 0]) && !t.mmu.aperMiss) = true ∧
    gives (.bar2Read 0 4) { up with mmu.aperBase := 0xFFFFFFFF0000 } (fun t => decide (t.hub.busData = [0, 0, 0, 0]) && t.mmu.aperMiss) = true := by decide +kernel
theorem test_bar2Write : gives (.bar2Write 0x10 [1, 2]) up (fun t => decide (t.dram = [(0x10, 1), (0x11, 2)])) = true ∧
    gives (.bar2Write 0 [1]) { up with mmu.aperBase := 0xFFFFFFFF0000 } (fun t => decide (t.dram = []) && t.mmu.aperMiss) = true := by decide +kernel
/-- A codeword error. -/
def cw (n v : Nat) : CwError := ⟨n, BitVec.ofNat 2 v, 0xAB⟩
theorem wit_dram : dramOn up = true ∧ dramPresent up 64 = true ∧ Memory.wf up.dram ∧ (presentDies up).contains 0 = true := by decide +kernel
theorem test_dramRead_corrected : gives (.dramRead 70 [cw 2 0]) up (fun t => decide (t.mmu.ce = 1) && t.poison.isEmpty) = true := by decide +kernel
theorem test_dramRead_poison : gives (.dramRead 70 [cw 3 0]) up (fun t => decide (t.mmu.ue = 1) && decide (t.poison = [1]) && decide (t.mmu.lastUe = 64)) = true ∧
    gives (.dramRead 70 [cw 4 1]) up (fun t => decide (t.mmu.ue = 1) && decide (t.poison = [1])) = true := by decide +kernel
theorem test_dramRead_wrong : gives (.dramRead 70 [cw 4 0]) up (fun t => decide (t.mmu.ce = 1) && decide (memGet t.dram 64 = 0xAB)) = true ∧
    gives (.dramRead 70 [cw 4 2]) up (fun t => decide (t.mmu.ce = 0) && decide (memGet t.dram 64 = 0xAB)) = true := by decide +kernel
theorem test_patrol : gives (.patrolScrubRead 0 []) { up with mmu.scrubEn := true } (fun t => decide (patrolAt t 0 = patrolAt up 0 + 64)) = true := by decide +kernel
/-- A scrub of die 0, of one or two granules. -/
def demandCmd (n : Nat) : HostCmd := cmd 0x38 [(2, 1), (4, 0), (6, n)]
def scrubbing (n : Nat) : State := { up with long := [{ LongCmd.init with slot := 0, cmd := demandCmd n }] }
theorem test_demand : (scrubDies (scrubbing 128) (demandCmd 128)) = [0] ∧ scrubLen (demandCmd 128) = 128 ∧ (findLong (scrubbing 128) 0).isSome = true ∧
    gives (.demandScrubRead 0 []) (scrubbing 128) (fun t => ((t.long.map fun l => tabGetD 0 l.dieCursor 0)) == [64]) = true ∧
    gives (.demandScrubRead 0 []) (scrubbing 64) (fun t => t.long.isEmpty && replied t == [(0, [0, 0])]) = true := by decide +kernel

/-! Ports, the cascade and laser modules (PortsChangeModeAndCarryFrames, TheCascadeFormsAndIsWatched, LaserModulesComeAndGo). -/

/-- Port 2 as given. -/
def port2 (x : Port) : State := modPort up 2 fun _ => x
def p2 (t : State) : Port := getPort t 2
def lit : Port := { Port.init with laserOff := false }
theorem wit_port : writesOn (port2 lit) = true ∧ agentsOn (port2 lit) = true ∧ (port2 lit).pwr.hot = false := by decide +kernel
theorem test_portMode : gives (.portModeEthernet 2 1) (port2 lit) (fun t => (p2 t).mode == 1 && (p2 t).active == 1 && !(p2 t).badWrite) = true ∧
    gives (.portModeCascade 2 2) (port2 lit) (fun t => (p2 t).mode == 2) = true ∧
    gives (.portModeOff 2 0) (port2 { lit with mode := 1, active := 1, linkUp := true, lanes := 15 }) (fun t => (p2 t).mode == 0 && !(p2 t).linkUp && vget 0 (p2 t).ctr 16 == 1) = true := by decide +kernel
theorem test_portMode_bad : gives (.portModeEthernet 2 1) (port2 { lit with mode := 2, active := 2 }) (fun t => (p2 t).mode == 2 && (p2 t).badWrite) = true ∧
    gives (.portModeOff 2 3) (port2 lit) (fun t => (p2 t).mode == 0 && (p2 t).badWrite) = true ∧
    gives (.portModeEthernet 2 1) (port2 { lit with quiescedMode := some 1 }) (fun t => (p2 t).mode == 0 && (p2 t).badWrite) = true ∧
    gives (.portModeEthernet 2 1) (port2 { lit with excluded := true }) (fun t => (p2 t).mode == 0 && (p2 t).badWrite) = true := by decide +kernel
theorem test_portMode_same : gives (.portModeCascade 2 6) (port2 { lit with mode := 2, ctr := Vector.replicate 20 5 }) (fun t => (p2 t).ctr == Port.init.ctr && (p2 t).mode == 2) = true ∧
    gives (.portCounterClear 2) (port2 { lit with ctr := Vector.replicate 20 5 }) (fun t => (p2 t).ctr == Port.init.ctr) = true := by decide +kernel
theorem test_portLinkUp : gives (.portLinkUp 2) (port2 { lit with active := 1 }) (fun t => (p2 t).linkUp && (p2 t).lanes == 15) = true ∧
    gives (.portLinkUp 2) (port2 { lit with active := 2, link := { Link.init with retraining := some 3, replay := [[7]], retries := 2 } })
      (fun t => (p2 t).linkUp && (p2 t).tx == [[7]] && (p2 t).link.retraining.isNone && (p2 t).link.retries == 0) = true ∧
    gives (.portLinkUp 2) (port2 { lit with active := 2 }) (fun t => (p2 t).linkUp) = true ∧ up.cas.topo = 0 := by decide +kernel
theorem test_portDown : gives (.portDown 2) (port2 { lit with mode := 2, active := 2, linkUp := true }) (fun t => !(p2 t).linkUp && (p2 t).mode == 2 && vget 0 (p2 t).ctr 16 == 1 &&
    (p2 t).link.retraining.isSome) = true := by decide +kernel

/-- A frame with its FCS passes the check of the FCS. -/
theorem fcs_holds (b : List Byte) (h : 0 < b.length) : fcsOk (withFcs b) = true := by
  have hl : (withFcs b).length = b.length + 4 := by simp [withFcs, leBytes]
  have hb : (withFcs b).take b.length = b := by simp [withFcs]
  have hd : (withFcs b).drop b.length = leBytes 4 (crc32 b).toNat := by simp [withFcs]
  have hv : natAt (withFcs b) b.length 4 = (crc32 b).toNat := by
    simp only [natAt, hd]
    generalize crc32 b = v
    have := v.isLt
    simp [leBytes, leNat]
    omega
  simp only [fcsOk, hl, Nat.add_sub_cancel, hb, hv, decide_true, Bool.and_true, decide_eq_true_eq]
  omega
/-- The destination, source and EtherType of a frame for the port's address 1, and what follows. -/
def frame (type : List Byte) (rest : List Byte) : List Byte := withFcs ([0, 0, 0, 0, 0, 1, 0, 0, 0, 0, 0, 9] ++ type ++ rest)
/-- A datagram of flow 0 with one frame of 16 bytes, SEQ 9, in UDP to port 5000 of 10.0.0.1. -/
def udpFrame : List Byte := frame [8, 0] ([0x45, 0, 0, 0x4C, 0, 0, 0, 0, 0x40, 0x11, 0x66, 0x9F, 10, 0, 0, 2, 10, 0, 0, 1] ++ [0, 1, 0x13, 0x88, 0, 56, 0, 0] ++
  [0x00015344, 0, 9, 0x00100001, 700, 0, 250, 0].flatMap (leBytes 4) ++ List.replicate 16 3)
def ethPort : Port := { lit with mode := 1, active := 1, linkUp := true, mac := 1, ipv4 := 0x0A000001, udpDst := 5000, flowBase := 0x140000, flowCount := 1 }
/-- Stream 5 takes flow 0 of port 2. -/
def fed : State := modPort { on (xs .running) with dram := memWrite (ringMem 2 2 0) 0x140000 (leBytes 4 0x10005) } 2 fun _ => ethPort
theorem wit_frame : vlanOk ethPort udpFrame = true ∧ macOk ethPort udpFrame = true ∧ etherType udpFrame = 0x0800 ∧ icmp6 udpFrame (packetOf udpFrame) = false ∧
    ipAddrOk ethPort udpFrame (packetOf udpFrame) = true ∧ ipFragment udpFrame (packetOf udpFrame) = false ∧ ipOk udpFrame (packetOf udpFrame) = true ∧
    udpOurs ethPort udpFrame (packetOf udpFrame) = true ∧ (datagramIn udpFrame (packetOf udpFrame)).isSome = true ∧ beAt udpFrame 12 2 ≠ 0x8808 ∧ udpFrame.length = 94 ∧
    flowAt fed ethPort 0 = { stream := 5, valid := true, egress := false } ∧ crosses fed = false := by decide +kernel
theorem wit_frame_fcs : fcsOk udpFrame = true := fcs_holds _ (by decide +kernel)
/-- No codeword in error. -/
def noFec : FecCount := ⟨0, 0⟩
/-- A frame with a good FCS on port 2 in ETHERNET mode meets the checks that follow. -/
theorem frame_taken {s : State} {f : List Byte} {t : DWord} (p : State → Bool) (h : fcsOk f = true) (ha : (agentsOn s && !s.pwr.hot) = true)
    (hx : (decide ((getPort (advanceTo s t.toNat) 2).active ≠ 1) || !(getPort (advanceTo s t.toNat) 2).linkUp) = false) :
    gives (.ethFrameReceive 2 f noFec t) s p =
      p (receiveFrame 2 t.toNat (getPort (advanceTo s t.toNat) 2) f (bumpLong 2 1 f.length (bumpLong 2 0 1 (countFec 2 noFec (advanceTo s t.toNat))))) := by
  have e : exec (.ethFrameReceive 2 f noFec t) s = execEthFrameReceive 2 f noFec t s := rfl
  simp only [gives, e, execEthFrameReceive, ha, if_true, takeFrame, show (2 : PortId).toNat = 2 from rfl, hx, h]
  simp [noFec]
theorem test_frame : gives (.ethFrameReceive 2 udpFrame noFec 900) fed (fun t => (s5 t).d.wrSeen == 1 && decide ((s5 t).d.seqE = some 10) && memRead t.dram 0x120000 4 == [9, 0, 0, 0] &&
    vget 0 (p2 t).long 0 == 1 && vget 0 (p2 t).ctr ctrGap == 0) = true := by
  rw [frame_taken _ wit_frame_fcs (by decide +kernel) (by decide +kernel)]
  decide +kernel
theorem test_frame_fcs : fcsOk [] = false ∧ gives (.ethFrameReceive 2 [] noFec 900) fed (fun t => vget 0 (p2 t).ctr ctrFcs == 1) = true ∧
    gives (.ethFrameReceive 2 udpFrame ⟨3, 1⟩ 900) fed (fun t => vget 0 (p2 t).ctr ctrFcs == 1 && vget 0 (p2 t).ctr ctrFecCorr == 3 && vget 0 (p2 t).ctr ctrFecUncorr == 1 && (s5 t).d.seqE.isNone) = true ∧
    gives (.ethFrameReceive 2 udpFrame noFec 900) (modPort fed 2 fun x => { x with linkUp := false }) (fun t => (s5 t).d.seqE.isNone && vget 0 (p2 t).long 0 == 0) = true := by decide +kernel
theorem test_frame_vlan : vlanOk { ethPort with vlan := 0x8005 } udpFrame = false ∧
    gives (.ethFrameReceive 2 udpFrame noFec 900) (modPort fed 2 fun x => { x with vlan := 0x8005 }) (fun t => vget 0 (p2 t).ctr ctrVlan == 1) = true := by
  refine ⟨by decide +kernel, ?_⟩
  rw [frame_taken _ wit_frame_fcs (by decide +kernel) (by decide +kernel)]
  decide +kernel
/-- An ARP request for 10.0.0.1 from 10.0.0.2. -/
def arpFrame : List Byte := frame [8, 6] ([0, 1, 8, 0, 6, 4, 0, 1, 0, 0, 0, 0, 0, 9, 10, 0, 0, 2, 0, 0, 0, 0, 0, 0, 10, 0, 0, 1] ++ List.replicate 18 0)
theorem test_arp : arpForUs ethPort (packetOf arpFrame) = true ∧ gives (.ethFrameReceive 2 arpFrame noFec 900) fed
    (fun t => (p2 t).tx.map (fun f => cut f 0 32) == [[0, 0, 0, 0, 0, 9, 0, 0, 0, 0, 0, 1, 8, 6, 0, 1, 8, 0, 6, 4, 0, 2, 0, 0, 0, 0, 0, 1, 10, 0, 0, 1]]) = true := by
  refine ⟨by decide +kernel, ?_⟩
  rw [frame_taken _ (show fcsOk arpFrame = true from fcs_holds _ (by decide +kernel)) (by decide +kernel) (by decide +kernel)]
  decide +kernel
/-- A frame of 9,217 bytes is one too long, and its FCS holds. -/
theorem wit_frame_long (b : List Byte) (h : b = List.replicate 9213 0) : 9216 < (withFcs b).length ∧ fcsOk (withFcs b) = true := by
  have hl : b.length = 9213 := by rw [h, List.length_replicate]
  refine ⟨?_, fcs_holds _ (by omega)⟩
  simp [withFcs, leBytes, hl]

/-- A Quanak port, and a flit of it. -/
def qport : Port := { lit with mode := 2, active := 2, linkUp := true }
def idle (ack : Nat) : Flit := { seq := 0, ack := ack, type := 0, vc := 3, credits := 2, creditVc := 1, dst := 0, src := 1, payload := [] }
/-- A flit's CRC holds exactly where its last four bytes are the CRC of the others. -/
theorem flit_holds (b : List Byte) (w : Word) (hl : b.length = 252) : flitOk (b ++ leBytes 4 w.toNat) = decide (crc32 b = w) := by
  have h1 : (b ++ leBytes 4 w.toNat).length = 256 := by simp [hl, leBytes]
  have h2 : (b ++ leBytes 4 w.toNat).take 252 = b := by simp [← hl]
  have hd : (b ++ leBytes 4 w.toNat).drop 252 = leBytes 4 w.toNat := by simp [← hl]
  have hv : natAt (b ++ leBytes 4 w.toNat) 252 4 = w.toNat := by
    simp only [natAt, hd]
    have := w.isLt
    simp [leBytes, leNat]
    omega
  simp only [flitOk, h1, h2, hv, decide_true, Bool.true_and, BitVec.toNat_inj]
/-- A flit without its CRC, with its CRC and with another. -/
def bare (f : Flit) : List Byte := (flitBytes f).take 252
def good (f : Flit) : List Byte := bare f ++ leBytes 4 (crc32 (bare f)).toNat
def bad (f : Flit) : List Byte := bare f ++ leBytes 4 (crc32 (bare f) + 1).toNat
theorem good_ok (f : Flit) (h : (bare f).length = 252) : flitOk (good f) = true := by rw [good, flit_holds _ _ h]; simp
theorem bad_fails (f : Flit) (h : (bare f).length = 252) : flitOk (bad f) = false := by
  rw [bad, flit_holds _ _ h, decide_eq_false_iff_not]
  generalize crc32 (bare f) = w
  intro e
  have := congrArg BitVec.toNat e
  simp at this
  omega
/-- A flit on port 2 whose Quanak link is up is judged by its CRC. -/
theorem flit_taken {s : State} {f : List Byte} {b : Bool} (p : State → Bool) (h : flitOk f = b) (ha : (agentsOn s && !s.pwr.hot && quanakUp s 2) = true)
    (hq : quanakUp (countFec 2 noFec s) 2 = true) :
    gives (.flitReceive 2 ⟨f, noFec⟩) s p = p (if b then (match (flitOf f).type with
      | 0 | 2 => pumpAll 2 (takeHeader 2 (flitOf f) (countFec 2 noFec s))
      | 1 => dataFlit 2 (flitOf f) (pumpAll 2 (takeHeader 2 (flitOf f) (countFec 2 noFec s)))
      | 3 => pumpAll 2 (resendFrom 2 (flitOf f).ack (takeHeader 2 (flitOf f) (countFec 2 noFec s)))
      | _ => countFec 2 noFec s) else discardFlit 2 true (countFec 2 noFec s)) := by
  have e : exec (.flitReceive 2 ⟨f, noFec⟩) s = execFlitReceive 2 ⟨f, noFec⟩ s := rfl
  simp only [gives, e, execFlitReceive, ha, if_true, takeFlit, show (2 : PortId).toNat = 2 from rfl, hq, h]
  cases b <;> rfl
theorem wit_flit : quanakUp (port2 qport) 2 = true ∧ (flitOf (good (idle 5))).type = 0 ∧ (flitOf (good { idle 5 with type := 1 })).seq = 0 ∧ qport.link.rxSeq = 0 ∧
    (bare (idle 5)).length = 252 := by decide +kernel
theorem test_flit_bad : gives (.flitReceive 2 ⟨(bad (idle 5)), noFec⟩) (port2 qport) (fun t => (p2 t).link.discarding && (p2 t).link.retries == 1 && (p2 t).tx.length == 1 &&
    vget 0 (p2 t).ctr 17 == 1) = true := by
  rw [flit_taken _ (bad_fails _ (by decide +kernel)) (by decide +kernel) (by decide +kernel)]
  decide +kernel
theorem test_flit_ahead : gives (.flitReceive 2 ⟨(good { idle 5 with type := 1, seq := 1 }), noFec⟩) (port2 { qport with link := { Link.init with discarding := true } })
    (fun t => (p2 t).link.rxSeq == 0 && (p2 t).tx.isEmpty) = true := by
  rw [flit_taken _ (good_ok _ (by decide +kernel)) (by decide +kernel) (by decide +kernel)]
  decide +kernel
theorem test_flit_header : gives (.flitReceive 2 ⟨(good (idle 0)), noFec⟩) (port2 { qport with link := { Link.init with replay := [[1], [2]], credits := Vector.replicate 4 7 } })
    (fun t => (p2 t).link.replay == [[2]] && vget 0 (p2 t).link.credits 1 == 9) = true := by
  rw [flit_taken _ (good_ok _ (by decide +kernel)) (by decide +kernel) (by decide +kernel)]
  decide +kernel
theorem test_retry : gives (.retryRequest 2 0) (port2 { qport with link := { Link.init with replay := [[1], [2]] } }) (fun t => (p2 t).tx == [[2]] && (p2 t).link.replay == [[2]] && (p2 t).link.acked == 0 &&
    vget 0 (p2 t).ctr 18 == 1) = true := by decide +kernel
theorem test_linkLost : gives (.linkLostExpiry 2) (port2 { qport with linkUp := false, link := { Link.init with retraining := some 0 } }) (fun t => (p2 t).link.lost && decide (50000000 ≤ now t)) = true := by decide +kernel

/-- A cascade in a state of its own. -/
def cas (x : Cas) : State := { up with cas := x }
theorem test_casTopo : gives (.casTopoWrite 0x0D) (cas Cas.init) (fun t => t.cas.topo == 1 && t.cas.size == 3 && t.cas.state == 1) = true ∧
    gives (.casTopoWrite 0) (cas { Cas.init with state := 3, topo := 1 }) (fun t => t.cas.state == 0) = true ∧
    gives (.casTopoWrite 0x0D) (cas { Cas.init with state := 2 }) (fun t => t.cas.badWrite && t.cas.topo == 0) = true ∧
    gives (.casTopoWrite 0x0D) (cas { Cas.init with state := 4, topo := 1, size := 3 }) (fun t => !t.cas.badWrite) = true := by decide +kernel
theorem test_casLocal : gives .casLocal (cas { Cas.init with state := 4 }) (fun t => t.cas.localOn) = true ∧ gives .casLocal (cas Cas.init) (fun t => !t.cas.localOn) = true := by decide +kernel
/-- A ring of two packages: this one, 0, is the master; the other's identity came on port 2. -/
def ring2 (m : Bool) : State := { port2 qport with hub.cascMstr := m, cas.state := 1, cas.topo := 1, cas.size := 1, cas.idents := [(1, false, 1, 1)], cas.peers := up.cas.peers.set 2 0x11 }
theorem wit_form : formCause (advanceTo (ring2 true) 2000000000) = 0 ∧ formCause (advanceTo (ring2 false) 2000000000) = 1 := by decide +kernel
theorem test_form : gives .cascadeFormTimeout (ring2 true) (fun t => t.cas.state == 2 && t.cas.members == 3 && t.cas.master == 0) = true ∧
    gives .cascadeFormTimeout (ring2 false) (fun t => t.cas.state == 3 && t.cas.cause == 1) = true := by decide +kernel
def member1 : State := cas { Cas.init with state := 2, master := 1, members := 3, topo := 1, size := 1 }
theorem wit_beat : (cas { Cas.init with state := 2 }).cas.master = (cas { Cas.init with state := 2 }).hub.cascId ∧
    gives .heartbeatSend (cas { Cas.init with state := 2 }) (fun t => decide (t.cas.lastBeat = t.clk.time)) = true := by decide +kernel
theorem test_miss : gives .heartbeatMiss member1 (fun t => t.cas.hbMiss == 1) = true ∧
    gives .casMasterLost member1 (fun t => t.cas.state == 4 && t.cas.cause == 6) = true := by decide +kernel
theorem test_remote : gives (.casRemoteRead 0x80100010 (some 7)) member1 (fun t => t.cas.remoteData == 7 && !t.cas.remoteErr && t.cas.remote == 0x00100010) = true ∧
    gives (.casRemoteRead 0x80100010 none) member1 (fun t => t.cas.remoteErr) = true ∧ gives (.casRemoteRead 0x80200010 (some 7)) member1 (fun t => t.cas.remoteErr) = true ∧
    gives (.casRemoteWrite 0x81100010 true) member1 (fun t => t.cas.remoteData == 0 && !t.cas.remoteErr) = true ∧
    gives (.casRemoteWrite 0x81100010 true) { member1 with cas.remote := 0x80000000 } (fun t => t.cas.remote == 0x80000000) = true := by decide +kernel

/-- Module 1 as given. -/
def mod1 (l : Laser) : State := modLaser up 1 fun _ => l
def l1 (t : State) : Laser := getLaser t 1
def seated1 : Laser := { Laser.init with present := true, en := true, auth := true, serial := 77, ratedH := 50000 }
theorem test_lmPresent : gives (.lmPresentFall 1) (mod1 Laser.init) (fun t => (l1 t).present && (l1 t).insertions == 1) = true ∧
    gives (.lmPresentRise 1) (mod1 seated1) (fun t => !(l1 t).present && !(l1 t).en && (l1 t).fault && (l1 t).faultCause == 2 && (getPort t 4).laserOff) = true ∧
    gives (.lmPresentRise 1) (mod1 { seated1 with quiesced := true, en := false }) (fun t => !(l1 t).present && !(l1 t).fault) = true := by decide +kernel
theorem test_lmFault : gives (.lmFaultFall 1) (mod1 seated1) (fun t => !(l1 t).en && (l1 t).faultCause == 1 && (l1 t).auth) = true := by decide +kernel
theorem test_busFail : laserKnown seated1 = true ∧ gives (.laserBusFail 1) (mod1 seated1) (fun t => (l1 t).busDead && (l1 t).faultCause == 3 && (l1 t).en) = true := by decide +kernel
theorem test_authTimeout : resumeSlot (mod1 seated1) 1 = none ∧
    gives (.laserAuthTimeout 1) (mod1 { seated1 with auth := false, en := false, challengeAt := some 0 }) (fun t => (l1 t).authCause == 5 && !(l1 t).en) = true ∧
    gives (.laserAuthTimeout 1) { mod1 { seated1 with auth := false, en := false, challengeAt := some 0 } with sec.overrides := [(77, [])] } (fun t => (l1 t).authCause == 5 && (l1 t).en && (l1 t).override) = true := by decide +kernel
theorem test_wear : gives (.laserWearRecordWrite 1) (mod1 { seated1 with enabledS := 3600, wearS := 4000 }) (fun t => (l1 t).enabledS == 0 && decide (tabGet (l1 t).moduleRecord 77 = some 4000)) = true ∧
    gives (.laserWearRecordWrite 1) (mod1 { seated1 with enabledS := 3600, busDead := true }) (fun t => (l1 t).enabledS == 0 && (l1 t).moduleRecord.isEmpty) = true := by decide +kernel

/-! The whole machine (StepRunsTheFrontCommand, ResetLeavesTheSpecsValues, MemoriesStayCanonical). -/

theorem test_step_front : (match step { up with pending := [.nop (cmd 0 []), .clearLevels] } with
    | .next t => replied t == [(0, [])] && decide (t.pending = [.clearLevels])
    | _ => false) = true := by decide +kernel
theorem test_step_idle : up.pending = [] ∧ (match step up with
    | .next t => decide (now up < now t) && decide (t.pending = []) && same t up
    | _ => false) = true := by decide +kernel
/-- In D3hot only the clock goes on. -/
theorem test_step_still : agentsOn { up with hub.resetLow := true } = false ∧ (match step { live x5 with pwr.hot := true } with
    | .next t => decide (now up < now t) && decide (t.streams = (live x5).streams)
    | _ => false) = true := by decide +kernel
theorem wit_front : ({ up with pending := [.clearLevels] } : State).pending = .clearLevels :: [] := rfl
theorem test_reset_words : ([(0x1124, 100), (0x5000, 3), (0x5004, 80), (0x5010, 0x508), (0x5020, 0x819), (0xC040, 1)].all fun e =>
    decide ((regWord State.reset e.1).toNat = e.2)) = true := by decide +kernel
theorem test_reset_rest : State.reset.pending = [] ∧ (getPort State.reset 15).laserOff = true ∧ (getStream State.reset 4095).state = .free ∧ State.reset.cas.state = 0 ∧
    State.reset.cfg.cur = none ∧ memGet State.reset.dram 0 = 0 := by decide +kernel
/-- A state whose memories hold bytes, and a write of a 0 that takes one away. -/
theorem wit_canonical : Memory.wf (up.dram ++ [(0x10, 1), (0x20, 2)]) ∧ ¬ Memory.wf [(0x20, 2), (0x10, 1)] ∧ ¬ Memory.wf [(0x10, 0)] ∧
    (match step { up with dram := [(0x10, 1), (0x20, 2)], pending := [.bar2Write 0x10 [0]] } with | .next t => decide (t.dram = [(0x20, 2)]) | _ => false) = true := by decide +kernel
theorem test_noSuchCore : faults (.ccNop 0x1FFFF 0) up = true ∧ faults (.ccNop 63 0) up = false := by decide +kernel

/-! Words of the control core, written out from Tables 7.8 and 7.9 (ControlCoreWordsRoundTrip). -/

theorem word_alu : ccDecode 3 0b00000100011000010001000000000000 = some (.add 3 3 1 2) ∧ ccDecode 3 0b00000100011000010001000000000001 = some (.sub 3 3 1 2) ∧
    ccDecode 3 0b00000100011000010001000000000010 = some (.and 3 3 1 2) ∧ ccDecode 3 0b00000100011000010001000000000011 = some (.or 3 3 1 2) ∧
    ccDecode 3 0b00000100011000010001000000000100 = some (.xor 3 3 1 2) ∧ ccDecode 3 0b00000100011000010001000000000101 = some (.shl 3 3 1 2) ∧
    ccDecode 3 0b00000100011000010001000000000110 = some (.shr 3 3 1 2) ∧ ccDecode 3 0b00000100011000010001000000000111 = some (.sra 3 3 1 2) ∧
    ccDecode 3 0b00000100011000010001000000001000 = some (.mul 3 3 1 2) ∧ ccDecode 3 0b00000100011000010001000000001001 = some (.slt 3 3 1 2) ∧
    ccDecode 3 0b00000100011000010001000000001010 = some (.sltu 3 3 1 2) := by decide +kernel
theorem word_immediates : ccDecode 3 0b00001000011000011000000000000001 = some (.addi 3 3 1 0x8001) ∧ ccDecode 3 0b00001100011000001000000000000001 = some (.lui 3 3 0x8001) ∧
    ccDecode 3 0b00010000011000011000000000000001 = some (.andi 3 3 1 0x8001) ∧ ccDecode 3 0b00010100011000011000000000000001 = some (.ori 3 3 1 0x8001) := by decide +kernel
theorem word_fpu : ccDecode 3 0b00100000011000010001000000000000 = some (.fadd 3 3 1 2) ∧ ccDecode 3 0b00100000011000010001000000000011 = some (.fma 3 3 1 2) ∧
    ccDecode 3 0b00100000011000010001000000000110 = some (.i2f 3 3 1) ∧ ccDecode 3 0b00100000011000010001000000001000 = some (.flt 3 3 1 2) := by decide +kernel
theorem word_memory : ccDecode 3 0b01000000011000011111111111111100 = some (.ld 3 3 1 0xFFFC) ∧ ccDecode 3 0b01000100011000011111111111111100 = some (.st 3 3 1 0xFFFC) ∧
    ccDecode 3 0b01001000011000010001000000000000 = some (.ldr 3 3 1 2) ∧ ccDecode 3 0b01001100011000010001000000000000 = some (.str 3 3 1 2) ∧
    ccDecode 3 0b01010000011000010000000000000100 = some (.ldt 3 3 1 4) := by decide +kernel
theorem word_branches : ccDecode 3 0b01100000011000010000000000000100 = some (.beq 3 3 1 4) ∧ ccDecode 3 0b01110100011000011111111111111111 = some (.bgeu 3 3 1 0xFFFF) ∧
    ccDecode 3 0b01111000011100000000000000000001 = some (.jal 3 3 0x100001) ∧ ccDecode 3 0b01111100000000010000000000000000 = some (.jr 3 1) ∧
    ccDecode 3 0b10000010001000010000000000000100 = some (.bsum 3 true 0x21 4) := by decide +kernel
theorem word_special : ccDecode 3 0b10000100011000000000000000000101 = some (.mfs 3 3 5) ∧ ccDecode 3 0b10001000000000010000000000000101 = some (.mts 3 1 5) ∧
    ccDecode 3 0b10111100000000000000000000000000 = some (.yield 3) ∧ ccDecode 3 0 = some (.ccNop 3 0) := by decide +kernel
theorem word_units : ccDecode 3 0b10010000011000010001000000000000 = some (.issueMe 3 3 1 2) ∧ ccDecode 3 0b10010000011000010001000000000110 = some (.issueCopy 3 3 1 2) ∧
    ccDecode 3 0b10010100000000010000000000000000 = some (.waitop 3 1) ∧ ccDecode 3 0b10011000011000000000000000000000 = some (.take 3 3) ∧
    ccDecode 3 0b10011100000000010000000000000000 = some (.done 3 1) := by decide +kernel
theorem word_rings : ccDecode 3 0b10100000000000010001000000000000 = some (.rcfg 3 1 2) ∧ ccDecode 3 0b10100100011000010000000000000001 = some (.rwaitAllocate 3 3 1) ∧
    ccDecode 3 0b10101000000000010001000000000000 = some (.rrel 3 1 2) ∧ ccDecode 3 0b10101100011000010001000000000000 = some (.rcommit 3 3 1 2) ∧
    ccDecode 3 0b10110000011000010001000000000000 = some (.grant 3 3 1 2) ∧ ccDecode 3 0b10110100000000010000000000000000 = some (.gwait 3 1) ∧
    ccDecode 3 0b10111000000000010001000000000000 = some (.gend 3 1 2) := by decide +kernel
/-- An OP and an FN that Table 7.9 does not list, and reserved fields that are not 0. -/
theorem word_refused : ccDecode 3 0b00011000000000000000000000000000 = none ∧ ccDecode 3 0b00000100011000010001000000001011 = none ∧
    ccDecode 3 0b00000000000000000000000000000001 = none ∧ ccDecode 3 0b10000000010000010000000000000000 = none ∧
    ccDecode 3 0b01001000011000010001000000000001 = none := by decide +kernel
theorem word_encoded : (ccEncode (.add 3 3 1 2)).map (·.toNat) = some 0b00000100011000010001000000000000 ∧ (ccEncode (.clearLevels)).isNone = true ∧
    (ccEncode (.bsum 3 true 0x21 4)).map (·.toNat) = some 0b10000010001000010000000000000100 := by decide +kernel

/-! Ill-formed commands, one for each check of WellFormed, and well-formed ones beside them. -/

theorem wf_refuses_entries : Instr.wf (.nop { queue := 0, words := [] }) = false ∧ Instr.wf (.nop (cmd 0 [])) = true ∧
    Instr.wf (.laserResume (cmd 0x41 []) { noLaser with linkTrains := [] }) = false ∧ Instr.wf (.laserResume (cmd 0x41 []) { noLaser with initialBias := [] }) = false ∧
    Instr.wf (.debugUnlock (some { queue := 0, words := [] }) []) = false ∧ Instr.wf (.commandFetch []) = false ∧
    Instr.wf (.commandFetch (List.replicate 4 { noLaser with initialBias := [] })) = false := by decide +kernel
theorem wf_refuses_starts : goodStart.wf = true ∧ Instr.wf (.startBegin { goodStart with lasers := [] }) = false ∧ Instr.wf (.startBegin { goodStart with columnsLost := [] }) = false ∧
    Instr.wf (.startBegin { goodStart with columnsSpare := [] }) = false ∧ Instr.wf (.automaticRestart { goodStart with steps := [] }) = false ∧
    Instr.wf (.startBegin { goodStart with lasers := List.replicate 4 { noLaser with linkTrains := [] } }) = false ∧
    Instr.wf (.startBegin { goodStart with steps := List.replicate 7 { failUnits := [], attempts := 0, reason := 0 } }) = false := by decide +kernel
theorem wf_refuses_sizes : Instr.wf (.temperatureSample []) = false ∧ Instr.wf (.thymeDecision ⟨0, [], 0⟩) = false ∧ Instr.wf (.thymeWindowEnd ⟨[], List.replicate 12 0⟩) = false ∧
    Instr.wf (.thymeWindowEnd ⟨List.replicate 4 ⟨true, none⟩, []⟩) = false ∧ Instr.wf (.thymeWindowEnd ⟨List.replicate 4 ⟨true, some (0, [])⟩, List.replicate 12 0⟩) = false ∧
    Instr.wf (.flitReceive 0 ⟨[], noFec⟩) = false ∧ Instr.wf (.eventRaise 0x0101 0 0 (List.replicate 9 0)) = false ∧ Instr.wf (.resultHoldoffExpiry 0) = false := by decide +kernel
theorem wf_refuses_numbers : Instr.wf (.railOutOfLimits 21) = false ∧ Instr.wf (.avsRegulatorFail 12) = false ∧ Instr.wf (.operatingMaximumHoldExpiry 12) = false ∧
    Instr.wf (.mmuWalkComplete 12 0 false) = false ∧ Instr.wf (.railOutOfLimits 20) = true ∧ Instr.wf (.avsRegulatorFail 11) = true := by decide +kernel
theorem wf_refuses_accesses : Instr.wf (.registerWrite 0 0 0) = false ∧ Instr.wf (.registerWrite 0 9 0) = false ∧ Instr.wf (.registerWrite 2 3 0) = true ∧
    Instr.wf (.reg64LowWordRead ⟨false, 0, 0⟩) = false ∧ Instr.wf (.reg64LowWordRead ⟨true, 9, 3⟩) = true ∧ Instr.wf (.reg64LowWordWrite 4 0) = false ∧ Instr.wf (.registerWrite 8 8 0) = true := by decide +kernel
theorem wf_refuses_reads : Instr.wf (.dramRead 32 (List.replicate 8 ⟨0, 0, 0⟩)) = false ∧ Instr.wf (.dramRead 64 []) = false ∧ Instr.wf (.dramRead 64 (List.replicate 8 ⟨81, 0, 0⟩)) = false ∧
    Instr.wf (.dramRead 64 (List.replicate 8 ⟨4, 3, 0⟩)) = false ∧ Instr.wf (.patrolScrubRead 12 (List.replicate 8 ⟨0, 0, 0⟩)) = false ∧
    Instr.wf (.demandScrubRead 12 (List.replicate 8 ⟨0, 0, 0⟩)) = false ∧ Instr.wf (.dramRead 64 (List.replicate 8 ⟨80, 2, 0⟩)) = true := by decide +kernel

end Sys2Proof.Tests
end

section
/-! SUPPORT. A write of the host that BAR0 takes or discards (R12, R451), and how one queue pair of four changes. -/

namespace Sys2Proof.Laws

open Sys2Proof.Machine Sys2Proof.Claims

theorem completes_of_next {i : Instr} {s t : State} {P : State → Prop} (h : exec i s = .next t) (hP : P t) : Completes i s P :=
  ⟨t, h, hP⟩

theorem next_congr {i : Instr} {s t u : State} (h : exec i s = .next t) (e : t = u) : exec i s = .next u :=
  h.trans (congrArg _ e)

theorem writesOn_iff (s : State) : writesOn s = true ↔ hostOn s = true ∧ s.hub.halted = false := by
  simp [writesOn]

/-- A write that BAR0 takes has its effect on the state without the held low word. -/
theorem hostWrite_next (f : State → State) {s : State} (h : writesOn s = true) : hostWrite f s = .next (f (dropHeld s)) := by
  simp [hostWrite, h]

theorem hostWrite_discarded (f : State → State) {s : State} (h : writesOn s = false) : hostWrite f s = .next s := by
  simp [hostWrite, h]

/-! One queue pair (R387). -/

theorem getQ_modQ_same (s : State) (q : BitVec 2) (f : Queue → Queue) : getQ (modQ s q.toNat f) q.toNat = f (getQ s q.toNat) :=
  vget_vset_same _ _ _ _ q.isLt

theorem getQ_modQ_other (s : State) (q r : BitVec 2) (f : Queue → Queue) (h : r ≠ q) :
    getQ (modQ s q.toNat f) r.toNat = getQ s r.toNat :=
  vget_vset_other _ _ _ _ _ (mt BitVec.eq_of_toNat_eq h)

theorem modQ_only (s : State) (n : Nat) (f : Queue → Queue) :
    modQ s n f = { s with que := { s.que with q := (modQ s n f).que.q } } := rfl

/-! Fields of a word. -/

theorem fld_lt (w : Word) (lo n : Nat) : fld w lo n < 2 ^ n := Nat.mod_lt _ (Nat.two_pow_pos n)

/-- A register of n bits holds a field of n bits whole. -/
@[simp] theorem toNat_ofNat_fld (w : Word) (lo n : Nat) : (BitVec.ofNat n (fld w lo n)).toNat = fld w lo n := by
  simp [Nat.mod_eq_of_lt (fld_lt w lo n)]

end Sys2Proof.Laws
end

section
/-! SUPPORT. Doorbells and CTRL writes of the queues (R387, R388, R391): when one is taken, and what it does in either case. -/

namespace Sys2Proof.Laws

open Sys2Proof.Machine Sys2Proof.Claims

theorem headOk_iff (size head tail new : Nat) :
    headOk size head tail new = true ↔ new < size ∧ (new + size - head) % size ≤ (tail + size - head) % size := by
  simp [headOk]

theorem enOk_iff (s : State) (en : Bool) (size : BitVec 4) (v : Word) (most : Nat) :
    enOk s en size v most = true ↔
      (en = true → fld v 1 4 = size.toNat) ∧ (bit v 0 = true → s.hub.ready = true ∧ 4 ≤ fld v 1 4 ∧ fld v 1 4 ≤ most) := by
  unfold enOk
  cases en <;> cases bit v 0 <;> simp [and_assoc]

/-! Doorbells (R388). -/

/-- A tail within the queue's size that does not pass the queue's head. -/
def TailFits (q : Queue) (t : Nat) : Prop :=
  t < 2 ^ q.cmdSize.toNat ∧
    (q.tail.toNat + 2 ^ q.cmdSize.toNat - q.head.toNat) % 2 ^ q.cmdSize.toNat + (t + 2 ^ q.cmdSize.toNat - q.tail.toNat) % 2 ^ q.cmdSize.toNat <
      2 ^ q.cmdSize.toNat

theorem cmdDoorbell_fits {n : Nat} {v : Word} {s : State} (h : TailFits (getQ s n) (fld v 0 12)) :
    cmdDoorbell n v s = modQ s n fun q => { q with tail := BitVec.ofNat 12 (fld v 0 12) } := by
  obtain ⟨hsize, hroom⟩ := h
  exact if_neg (by omega)

theorem cmdDoorbell_bad {n : Nat} {v : Word} {s : State} (h : ¬ TailFits (getQ s n) (fld v 0 12)) : cmdDoorbell n v s = queErr n s := by
  unfold TailFits at h
  exact if_pos (by omega)

section
variable {s : State} (hs : writesOn s = true)
include hs

theorem exec_commandQueueDoorbell (q : BitVec 2) (v : Word) (cells : List Host.Cell) :
    exec (.commandQueueDoorbell q v cells) s = .next (cmdDoorbell q.toNat v (hostStores cells (dropHeld s))) :=
  hostWrite_next (s := hostStores cells s) _ hs

theorem exec_completionQueueDoorbell (q : BitVec 2) (v : Word) :
    exec (.completionQueueDoorbell q v) s = .next (cplDoorbell q.toNat v (dropHeld s)) :=
  hostWrite_next _ hs

theorem exec_eventQueueDoorbell (v : Word) : exec (.eventQueueDoorbell v) s = .next (evDoorbell v (dropHeld s)) :=
  hostWrite_next _ hs

/-! CTRL (R391): the command queues are numbered 0 to 3, the completion queues 4 to 7, and the event queue 8. -/

theorem exec_queueEnableWrite (which : BitVec 4) (v : Word) : exec (.queueEnableWrite which v) s = .next
    (if which.toNat < 4 then cmdCtrl which.toNat v (dropHeld s) else if which.toNat < 8 then cplCtrl (which.toNat - 4) v (dropHeld s)
      else if which.toNat = 8 then evCtrl v (dropHeld s) else dropHeld s) :=
  hostWrite_next (fun s => if which.toNat < 4 then cmdCtrl which.toNat v s else if which.toNat < 8 then cplCtrl (which.toNat - 4) v s
    else if which.toNat = 8 then evCtrl v s else s) hs

theorem exec_queueEnableWrite_cmd (q : BitVec 2) (v : Word) :
    exec (.queueEnableWrite (q.zeroExtend 4) v) s = .next (cmdCtrl q.toNat v (dropHeld s)) := by
  have hq : q.toNat < 4 := q.isLt
  have hw : (q.zeroExtend 4).toNat = q.toNat := by
    rw [BitVec.toNat_setWidth]
    omega
  rw [exec_queueEnableWrite hs, hw, if_pos hq]

theorem exec_queueEnableWrite_cpl (q : BitVec 2) (v : Word) :
    exec (.queueEnableWrite (q.zeroExtend 4 + 4) v) s = .next (cplCtrl q.toNat v (dropHeld s)) := by
  have hq : q.toNat < 4 := q.isLt
  have hw : (q.zeroExtend 4 + 4 : BitVec 4).toNat = q.toNat + 4 := by
    rw [BitVec.toNat_add, BitVec.toNat_setWidth, show (4 : BitVec 4).toNat = 4 from rfl]
    omega
  rw [exec_queueEnableWrite hs, hw, if_neg (by omega), if_pos (by omega), Nat.add_sub_cancel]

theorem exec_queueEnableWrite_ev (v : Word) : exec (.queueEnableWrite 8 v) s = .next (evCtrl v (dropHeld s)) :=
  exec_queueEnableWrite hs 8 v

end

/-- What a CTRL write that is taken makes of a command queue: EN, the size, and indices of 0 when EN rises. -/
def setCmdCtrl (v : Word) (q : Queue) : Queue :=
  { (if bit v 0 && !q.cmdEn then { q with head := 0, tail := 0 } else q) with cmdEn := bit v 0, cmdSize := BitVec.ofNat 4 (fld v 1 4) }

/-- And of a completion queue. -/
def setCplCtrl (v : Word) (q : Queue) : Queue :=
  { (if bit v 0 && !q.cplEn then { q with cplHead := 0, cplTail := 0, cplPhase := true, unsignalled := 0, oldest := none } else q) with
    cplEn := bit v 0, cplSize := BitVec.ofNat 4 (fld v 1 4), count := BitVec.ofNat 8 (fld v 8 8), waitUs := BitVec.ofNat 16 (fld v 16 16) }

theorem setCmdCtrl_indices_rise {v : Word} {q : Queue} (hv : bit v 0 = true) (hq : q.cmdEn = false) :
    (setCmdCtrl v q).head = 0 ∧ (setCmdCtrl v q).tail = 0 := by
  simp [setCmdCtrl, hv, hq]

theorem setCmdCtrl_indices_kept {v : Word} {q : Queue} (h : bit v 0 = false ∨ q.cmdEn = true) :
    (setCmdCtrl v q).head = q.head ∧ (setCmdCtrl v q).tail = q.tail := by
  rcases h with h | h <;> simp [setCmdCtrl, h]

theorem setCplCtrl_indices_rise {v : Word} {q : Queue} (hv : bit v 0 = true) (hq : q.cplEn = false) :
    (setCplCtrl v q).cplHead = 0 ∧ (setCplCtrl v q).cplTail = 0 ∧ (setCplCtrl v q).cplPhase = true := by
  simp [setCplCtrl, hv, hq]

theorem cmdCtrl_ok {n : Nat} {v : Word} {s : State} (h : enOk s (getQ s n).cmdEn (getQ s n).cmdSize v 12 = true) :
    cmdCtrl n v s = modQ s n (setCmdCtrl v) := if_pos h

theorem cmdCtrl_bad {n : Nat} {v : Word} {s : State} (h : enOk s (getQ s n).cmdEn (getQ s n).cmdSize v 12 ≠ true) :
    cmdCtrl n v s = queErr n s := if_neg h

theorem cplCtrl_ok {n : Nat} {v : Word} {s : State} (h : enOk s (getQ s n).cplEn (getQ s n).cplSize v 12 = true) :
    cplCtrl n v s = modQ s n (setCplCtrl v) := if_pos h

theorem cplCtrl_bad {n : Nat} {v : Word} {s : State} (h : enOk s (getQ s n).cplEn (getQ s n).cplSize v 12 ≠ true) :
    cplCtrl n v s = queErr n s := if_neg h

theorem evCtrl_bad {v : Word} {s : State} (h : enOk s s.que.evEn s.que.evSize v 14 ≠ true) : evCtrl v s = { s with que.evqErr := true } :=
  if_neg h

/-- A CTRL write of the event queue that is taken: EN, the size, and indices of 0 when EN rises; the pairs stay. -/
theorem evCtrl_ok {v : Word} {s : State} (h : enOk s s.que.evEn s.que.evSize v 14 = true) :
    (evCtrl v s).que.evEn = bit v 0 ∧ (evCtrl v s).que.evSize = BitVec.ofNat 4 (fld v 1 4) ∧ (evCtrl v s).que.q = s.que.q ∧
      (bit v 0 = true → s.que.evEn = false → (evCtrl v s).que.evHead = 0 ∧ (evCtrl v s).que.evTail = 0 ∧ (evCtrl v s).que.evPhase = true) := by
  unfold evCtrl
  dsimp only
  rw [if_pos h]
  refine ⟨rfl, rfl, ?_, fun hv he => ?_⟩
  · split <;> rfl
  · simp [hv, he]

end Sys2Proof.Laws
end

section
/-! The statement on the queues' doorbells and CTRL registers. -/

namespace Sys2Proof.Proofs

open Sys2Proof.Machine Sys2Proof.Claims Sys2Proof.Laws

/-- Settles O49: each row's write runs one doorbell or CTRL function, which either changes its own queue or sets its error bit. -/
theorem queuesTakeDoorbellsAndControl : Obligations.QueuesTakeDoorbellsAndControl := by
  unfold Obligations.QueuesTakeDoorbellsAndControl
  intro s hs h
  refine ⟨fun q v cells => ?_, fun q v => ?_, fun v => ?_, fun q v => ?_⟩
  · have hx := exec_commandQueueDoorbell hs q v cells
    refine ⟨fun hsize hroom => ?_, fun hbad => ?_⟩
    · exact completes_of_next (next_congr hx (cmdDoorbell_fits ⟨hsize, hroom⟩))
        ⟨getQ_modQ_same _ q _, fun r hr => getQ_modQ_other _ q r _ hr, modQ_only _ _ _⟩
    · exact next_congr hx (cmdDoorbell_bad fun ⟨hsize, hroom⟩ => hbad.elim (Nat.not_le_of_gt hsize) (Nat.not_le_of_gt hroom))
  · have hx := exec_completionQueueDoorbell hs q v
    refine ⟨fun hok => ?_, fun hbad => ?_⟩
    · exact completes_of_next (next_congr hx (if_pos ((headOk_iff _ _ _ _).mpr hok)))
        ⟨getQ_modQ_same _ q _, fun r hr => getQ_modQ_other _ q r _ hr, modQ_only _ _ _⟩
    · exact next_congr hx (if_neg (mt (headOk_iff _ _ _ _).mp hbad))
  · have hx := exec_eventQueueDoorbell hs v
    refine ⟨fun hok => ?_, fun hbad => ?_⟩
    · exact next_congr hx (if_pos ((headOk_iff _ _ _ _).mpr hok))
    · exact next_congr hx (if_neg (mt (headOk_iff _ _ _ _).mp hbad))
  · have hcmd := exec_queueEnableWrite_cmd hs q v
    have hcpl := exec_queueEnableWrite_cpl hs q v
    have hev := exec_queueEnableWrite_ev hs v
    have hok := enOk_iff (dropHeld s)
    refine ⟨fun h => ?_, fun h => ?_, fun h => ?_, fun h => ?_, fun h => ?_, fun h => ?_⟩
    · refine completes_of_next (next_congr hcmd (cmdCtrl_ok ((hok _ _ _ _).mpr h))) ?_
      rw [getQ_modQ_same]
      exact ⟨rfl, toNat_ofNat_fld _ _ _, fun r hr => getQ_modQ_other _ q r _ hr, setCmdCtrl_indices_rise, setCmdCtrl_indices_kept⟩
    · exact next_congr hcmd (cmdCtrl_bad (mt (hok _ _ _ _).mp h))
    · refine completes_of_next (next_congr hcpl (cplCtrl_ok ((hok _ _ _ _).mpr h))) ?_
      rw [getQ_modQ_same]
      exact ⟨rfl, toNat_ofNat_fld _ _ _, fun r hr => getQ_modQ_other _ q r _ hr, toNat_ofNat_fld _ _ _, toNat_ofNat_fld _ _ _, setCplCtrl_indices_rise⟩
    · exact next_congr hcpl (cplCtrl_bad (mt (hok _ _ _ _).mp h))
    · obtain ⟨hen, hsize, hpairs, hrise⟩ := evCtrl_ok ((hok _ _ _ _).mpr h)
      exact completes_of_next hev ⟨hen, by rw [hsize]; exact toNat_ofNat_fld _ _ _, hpairs, hrise⟩
    · exact next_congr hev (evCtrl_bad (mt (hok _ _ _ _).mp h))

end Sys2Proof.Proofs
end

section
/-! SUPPORT. Translation (R372-R376): invalidations, the TLB of a die, and writes of MMU_RESUME. -/

namespace Sys2Proof.Laws

open Sys2Proof.Machine Sys2Proof.Claims

theorem invalidated_iff (m : Mmu) (page : Nat) : invalidated m page = true ↔
    m.invalPages = 0 ∨ (m.invalVa.toNat / 65536 ≤ page ∧ page < m.invalVa.toNat / 65536 + m.invalPages.toNat) := by
  simp [invalidated]

/-- The end of an invalidation keeps the TLB entries that it does not name. -/
theorem exec_mmuInvalidationDone {s : State} (hgo : s.mmu.invalGo = true) (ha : agentsOn s = true) :
    exec .mmuInvalidationDone s = .next { s with
      mmu.tlb := s.mmu.tlb.filter (fun e => !invalidated s.mmu e.2.1), mmu.invalGo := false } :=
  congrArg Host.Outcome.next (if_pos (by rw [hgo, ha]; rfl))

/-! The TLB of a die (R372). -/

theorem tlbFill_present {s : State} {die page : Nat} {e : DWord} (h : (tlbFind s die page).isSome = true) : tlbFill die page e s = s :=
  if_pos h

/-- A die with room in its TLB gains the entry behind the others. -/
theorem tlbFill_room {s : State} {die page : Nat} {e : DWord} (h : tlbFind s die page = none)
    (hr : (s.mmu.tlb.filter fun x => decide (x.1.toNat = die)).length < 2048) :
    tlbFill die page e s = { s with mmu.tlb := s.mmu.tlb ++ [(BitVec.ofNat 4 die, page, e)] } := by
  unfold tlbFill
  rw [h, if_neg (by simp)]
  exact if_pos hr

/-- An entry that the TLB did not hold is in it after the fill, whether it was full or not. -/
theorem mem_tlbFill {s : State} {die page : Nat} (e : DWord) (h : tlbFind s die page = none) :
    (BitVec.ofNat 4 die, page, e) ∈ (tlbFill die page e s).mmu.tlb := by
  unfold tlbFill
  rw [h, if_neg (by simp)]
  dsimp only
  split <;> exact List.mem_append_right _ (List.mem_singleton.mpr rfl)

/-- The kind that a walk reports for its access, with the page's entry: WRITE_PROTECT or none (R374). -/
def walkReport (die : BitVec 4) (va : BitVec 48) (write : Bool) (e : DWord) : Option (BitVec 4 × BitVec 48 × BitVec 3) :=
  match placeOf e va.toNat write with
  | .ok _ => none
  | .error k => some (die, va, BitVec.ofNat 3 k)

theorem walkReport_protected (die : BitVec 4) (va : BitVec 48) {write : Bool} {e : DWord} (hw : write = true) (he : e.getLsbD 1 = false) :
    walkReport die va write e = some (die, va, 1) := by
  have hp : placeOf e va.toNat write = .error 1 := if_pos (by rw [hw, he]; rfl)
  rw [walkReport, hp]
  rfl

theorem walkReport_none (die : BitVec 4) (va : BitVec 48) {write : Bool} {e : DWord} (h : write = false ∨ e.getLsbD 1 = true) :
    walkReport die va write e = none := by
  have hp : placeOf e va.toNat write = .ok (e.getLsbD 2, e.toNat / 2 ^ 16 * 2 ^ 16 + va.toNat % 2 ^ 16) :=
    if_neg (by rcases h with h | h <;> rw [h] <;> simp)
  rw [walkReport, hp]

section
variable {s : State} {die : BitVec 4} {va : BitVec 48} (ha : agentsOn s = true) (hhot : s.pwr.hot = false)
  (hva : inTranslated va.toNat = true) (hdie : die.toNat < 12)
include ha hhot hva hdie

theorem exec_mmuWalkComplete (write : Bool) : exec (.mmuWalkComplete die va write) s =
    match walk s va.toNat with
    | .ok e => .next { tlbFill die.toNat (va.toNat / 65536) e s with mmu.walkFault := walkReport die va write e }
    | .error k => .next { s with mmu.walkFault := some (die, va, BitVec.ofNat 3 k) } :=
  if_neg (by simp [ha, hhot, hva, hdie])

theorem exec_mmuWalkComplete_error (write : Bool) {k : Nat} (hw : walk s va.toNat = .error k) :
    exec (.mmuWalkComplete die va write) s = .next { s with mmu.walkFault := some (die, va, BitVec.ofNat 3 k) } := by
  rw [exec_mmuWalkComplete ha hhot hva hdie, hw]

theorem exec_mmuWalkComplete_ok (write : Bool) {e : DWord} (hw : walk s va.toNat = .ok e) : exec (.mmuWalkComplete die va write) s =
    .next { tlbFill die.toNat (va.toNat / 65536) e s with mmu.walkFault := walkReport die va write e } := by
  rw [exec_mmuWalkComplete ha hhot hva hdie, hw]

end

/-! Writes of MMU_RESUME (R376). -/

/-- Reserved bits set, or an ID without an outstanding entry. -/
theorem resumeWrite_bad {v : Word} {s : State} (h : fld v 10 6 ≠ 0 ∨ fld v 17 15 ≠ 0 ∨ tabGet s.mmu.faults (fld v 0 10) = none) :
    resumeWrite v s = { s with mmu.badResume := true } := by
  unfold resumeWrite
  split
  · rfl
  · next hr =>
    have hf : tabGet s.mmu.faults (fld v 0 10) = none := (h.resolve_left fun h1 => hr (.inl h1)).resolve_left fun h2 => hr (.inr h2)
    dsimp only
    rw [hf]

/-- The entry is freed, its waiters go on or halt, and what waited for an entry takes it. -/
theorem resumeWrite_entry {v : Word} {s : State} {e : FaultEntry} (h1 : fld v 10 6 = 0) (h2 : fld v 17 15 = 0)
    (he : tabGet s.mmu.faults (fld v 0 10) = some e) :
    resumeWrite v s = entriesTaken 1024 (e.waiters.foldl
      (fun s w => if bit v 16 then abortWaiter (fld v 0 10) e w s else resumeWaiter (fld v 0 10) w s)
      { s with mmu.faults := tabDel s.mmu.faults (fld v 0 10) }) := by
  have hr : ¬ (fld v 10 6 ≠ 0 ∨ fld v 17 15 ≠ 0) := by simp [h1, h2]
  simp only [resumeWrite, hr, he, if_false]

set_option maxRecDepth 2000 in  -- for this rfl Lean looks through the 1,024 places of the fault table
theorem entriesTaken_succ (f : Nat) (s : State) : entriesTaken (f + 1) s =
    match (if (freeFault s).isSome then waitsForEntry s else none) with
    | some w => entriesTaken f (takeEntry w.1 w.2 s)
    | none => s := rfl

theorem entriesTaken_none {s : State} (f : Nat) (h : waitsForEntry s = none) : entriesTaken f s = s := by
  cases f with
  | zero => rfl
  | succ f => rw [entriesTaken_succ, h, ite_self]

/-- R278: an engine operation other than the DMA's that the entry suspended is suspended no more. -/
theorem resumeWaiter_op {entry id : Nat} {c : BitVec 17} {o : Op} {s : State} (hid : id < 16) (hf : findOp (getCore s c.toNat) id = some o)
    (hu : o.unit ≠ 4) (hs : o.suspended = some entry) : resumeWaiter entry (c, id) s =
      modCore s c.toNat fun k => putOp k { o with suspended := none, undone := [], replay := [] } := by
  have hmine : (findOp (getCore s c.toNat) id).filter (fun o => decide (o.suspended = some entry)) = some o := by
    rw [hf, Option.filter_some, hs, decide_eq_true rfl, if_pos rfl]
  unfold resumeWaiter
  dsimp only
  rw [if_neg (by omega), hmine]
  dsimp only
  rw [if_neg hu, if_neg hu]

/-- MMU_APER_BASE is written whole, which clears its latch (R12). -/
theorem exec_mmuAperBaseWrite {s : State} (hs : writesOn s = true) (v : DWord) : exec (.mmuAperBaseWrite v) s =
    .next (aperBase v { dropHeld s with hub.latches := tabDel s.hub.latches 0xC028 }) :=
  hostWrite_next (fun s => aperBase v { s with hub.latches := tabDel s.hub.latches 0xC028 }) hs

section
variable {s : State} (hs : writesOn s = true) (v : Word)
include hs

theorem exec_mmuResume : exec (.mmuResume v) s = .next (resumeWrite v (dropHeld s)) := hostWrite_next _ hs
theorem exec_mmuAbort : exec (.mmuAbort v) s = .next (resumeWrite v (dropHeld s)) := hostWrite_next _ hs

end

end Sys2Proof.Laws
end

section
/-! The statement on invalidations, walks, and the resume or abort of what waits for a page. -/

namespace Sys2Proof.Proofs

open Sys2Proof.Machine Sys2Proof.Claims Sys2Proof.Laws

theorem mmuInvalidationDone_removes {s : State} (hgo : s.mmu.invalGo = true) (ha : agentsOn s = true) :
    Completes .mmuInvalidationDone s fun t => t.mmu.invalGo = false ∧ t = { s with mmu := t.mmu } ∧
      (∀ e ∈ s.mmu.tlb, e ∈ t.mmu.tlb ↔ ¬ (s.mmu.invalPages = 0 ∨
        (s.mmu.invalVa.toNat / 65536 ≤ e.2.1 ∧ e.2.1 < s.mmu.invalVa.toNat / 65536 + s.mmu.invalPages.toNat))) ∧
      ∀ e ∈ t.mmu.tlb, e ∈ s.mmu.tlb := by
  refine completes_of_next (exec_mmuInvalidationDone hgo ha) ⟨rfl, rfl, fun e he => ?_, fun e he => (List.mem_filter.mp he).1⟩
  rw [← invalidated_iff]
  simp [List.mem_filter, he]

/-- A write of MMU_RESUME that names an outstanding entry, by either of its two rows. -/
theorem resumeWrite_named {s : State} {v : Word} {e : FaultEntry} (hs : writesOn s = true) (h1 : fld v 10 6 = 0) (h2 : fld v 17 15 = 0)
    (he : tabGet s.mmu.faults (fld v 0 10) = some e) :
    let u : State := { s with hub.heldLow := none, mmu.faults := tabDel s.mmu.faults (fld v 0 10) }
    (bit v 16 = false → exec (.mmuResume v) s = .next (entriesTaken 1024 (e.waiters.foldl (fun s w => resumeWaiter (fld v 0 10) w s) u))) ∧
    (bit v 16 = true → exec (.mmuAbort v) s = .next (entriesTaken 1024 (e.waiters.foldl (fun s w => abortWaiter (fld v 0 10) e w s) u))) ∧
    (e.waiters = [] → waitsForEntry u = none → exec (.mmuResume v) s = .next u ∧ exec (.mmuAbort v) s = .next u) := by
  intro u
  have hx := resumeWrite_entry (s := dropHeld s) h1 h2 he
  refine ⟨fun hb => next_congr (exec_mmuResume hs v) ?_, fun hb => next_congr (exec_mmuAbort hs v) ?_, fun hw hn => ?_⟩
  · rw [hx]
    simp only [hb]
    rfl
  · rw [hx]
    simp only [hb]
    rfl
  · rw [hw] at hx
    have hu : resumeWrite v (dropHeld s) = u := hx.trans (entriesTaken_none _ hn)
    exact ⟨next_congr (exec_mmuResume hs v) hu, next_congr (exec_mmuAbort hs v) hu⟩

theorem mmuWalkComplete_fills {s : State} {die : BitVec 4} {va : BitVec 48} (write : Bool) {e : DWord} (ha : agentsOn s = true) (hhot : s.pwr.hot = false)
    (hva : inTranslated va.toNat = true) (hdie : die.toNat < 12) (hw : walk s va.toNat = .ok e) :
    Completes (.mmuWalkComplete die va write) s fun t =>
      (write = true → e.getLsbD 1 = false → t.mmu.walkFault = some (die, va, 1)) ∧ (write = false ∨ e.getLsbD 1 = true → t.mmu.walkFault = none) ∧
      ((tlbFind s die.toNat (va.toNat / 65536)).isSome = true → t.mmu.tlb = s.mmu.tlb) ∧
      (tlbFind s die.toNat (va.toNat / 65536) = none → (die, va.toNat / 65536, e) ∈ t.mmu.tlb ∧
        ((s.mmu.tlb.filter fun x => decide (x.1.toNat = die.toNat)).length < 2048 → t.mmu.tlb = s.mmu.tlb ++ [(die, va.toNat / 65536, e)])) := by
  have hd : BitVec.ofNat 4 die.toNat = die := (BitVec.ofNat_toNat 4 die).trans (BitVec.setWidth_eq die)
  refine completes_of_next (exec_mmuWalkComplete_ok ha hhot hva hdie write hw)
    ⟨walkReport_protected die va, walkReport_none die va, fun hp => ?_, fun hn => ⟨?_, fun hr => ?_⟩⟩
  · rw [tlbFill_present hp]
  · simpa only [hd] using mem_tlbFill e hn
  · rw [tlbFill_room hn hr, hd]

/-- Settles O52: the writes run `resumeWrite` and `invalCtrl`, and a walk ends in `tlbFill`. -/
theorem translationIsInvalidatedAndResumed : Obligations.TranslationIsInvalidatedAndResumed := by
  unfold Obligations.TranslationIsInvalidatedAndResumed
  intro s h
  refine ⟨fun v hs => hostWrite_next _ hs, mmuInvalidationDone_removes, fun v hs => ⟨fun hbad => ?_, fun h1 h2 e he => ?_⟩,
    fun v hs => exec_mmuAperBaseWrite hs v, fun die va write ha hhot hva hdie => ?_⟩
  · have hx := resumeWrite_bad (s := dropHeld s) hbad
    exact ⟨next_congr (exec_mmuResume hs v) hx, next_congr (exec_mmuAbort hs v) hx⟩
  · obtain ⟨hresume, habort, hnone⟩ := resumeWrite_named hs h1 h2 he
    refine ⟨hresume, habort, hnone, fun c id o hb hw hid hf hu hsus hn => ?_⟩
    refine next_congr (hresume hb) ?_
    have hgoes := resumeWaiter_op (s := { s with hub.heldLow := none, mmu.faults := tabDel s.mmu.faults (fld v 0 10) }) hid hf hu hsus
    rw [hw, List.foldl_cons, List.foldl_nil, hgoes]
    exact entriesTaken_none _ hn
  · exact ⟨fun kind hw => exec_mmuWalkComplete_error ha hhot hva hdie write hw,
      fun e hw => mmuWalkComplete_fills write ha hhot hva hdie hw⟩

end Sys2Proof.Proofs
end

section
/-! SUPPORT. What raising an event leaves alone (R443-R455): one that names no core, of a class below GROUP, changes the error
queue and the Bay writer's buffer only. -/

namespace Sys2Proof.Laws

open Sys2Proof.Machine

/-- Only the error queue and the Bay writer differ. -/
def OnlyEvents (s t : State) : Prop := ∃ e b, t = { s with evt := e, bay := b }

theorem OnlyEvents.refl (s : State) : OnlyEvents s s := ⟨s.evt, s.bay, rfl⟩

theorem OnlyEvents.trans {s t u : State} (h : OnlyEvents s t) (h' : OnlyEvents t u) : OnlyEvents s u := by
  obtain ⟨e, b, rfl⟩ := h
  obtain ⟨e', b', rfl⟩ := h'
  exact ⟨e', b', rfl⟩

/-- A change of the error queue alone. -/
theorem OnlyEvents.of_evt (s : State) (e : Evt) : OnlyEvents s { s with evt := e } := ⟨e, s.bay, rfl⟩

theorem OnlyEvents.ite {s t u : State} {p : Prop} [Decidable p] (ht : OnlyEvents s t) (hu : OnlyEvents s u) :
    OnlyEvents s (if p then t else u) := by
  split
  · exact ht
  · exact hu

/-- A record of no core makes no core count its wait. -/
theorem toBay_onlyEvents {r : Record} (s : State) (h : r.core = noCore) : OnlyEvents s (toBay r s) := by
  unfold toBay
  rw [if_pos h]
  exact .ite ⟨_, _, rfl⟩ (.ite ⟨_, _, rfl⟩ (.ite ⟨_, _, rfl⟩ ⟨_, _, rfl⟩))

theorem enqueue_onlyEvents (r : Record) (s : State) : OnlyEvents s (enqueue r s) := by
  unfold enqueue
  split
  · exact .of_evt _ _
  · exact .ite (.of_evt _ _) (.of_evt _ _)

/-- A new record reaches the Bay writer with the next SEQ. -/
theorem newRecord_onlyEvents (code cls : Nat) (injected summary : Bool) (stream : Half) (detail : List Word) (s : State) :
    OnlyEvents s (toBay (newRecord code cls injected summary stream noCore detail s).1
      (newRecord code cls injected summary stream noCore detail s).2) :=
  .trans (.of_evt s _) (toBay_onlyEvents _ rfl)

theorem loseRecord_onlyEvents (s : State) : OnlyEvents s (loseRecord s) := by
  unfold loseRecord
  dsimp only
  split
  · exact .of_evt _ _
  · exact .trans (.trans (.trans (.of_evt s _) (.of_evt _ _)) (toBay_onlyEvents _ rfl)) (enqueue_onlyEvents _ _)

theorem arrive_onlyEvents (r : Record) (s : State) : OnlyEvents s (arrive r s) := by
  unfold arrive
  refine .ite (enqueue_onlyEvents r s) (.ite ?_ (loseRecord_onlyEvents s))
  split
  · exact loseRecord_onlyEvents s
  · exact .trans (.trans (.of_evt s _) (loseRecord_onlyEvents _)) (enqueue_onlyEvents r _)

theorem raiseSummary_onlyEvents (s : State) (e : Half × BitVec 3 × Word × DWord × DWord) : OnlyEvents s (raiseSummary s e) :=
  .trans (newRecord_onlyEvents _ _ _ _ _ _ s) (arrive_onlyEvents _ _)

theorem raiseSummaries_onlyEvents (s : State) : OnlyEvents s (raiseSummaries s) := by
  have hfold : ∀ (l : List (Half × BitVec 3 × Word × DWord × DWord)) (u : State), OnlyEvents u (l.foldl raiseSummary u) := by
    intro l
    induction l with
    | nil => exact OnlyEvents.refl
    | cons e r ih => exact fun u => (raiseSummary_onlyEvents u e).trans (ih _)
  exact .trans (.of_evt s _) (hfold _ _)

theorem windowCounts_onlyEvents (s : State) : OnlyEvents s (windowCounts s) :=
  .ite (.refl s) (.trans (raiseSummaries_onlyEvents s) (.of_evt _ _))

/-- R445, R455: an event of class INFO to STREAM that names no core. -/
theorem raiseAs_onlyEvents {code cls : Nat} (injected atOnce : Bool) (stream : Half) (detail : List Word) (s : State) (hc : cls < 4) :
    OnlyEvents s (raiseAs code cls injected atOnce stream noCore detail s) := by
  unfold raiseAs
  refine (windowCounts_onlyEvents s).trans (.ite ⟨_, _, rfl⟩ ?_)
  dsimp only
  rw [if_neg (show cls ≠ 4 by omega), if_neg (show cls ≠ 5 by omega)]
  refine .trans ?_ ((newRecord_onlyEvents _ _ _ _ _ _ _).trans (arrive_onlyEvents _ _))
  exact .ite (.of_evt _ _) (.ite (.of_evt _ _) (.refl _))

/-- R443: CFG_REJECT is of class INFO. -/
theorem cfgReject_only (cause off : Nat) (stream : Half) (s : State) :
    OnlyEvents { s with cfg.reject := BitVec.ofNat 8 cause } (cfgReject cause off stream s) :=
  raiseAs_onlyEvents _ _ _ _ _ (by decide)

@[simp] theorem cfgReject_reject (cause off : Nat) (stream : Half) (s : State) :
    (cfgReject cause off stream s).cfg.reject = BitVec.ofNat 8 cause := by
  obtain ⟨e, b, h⟩ := cfgReject_only cause off stream s
  rw [h]

@[simp] theorem cfgReject_streams (cause off : Nat) (stream : Half) (s : State) : (cfgReject cause off stream s).streams = s.streams := by
  obtain ⟨e, b, h⟩ := cfgReject_only cause off stream s
  rw [h]

@[simp] theorem cfgReject_thm (cause off : Nat) (stream : Half) (s : State) : (cfgReject cause off stream s).thm = s.thm := by
  obtain ⟨e, b, h⟩ := cfgReject_only cause off stream s
  rw [h]

end Sys2Proof.Laws
end

section
/-! SUPPORT. Accesses of BAR0 by address (R12, R451): what an access of each size and alignment does, said once. -/

namespace Sys2Proof.Laws

open Sys2Proof.Machine

/-! Which accesses reach the device. -/

theorem barWrite_next (off size : Nat) (v : DWord) {s : State} (hs : writesOn s = true) :
    barWrite off size v s = .next (busWrite off size v s) := by
  obtain ⟨hh, hb⟩ := (writesOn_iff s).mp hs
  simp [barWrite, hh, hb]

/-- Without a host nothing comes in (log entry 2). -/
theorem barWrite_hostless (off size : Nat) (v : DWord) {s : State} (hh : hostOn s = false) : barWrite off size v s = .next s := by
  simp [barWrite, hh]

/-- R451: in safe halt a write of anything but BBX_READ_INDEX is discarded. -/
theorem barWrite_halted {off size : Nat} (v : DWord) {s : State} (hb : s.hub.halted = true)
    (hw : ¬ (off = 0xA014 ∧ size = 4)) (hd : ¬ (off = 0xA010 ∧ size = 8)) : barWrite off size v s = .next s := by
  simp [barWrite, hb, hw, hd]

/-! Writes. -/

/-- The low word that a write of a high word goes with: the one held for it, or the register's own. -/
def lowWord (held : Option (Nat × Word)) (off : Nat) (s : State) : Word :=
  match held with
  | some (p, w) => if p = off then w else regWord s off
  | none => regWord s off

section
variable {off : Nat} (held : Option (Nat × Word)) (w : Word) (s : State)

theorem write32_low (hr : isReg64 off = true) : write32 held off w s = { dropLatch off s with hub.heldLow := some (off, w) } := by
  have ht : target32 held off w s = (none, { dropLatch off s with hub.heldLow := some (off, w) }) := if_pos hr
  rw [write32, ht]

theorem write32_high (hr : isReg64 off = false) (h4 : 4 ≤ off) (hlow : isReg64 (off - 4) = true) :
    write32 held off w s = writeReg (off - 4) (w ++ lowWord held (off - 4) s) (dropLatch (off - 4) s) := by
  have ht : target32 held off w s = (some (off - 4, w ++ lowWord held (off - 4) s), dropLatch (off - 4) s) :=
    (if_neg (by simp [hr])).trans (if_pos (by simp [h4, hlow]))
  rw [write32, ht]

theorem write32_word (hr : isReg64 off = false) (hlow : 4 ≤ off → isReg64 (off - 4) = false) :
    write32 held off w s = writeReg off (w.zeroExtend 64) s := by
  have ht : target32 held off w s = (some (off, w.zeroExtend 64), s) := (if_neg (by simp [hr])).trans (if_neg (by simpa using hlow))
  rw [write32, ht]

end

section
variable {off : Nat} (v : DWord) (s : State)

theorem busWrite_four (ha : off % 4 = 0) : busWrite off 4 v s = write32 s.hub.heldLow off (v.truncate 32) (dropHeld s) :=
  if_pos ⟨rfl, ha⟩

/-- 64 bits change their register at once. -/
theorem busWrite_whole (ha : off % 8 = 0) (hr : isReg64 off = true) :
    busWrite off 8 v s = writeReg off v (dropLatch off (dropHeld s)) := by
  unfold busWrite
  dsimp only
  rw [if_neg (by omega), if_pos ⟨rfl, ha⟩, if_pos hr]

/-- A write of any other size or alignment changes no register. -/
theorem busWrite_other {size : Nat} (h4 : ¬ (size = 4 ∧ off % 4 = 0)) (h8 : ¬ (size = 8 ∧ off % 8 = 0)) : busWrite off size v s = dropHeld s := by
  unfold busWrite
  dsimp only
  rw [if_neg h4, if_neg h8]

end

/-! Reads. -/

/-- The state that shows the data of a read. -/
def shown (d : List Byte) (s : State) : State := { s with hub.busData := d, hub.busPoison := false }

@[simp] theorem shown_shown (d e : List Byte) (s : State) : shown d (shown e s) = shown d s := rfl

theorem shown_append (d e : List Byte) (s t : State) :
    shown (d ++ e) t = { shown e t with hub.busData := (shown d s).hub.busData ++ (shown e t).hub.busData } := rfl

/-- No register shows the data of the last read. -/
theorem regWord_shown (d : List Byte) (s : State) (off : Nat) : regWord (shown d s) off = regWord s off := rfl

section
variable {off : Nat} (s : State)

/-- A read of a low word latches the high word. -/
theorem read32_low (hr : isReg64 off = true) :
    read32 off s = (regWord s off, { s with hub.latches := tabPut s.hub.latches off (regWord s (off + 4)) }) :=
  if_pos hr

/-- The next read of the high word returns what was latched, and clears it. -/
theorem read32_latched {w : Word} (hr : isReg64 off = false) (h4 : 4 ≤ off) (hlow : isReg64 (off - 4) = true)
    (hw : tabGet s.hub.latches (off - 4) = some w) : read32 off s = (w, dropLatch (off - 4) s) := by
  unfold read32
  rw [if_neg (by simp [hr]), if_pos (by simp [h4, hlow]), hw]

/-- Any other word is read as it stands. -/
theorem read32_word (hr : isReg64 off = false)
    (hn : ∀ w, 4 ≤ off → isReg64 (off - 4) = true → tabGet s.hub.latches (off - 4) ≠ some w) : read32 off s = (regWord s off, s) := by
  have hl : (if 4 ≤ off && isReg64 (off - 4) then tabGet s.hub.latches (off - 4) else none) = none := by
    split
    · next h =>
      rw [Bool.and_eq_true, decide_eq_true_eq] at h
      exact Option.eq_none_iff_forall_ne_some.mpr fun w => hn w h.1 h.2
    · rfl
  unfold read32
  rw [if_neg (by simp [hr]), hl]

/-- What a read shows on the bus does not bear on the next one. -/
theorem read32_shown (d : List Byte) : read32 off (shown d s) = ((read32 off s).1, shown d (read32 off s).2) := by
  unfold read32
  split
  · rfl
  · rw [regWord_shown]
    dsimp only [shown]
    split <;> rfl

theorem busRead_four (ha : off % 4 = 0) : busRead off 4 s = (leBytes 4 (read32 off s).1.toNat, (read32 off s).2) :=
  if_pos ⟨rfl, ha⟩

theorem busRead_whole (ha : off % 8 = 0) (hr : isReg64 off = true) :
    busRead off 8 s = (leBytes 4 (regWord s off).toNat ++ leBytes 4 (regWord s (off + 4)).toNat, dropLatch off s) := by
  rw [busRead, if_neg (by omega), if_pos ⟨rfl, ha⟩, if_pos hr]

theorem busRead_two (ha : off % 8 = 0) (hr : isReg64 off = false) : busRead off 8 s =
    (leBytes 4 (read32 off s).1.toNat ++ leBytes 4 (read32 (off + 4) (read32 off s).2).1.toNat, (read32 (off + 4) (read32 off s).2).2) := by
  rw [busRead, if_neg (by omega), if_pos ⟨rfl, ha⟩, if_neg (by simp [hr])]

theorem busRead_other {size : Nat} (h4 : ¬ (size = 4 ∧ off % 4 = 0)) (h8 : ¬ (size = 8 ∧ off % 8 = 0)) :
    busRead off size s = (List.replicate size 0, s) := by
  rw [busRead, if_neg h4, if_neg h8]

theorem hostOn_read32 : hostOn (read32 off s).2 = hostOn s := by
  unfold read32
  split
  · rfl
  · split <;> rfl

end

theorem exec_read (off : BitVec 25) (size : Nat) {s : State} (hh : hostOn s = true) : exec (.reg64LowWordRead ⟨false, off, size⟩) s =
    .next (shown (busRead off.toNat size s).1 (busRead off.toNat size s).2) :=
  congrArg Host.Outcome.next (if_pos hh)

theorem exec_read_config (off : BitVec 25) (size : Nat) {s : State} (hh : hostOn s = true) : exec (.reg64LowWordRead ⟨true, off, size⟩) s =
    .next (shown (configRead s off.toNat size) s) :=
  congrArg Host.Outcome.next (if_pos hh)

theorem exec_read_hostless (r : HostRead) {s : State} (hh : hostOn s = false) : exec (.reg64LowWordRead r) s = .next s :=
  congrArg Host.Outcome.next (if_neg (by simp [hh]))

/-! The registers of a block, by their offset in it (Table 12.3). -/

theorem isReg64_thm {a : Nat} (ha : a < 0x1000) : isReg64 (0x5000 + a) = decide (a = 0x48) := by
  have hb : (0x5000 + a) / 0x1000 = 5 := by omega
  have ho : (0x5000 + a) % 0x1000 = a := by omega
  simp only [isReg64, hb, ho]

theorem writeReg_thm {a : Nat} (ha : a < 0x1000) (v : DWord) (s : State) : writeReg (0x5000 + a) v s = thmRegister a v s := by
  have hb : (0x5000 + a) / 0x1000 = 5 := by omega
  have ho : (0x5000 + a) % 0x1000 = a := by omega
  simp only [writeReg, hb, ho]

theorem writeReg_que {a : Nat} (ha : a < 0x1000) (v : DWord) (s : State) : writeReg (0x1000 + a) v s = queWrite a v s := by
  have hb : (0x1000 + a) / 0x1000 = 1 := by omega
  have ho : (0x1000 + a) % 0x1000 = a := by omega
  simp only [writeReg, hb, ho]

theorem writeReg_mmu {a : Nat} (ha : a < 0x1000) (v : DWord) (s : State) : writeReg (0xC000 + a) v s = mmuWrite a v s := by
  have hb : (0xC000 + a) / 0x1000 = 0xC := by omega
  simp [writeReg, hb]

section
variable {n off : Nat} (hn : n < 0x1000) (ho : off < 0x100)
include hn ho

theorem isReg64_ste : isReg64 (steBase n + off) = decide (off ∈ [0x18, 0x20, 0x28, 0x30, 0x38, 0x40, 0x50]) := by
  unfold isReg64 steBase
  have hm : (0x100000 + 0x100 * n + off) % 0x100 = off := by omega
  have hlow : 0x100000 ≤ 0x100000 + 0x100 * n + off := by omega
  have hhigh : 0x100000 + 0x100 * n + off < 0x200000 := by omega
  dsimp only
  split
  case h_12 => simp only [hm, hlow, hhigh, decide_true, Bool.true_and]
  all_goals omega

theorem writeReg_ste (v : DWord) (s : State) : writeReg (steBase n + off) v s = steWrite n off v s := by
  unfold writeReg steBase
  have hq : (0x100000 + 0x100 * n + off - 0x100000) / 0x100 = n := by omega
  have hm : (0x100000 + 0x100 * n + off) % 0x100 = off := by omega
  dsimp only
  split
  case h_9 => rw [if_neg (by omega), if_neg (by omega), if_pos (by omega), hq, hm]
  all_goals omega

end

end Sys2Proof.Laws
end

section
/-! SUPPORT. Registers that a write gives a value: THM_ (Table 9.8), SEC_DEBUG_CTRL (R482), CLEAR_LEVELS (R469), and the configuration
header (R381). -/

namespace Sys2Proof.Laws

open Sys2Proof.Machine Sys2Proof.Claims

/-! THM_. -/

/-- A field as the register of its size holds it. -/
theorem ofNat_fld (w : Word) (lo n : Nat) : BitVec.ofNat n (fld w lo n) = w.extractLsb' lo n := by
  apply BitVec.eq_of_toNat_eq
  rw [toNat_ofNat_fld, BitVec.extractLsb'_toNat, fld]

/-- A word keeps its value in the low half of a 64-bit one. -/
@[simp] theorem truncate_zeroExtend_word (w : Word) : (w.zeroExtend 64).truncate 32 = w := by
  rw [BitVec.truncate_eq_setWidth, BitVec.zeroExtend_eq_setWidth, BitVec.setWidth_setWidth_of_le _ (by decide), BitVec.setWidth_eq]

/-- Where a THM_ value is taken, RATIO and what a release at the same device time takes stand as before. -/
def KeepsRatio (t : Thm) (o : Option Thm) : Prop :=
  ∀ t', o = some t' → t'.ratio = t.ratio ∧ t'.ratioOld = t.ratioOld ∧ t'.ratioAt = t.ratioAt

theorem KeepsRatio.ite {t : Thm} {a b : Option Thm} {p : Prop} [Decidable p] (ha : KeepsRatio t a) (hb : KeepsRatio t b) :
    KeepsRatio t (if p then a else b) := by
  split
  · exact ha
  · exact hb

theorem KeepsRatio.none (t : Thm) : KeepsRatio t none := fun _ h => nomatch h

theorem KeepsRatio.some {t u : Thm} (h : u.ratio = t.ratio ∧ u.ratioOld = t.ratioOld ∧ u.ratioAt = t.ratioAt) : KeepsRatio t (some u) := by
  rintro _ ⟨⟩
  exact h

/-- A field of a register whose value is taken within its range. -/
theorem KeepsRatio.range {t u : Thm} {p : Prop} [Decidable p] (h : u.ratio = t.ratio ∧ u.ratioOld = t.ratioOld ∧ u.ratioAt = t.ratioAt) :
    KeepsRatio t (if p then Option.some u else Option.none) := .ite (.some h) (.none t)

/-- Only a write of THM_SAT_THRESH touches RATIO. -/
theorem thmPut_keeps_ratio (off : Nat) (v : Word) (t : Thm) (ho : off ≠ 0x0C) : KeepsRatio t (thmPut off v t) := by
  have kept : t.ratio = t.ratio ∧ t.ratioOld = t.ratioOld ∧ t.ratioAt = t.ratioAt := ⟨rfl, rfl, rfl⟩
  unfold thmPut
  dsimp only
  rw [if_neg ho]
  exact .ite (.some kept) <| .ite (.range kept) <| .ite (.range kept) <| .ite (.ite (.range kept) (.none t)) <| .ite (.range kept) <|
    .ite (.range kept) <| .ite (.range kept) <| .ite (.ite (.range kept) (.none t)) (.some kept)

theorem thmWrite_bad {off : Nat} {v : Word} {s : State} (h : thmPut off v s.thm = none) :
    thmWrite off v s = cfgReject 0x0E (0x5000 + off) noStream s := by
  rw [thmWrite, h]

theorem thmWrite_taken {off : Nat} {v : Word} {s : State} {t : Thm} (h : thmPut off v s.thm = some t) (ho : off ≠ 0x0C) :
    thmWrite off v s = { s with thm := t } := by
  rw [thmWrite, h]
  exact if_neg ho

theorem thmWrite_ratio {v : Word} {s : State} {t : Thm} (h : thmPut 0x0C v s.thm = some t) :
    thmWrite 0x0C v s = { s with thm := { t with ratioOld := ratioNow s, ratioAt := some s.clk.time }, cfg.satMark := some s.thm.releases } := by
  rw [thmWrite, h]
  rfl

section
variable {s : State} (hs : writesOn s = true) (v : DWord)
include hs

theorem exec_thmRegisterWrite_word {a : BitVec 12} (ha : a.toNat % 4 = 0) (hlt : a.toNat < 0x30) :
    exec (.thmRegisterWrite a v false) s = .next (thmWrite a.toNat (v.truncate 32) (dropHeld s)) := by
  have hr : isReg64 (0x5000 + a.toNat) = false := by
    rw [isReg64_thm a.isLt]
    exact decide_eq_false (by omega)
  have hlow : 4 ≤ 0x5000 + a.toNat → isReg64 (0x5000 + a.toNat - 4) = false := by
    intro _
    by_cases h0 : a.toNat = 0
    · rw [h0]
      rfl
    · rw [Nat.add_sub_assoc (by omega), isReg64_thm (by omega)]
      exact decide_eq_false (by omega)
  refine (barWrite_next _ 4 v hs).trans (congrArg _ ?_)
  rw [busWrite_four v s (by omega), write32_word _ _ _ hr hlow, writeReg_thm a.isLt, thmRegister, if_neg (by omega), if_pos hlt, truncate_zeroExtend_word]

theorem exec_thmRegisterWrite_telem : exec (.thmRegisterWrite 0x48 v true) s = .next (telemWrite v (dropLatch 0x5048 (dropHeld s))) :=
  (barWrite_next _ 8 v hs).trans (congrArg _ (busWrite_whole v s rfl rfl))

/-- What a write in range gives THM_, and that RATIO as a release now takes it is as before (R342). -/
theorem thmRegisterWrite_taken {a : BitVec 12} (ha : a.toNat % 4 = 0) (hlt : a.toNat < 0x30) {t : Thm}
    (ht : thmPut a.toNat (v.truncate 32) s.thm = some t) : Completes (.thmRegisterWrite a v false) s fun w =>
      w.thm = { t with ratioOld := w.thm.ratioOld, ratioAt := w.thm.ratioAt } ∧ ratioNow w = ratioNow s ∧
      (a ≠ 0x0C → w = { s with hub.heldLow := none, thm := t }) ∧ (a = 0x0C → w.thm.ratio = BitVec.extractLsb' 0 16 (v.truncate 32 : Word)) ∧
      w.streams = s.streams ∧ w.cores = s.cores := by
  have hx := exec_thmRegisterWrite_word hs v ha hlt
  by_cases ho : a = 0x0C
  · subst ho
    refine completes_of_next (next_congr hx (thmWrite_ratio ht)) ⟨rfl, if_pos rfl, fun h => absurd rfl h, fun _ => ?_, rfl, rfl⟩
    cases ht
    exact ofNat_fld _ 0 16
  · have hn : a.toNat ≠ 0x0C := fun h => ho (BitVec.eq_of_toNat_eq h)
    obtain ⟨hratio, hold, hat⟩ := thmPut_keeps_ratio _ _ _ hn _ ht
    refine completes_of_next (next_congr hx (thmWrite_taken ht hn)) ⟨rfl, ?_, fun _ => rfl, fun h => absurd h ho, rfl, rfl⟩
    show (if t.ratioAt = some s.clk.time then t.ratioOld else t.ratio) = _
    rw [hratio, hold, hat]
    rfl

end

/-! SEC_DEBUG_CTRL. -/

theorem length_leBytes (n v : Nat) : (leBytes n v).length = n := by
  induction n generalizing v with
  | zero => rfl
  | succ n ih => rw [leBytes, List.length_cons, ih]

/-- R482: a challenge is 32 bytes of unstated value, the serial number, SCOPE and the start count. -/
theorem newChallenge_challenge (scope : Nat) (s : State) :
    (newChallenge scope s).sec.challenge.length = 48 ∧
    (newChallenge scope s).sec.challenge.drop 32 = leBytes 8 s.fixed.serial.toNat ++ leBytes 4 scope ++ leBytes 4 s.boot.startCount.toNat := by
  have hl := length_leBytes 32 (draw s).1
  constructor
  · simp only [newChallenge, drawBytes, List.length_append, length_leBytes]
  · simp only [newChallenge, drawBytes, List.append_assoc]
    rw [List.drop_left' hl]

/-- A write of SEC_DEBUG_CTRL takes SCOPE, makes a challenge with REQUEST and ends debug with LOCK. -/
theorem debugCtrl_effect (v : Word) (s : State) : (debugCtrl v s).sec.dbgScope.toNat = fld v 0 4 ∧ (debugCtrl v s).sec.slots = s.sec.slots ∧
    (debugCtrl v s).cores = s.cores ∧ (debugCtrl v s).streams = s.streams ∧
    (bit v 4 = true → (debugCtrl v s).sec.challengeOut = true ∧ (debugCtrl v s).sec.challengeAt = s.clk.time ∧
      (debugCtrl v s).sec.challenge.length = 48 ∧ (debugCtrl v s).sec.challenge.drop 32 =
        leBytes 8 s.fixed.serial.toNat ++ leBytes 4 (fld v 0 4) ++ leBytes 4 s.boot.startCount.toNat) ∧
    (bit v 4 = false → (debugCtrl v s).sec.challengeOut = s.sec.challengeOut ∧ (debugCtrl v s).sec.challenge = s.sec.challenge) ∧
    (bit v 5 = true → (debugCtrl v s).sec.scope = 0 ∧ (debugCtrl v s).sec.unlockRecord = []) ∧
    (bit v 5 = false → (debugCtrl v s).sec.scope = s.sec.scope ∧ (debugCtrl v s).sec.unlockRecord = s.sec.unlockRecord) := by
  have hch := newChallenge_challenge (fld v 0 4) { s with sec.dbgScope := BitVec.ofNat 4 (fld v 0 4) }
  have hscope := toNat_ofNat_fld v 0 4
  unfold debugCtrl
  dsimp only
  cases hreq : bit v 4 <;> cases hlock : bit v 5 <;> simp_all [endDebug, newChallenge, drawBytes, draw]

/-! CLEAR_LEVELS. -/

/-- Records that the device notes for itself change the journal alone. -/
theorem journalNote_only (recs : List JRec) (s : State) : ∃ j, journalNote recs s = { s with jnl := j } := by
  unfold journalNote journalPut
  dsimp only
  split
  · exact ⟨s.jnl, rfl⟩
  · split
    · exact ⟨s.jnl, rfl⟩
    · exact ⟨_, rfl⟩

theorem exec_clearLevels {s : State} (hs : writesOn s = true) :
    Completes .clearLevels s fun w => w.boot.clearLevels = true ∧ w.boot.log = s.boot.log ∧ w.streams = s.streams := by
  obtain ⟨j, hj⟩ := journalNote_only [jrec jSetting clearKey [1]] { dropHeld s with boot.clearLevels := true }
  exact completes_of_next ((hostWrite_next _ hs).trans (congrArg _ hj)) ⟨rfl, rfl, rfl⟩

/-! The configuration header. -/

theorem configRead_word (s : State) {off : Nat} (ho : off % 4 = 0) : configRead s off 4 = leBytes 4 (configWord s off).toNat := by
  have h0 : off / 4 * 4 = off := by omega
  have h1 : (off + 1) / 4 * 4 = off ∧ (off + 1) % 4 = 1 := by omega
  have h2 : (off + 2) / 4 * 4 = off ∧ (off + 2) % 4 = 2 := by omega
  have h3 : (off + 3) / 4 * 4 = off ∧ (off + 3) % 4 = 3 := by omega
  simp [configRead, List.range_succ, leBytes, h0, h1, h2, h3, ho]

theorem leBytes_append (m n v : Nat) : leBytes (m + n) v = leBytes m v ++ leBytes n (v / 256 ^ m) := by
  induction m generalizing v with
  | zero => simp [leBytes]
  | succ m ih =>
    rw [Nat.succ_add_eq_add_succ, Nat.add_succ, leBytes, ih, leBytes, Nat.div_div_eq_div_mul, Nat.pow_succ', List.cons_append]

theorem leBytes_mod (n v : Nat) : leBytes n (v % 256 ^ n) = leBytes n v := by
  induction n generalizing v with
  | zero => rfl
  | succ n ih =>
    have hd : v % 256 ^ (n + 1) / 256 = v / 256 % 256 ^ n := by
      rw [Nat.pow_succ', Nat.mod_mul_right_div_self]
    have hm : BitVec.ofNat 8 (v % 256 ^ (n + 1)) = BitVec.ofNat 8 v := by
      apply BitVec.eq_of_toNat_eq
      rw [BitVec.toNat_ofNat, BitVec.toNat_ofNat, Nat.pow_succ', Nat.mod_mul_right_mod]
    rw [leBytes, leBytes, hm, hd, ih]

/-- A number of m bytes below another one stands in its own bytes. -/
theorem leBytes_fields {m n a b : Nat} (ha : a < 256 ^ m) : leBytes (m + n) (a + 256 ^ m * b) = leBytes m a ++ leBytes n b := by
  have hpos : 0 < 256 ^ m := Nat.pow_pos (by decide)
  rw [leBytes_append, Nat.add_mul_div_left _ _ hpos, Nat.div_eq_of_lt ha, Nat.zero_add, ← leBytes_mod m (a + _), Nat.add_mul_mod_self_left,
    leBytes_mod]

theorem configRead_vendor (s : State) : configRead s 0 4 = leBytes 2 s.fixed.vendor.toNat ++ [0x40, 0x0F] := by
  have hv : s.fixed.vendor.toNat < 256 ^ 2 := s.fixed.vendor.isLt
  have hw : (configWord s 0).toNat = (s.fixed.vendor.toNat + 256 ^ 2 * 0x0F40) % 256 ^ 4 := BitVec.toNat_ofNat _ _
  rw [configRead_word s rfl, hw, leBytes_mod 4]
  exact leBytes_fields (n := 2) hv

theorem configRead_class (s : State) : configRead s 8 4 = leBytes 1 s.fixed.stepping.toNat ++ [0x00, 0x00, 0x12] := by
  have hv : s.fixed.stepping.toNat < 256 ^ 1 := s.fixed.stepping.isLt
  have hw : (configWord s 8).toNat = (s.fixed.stepping.toNat + 256 ^ 1 * 0x120000) % 256 ^ 4 := BitVec.toNat_ofNat _ _
  rw [configRead_word s rfl, hw, leBytes_mod 4]
  exact leBytes_fields (n := 3) hv

end Sys2Proof.Laws
end

section
/-! The statement on accesses of BAR0 and the registers that take values. -/

namespace Sys2Proof.Proofs

open Sys2Proof.Machine Sys2Proof.Claims Sys2Proof.Laws

/-! Reads (R12). -/

section
variable {s : State} {off : BitVec 25} (hh : hostOn s = true)
include hh

/-- A read of 32 bits answers the word that its kind of offset gives, and leaves the latches that go with it. -/
theorem read_four (ha : off.toNat % 4 = 0) (w : Word) (c : Table Word)
    (hlow : isReg64 off.toNat = true → w = regWord s off.toNat ∧ c = tabPut s.hub.latches off.toNat (regWord s (off.toNat + 4)))
    (hhigh : isReg64 off.toNat = false → 4 ≤ off.toNat → isReg64 (off.toNat - 4) = true →
      ∀ x, tabGet s.hub.latches (off.toNat - 4) = some x → w = x ∧ c = tabDel s.hub.latches (off.toNat - 4))
    (hword : isReg64 off.toNat = false → (∀ x, 4 ≤ off.toNat → isReg64 (off.toNat - 4) = true → tabGet s.hub.latches (off.toNat - 4) ≠ some x) →
      w = regWord s off.toNat ∧ c = s.hub.latches) :
    exec (.reg64LowWordRead ⟨false, off, 4⟩) s =
      .next { s with hub.latches := c, hub.busData := leBytes 4 w.toNat, hub.busPoison := false } := by
  rw [exec_read off 4 hh, busRead_four s ha]
  cases hr : isReg64 off.toNat with
  | true =>
    obtain ⟨rfl, rfl⟩ := hlow hr
    rw [read32_low s hr]
    rfl
  | false =>
    by_cases hl : ∃ x, 4 ≤ off.toNat ∧ isReg64 (off.toNat - 4) = true ∧ tabGet s.hub.latches (off.toNat - 4) = some x
    · obtain ⟨x, h4, hreg, hx⟩ := hl
      obtain ⟨rfl, rfl⟩ := hhigh hr h4 hreg x hx
      rw [read32_latched s hr h4 hreg hx]
      rfl
    · have hn : ∀ x, 4 ≤ off.toNat → isReg64 (off.toNat - 4) = true → tabGet s.hub.latches (off.toNat - 4) ≠ some x :=
        fun x h4 hreg hx => hl ⟨x, h4, hreg, hx⟩
      obtain ⟨rfl, rfl⟩ := hword hr hn
      rw [read32_word s hr hn]
      rfl

/-- 64 bits of two words that are no 64-bit register are two reads of 32 bits. -/
theorem read_eight_is_two (ha : off.toNat % 8 = 0) (hr : isReg64 off.toNat = false) :
    ∃ a b, exec (.reg64LowWordRead ⟨false, off, 4⟩) s = .next a ∧ exec (.reg64LowWordRead ⟨false, off + 4, 4⟩) a = .next b ∧
      exec (.reg64LowWordRead ⟨false, off, 8⟩) s = .next { b with hub.busData := a.hub.busData ++ b.hub.busData } := by
  have hlt : off.toNat < 2 ^ 25 := off.isLt
  have hnext : (off + 4).toNat = off.toNat + 4 := by
    rw [BitVec.toNat_add]
    exact Nat.mod_eq_of_lt (by simp; omega)
  have h4 : off.toNat % 4 = 0 := by omega
  have h4' : (off.toNat + 4) % 4 = 0 := by omega
  have hfirst : exec (.reg64LowWordRead ⟨false, off, 4⟩) s = .next (shown (leBytes 4 (read32 off.toNat s).1.toNat) (read32 off.toNat s).2) := by
    rw [exec_read off 4 hh, busRead_four s h4]
  have hon : hostOn (shown (leBytes 4 (read32 off.toNat s).1.toNat) (read32 off.toNat s).2) = true := (hostOn_read32 s).trans hh
  have hsecond := exec_read (off + 4) 4 hon
  rw [hnext, busRead_four _ h4', read32_shown, shown_shown] at hsecond
  refine ⟨_, _, hfirst, hsecond, ?_⟩
  rw [exec_read off 8 hh, busRead_two s ha hr]
  exact congrArg _ (shown_append _ _ _ _)

end

/-! Writes (R12). -/

section
variable {s : State} {off : BitVec 25} (v : DWord) (hs : writesOn s = true)
include hs

theorem write_low (ha : off.toNat % 4 = 0) (hr : isReg64 off.toNat = true) (l : Word) : exec (.reg64LowWordWrite off l) s =
    .next { s with hub.latches := tabDel s.hub.latches off.toNat, hub.heldLow := some (off.toNat, l) } := by
  refine (barWrite_next off.toNat 4 (l.zeroExtend 64) hs).trans ?_
  rw [busWrite_four _ s ha, write32_low _ _ _ hr, truncate_zeroExtend_word]
  rfl

theorem write_high (ha : off.toNat % 4 = 0) (hr : isReg64 off.toNat = false) (h4 : 4 ≤ off.toNat) (hlow : isReg64 (off.toNat - 4) = true) :
    exec (.registerWrite off 4 v) s = .next (writeReg (off.toNat - 4)
      (v.truncate 32 ++ lowWord s.hub.heldLow (off.toNat - 4) (dropHeld s)) (dropLatch (off.toNat - 4) (dropHeld s))) := by
  refine (barWrite_next off.toNat 4 v hs).trans ?_
  rw [busWrite_four _ s ha, write32_high _ _ _ hr h4 hlow]

theorem write_word (ha : off.toNat % 4 = 0) (hr : isReg64 off.toNat = false) (hlow : 4 ≤ off.toNat → isReg64 (off.toNat - 4) = false) :
    exec (.registerWrite off 4 v) s = .next (writeReg off.toNat ((v.truncate 32).zeroExtend 64) (dropHeld s)) := by
  refine (barWrite_next off.toNat 4 v hs).trans ?_
  rw [busWrite_four _ s ha, write32_word _ _ _ hr hlow]

theorem write_whole (ha : off.toNat % 8 = 0) (hr : isReg64 off.toNat = true) :
    exec (.registerWrite off 8 v) s = .next (writeReg off.toNat v (dropLatch off.toNat (dropHeld s))) :=
  (barWrite_next off.toNat 8 v hs).trans (congrArg _ (busWrite_whole v s ha hr))

/-- R372, R368, R404: MMU_ROOT, the scrub's enable and the hold-off of results. -/
theorem write_named : exec (.registerWrite 0xC008 8 v) s = .next { s with
      hub.heldLow := none, hub.latches := tabDel s.hub.latches 0xC008, mmu.root := BitVec.ofNat 64 (v.toNat / 8192 * 8192) } ∧
    exec (.registerWrite 0xC040 4 v) s = .next { s with hub.heldLow := none, mmu.scrubEn := v.getLsbD 0 } ∧
    exec (.registerWrite 0x1124 4 v) s = .next { s with hub.heldLow := none, que.holdoffUs := v.truncate 16 } := by
  have hbit : bit (((v.truncate 32).zeroExtend 64 : DWord).truncate 32) 0 = v.getLsbD 0 := by
    rw [truncate_zeroExtend_word, bit, BitVec.truncate_eq_setWidth, BitVec.getLsbD_setWidth]
    rfl
  have hus : (((v.truncate 32).zeroExtend 64 : DWord).truncate 32).truncate 16 = v.truncate 16 := by
    rw [truncate_zeroExtend_word]
    exact BitVec.setWidth_setWidth_of_le _ (by decide)
  refine ⟨?_, ?_, ?_⟩
  · exact (write_whole v hs rfl rfl).trans (congrArg _ (writeReg_mmu (a := 0x08) (by decide) v _))
  · rw [← hbit]
    exact (write_word v hs rfl rfl fun _ => rfl).trans (congrArg _ (writeReg_mmu (a := 0x40) (by decide) _ _))
  · rw [← hus]
    exact (write_word v hs rfl rfl fun _ => rfl).trans (congrArg _ (writeReg_que (a := 0x124) (by decide) _ _))

end

/-! THM_ and SEC_. -/

theorem thmRegisterWrite_bad {s : State} (hs : writesOn s = true) (v : DWord) {a : BitVec 12} (ha : a.toNat % 4 = 0) (hlt : a.toNat < 0x30)
    (hb : thmPut a.toNat (v.truncate 32) s.thm = none) :
    Completes (.thmRegisterWrite a v false) s fun w => w.thm = s.thm ∧ w.cfg.reject = 0x0E :=
  completes_of_next (next_congr (exec_thmRegisterWrite_word hs v ha hlt) (thmWrite_bad hb)) ⟨cfgReject_thm _ _ _ _, cfgReject_reject _ _ _ _⟩

theorem thmRegisterWrite_moves {s : State} (hs : writesOn s = true) (v : DWord) (hh : 1 ≤ fld (v.truncate 32) 8 8 ∧ fld (v.truncate 32) 8 8 ≤ 50)
    (hm : fld (v.truncate 32) 0 8 ≤ 64) : Completes (.thmRegisterWrite 0x10 v false) s fun w =>
      w.thm.maxMoves.toNat = fld (v.truncate 32) 0 8 ∧ w.thm.hyst.toNat = fld (v.truncate 32) 8 8 := by
  have ht : thmPut 0x10 (v.truncate 32) s.thm = some { s.thm with
      maxMoves := BitVec.ofNat 8 (fld (v.truncate 32) 0 8), hyst := BitVec.ofNat 8 (fld (v.truncate 32) 8 8) } :=
    (if_pos hh).trans (if_pos ⟨Nat.zero_le _, hm⟩)
  exact completes_of_next (next_congr (exec_thmRegisterWrite_word hs v (a := 0x10) rfl (by decide)) (thmWrite_taken ht (by decide)))
    ⟨toNat_ofNat_fld _ _ _, toNat_ofNat_fld _ _ _⟩

theorem challengeLive_of_none {s : State} (h : s.sec.challengeOut = false) : challengeLive s = false := by
  rw [challengeLive, h, Bool.false_and]

/-- The state after a challenge has lapsed at a time. -/
def challengeLapsed (s : State) (lapse : Nat) : State := { advanceTo s lapse with sec.challengeOut := false }

/-- Nothing else of the security state changes, and no stream does. -/
theorem challengeLapsed_keeps (s : State) (lapse : Nat) : (challengeLapsed s lapse).sec = { s.sec with challengeOut := false } ∧
    (challengeLapsed s lapse).streams = s.streams := by
  refine ⟨?_, advanceTo_streams s lapse⟩
  rw [← advanceTo_sec s lapse]
  rfl

theorem exec_debugChallengeLapse (s : State) : exec .debugChallengeLapse s =
    .next (if s.sec.challengeOut && agentsOn s then challengeLapsed s (s.sec.challengeAt.toNat + challengeNs) else s) := rfl

theorem debugChallengeLapse_ends {s : State} (hc : s.sec.challengeOut = true) (ha : agentsOn s = true) :
    Completes .debugChallengeLapse s fun w => w.sec.challengeOut = false ∧ w.sec.challenge = s.sec.challenge ∧ challengeLive w = false ∧
      w.sec.scope = s.sec.scope ∧ w.streams = s.streams := by
  have hx := exec_debugChallengeLapse s
  rw [hc, ha, Bool.and_self, if_pos rfl] at hx
  obtain ⟨hsec, hstreams⟩ := challengeLapsed_keeps s (s.sec.challengeAt.toNat + challengeNs)
  exact completes_of_next hx ⟨by rw [hsec], by rw [hsec], challengeLive_of_none (by rw [hsec]), by rw [hsec], hstreams⟩

/-- Settles O51: every access comes down to a read or a write of one register, which `busRead` and `busWrite` name by offset and size. -/
theorem registersTakeAndGiveValues : Obligations.RegistersTakeAndGiveValues := by
  unfold Obligations.RegistersTakeAndGiveValues
  intro off v s o l h
  refine ⟨fun hh => ⟨read_four hh, fun ha hr => ?_, read_eight_is_two hh, fun n h4 h8 => ⟨?_, fun hb => ?_⟩, fun n => exec_read_config off n hh,
      configRead_vendor s, configRead_class s⟩,
    fun hh => ⟨fun cfg n => exec_read_hostless _ hh, fun n => barWrite_hostless _ n v hh, barWrite_hostless _ 4 _ hh⟩,
    fun hh hb => ⟨fun n hw hd => barWrite_halted v hb hw hd, fun hw => barWrite_halted _ hb (fun hx => hw hx.1) (fun hx => absurd hx.2 (by decide))⟩,
    fun hs ha hr => write_low hs ha hr l, fun hs ha hr h4 hlow low hl => ?_, write_whole v, write_word v, write_named v,
    fun a hs ha hlt => ⟨fun t => thmRegisterWrite_taken hs v ha hlt, thmRegisterWrite_bad hs v ha hlt⟩,
    fun hs => ⟨thmRegisterWrite_moves hs v, exec_thmRegisterWrite_telem hs v⟩, fun i hi => ?_,
    exec_clearLevels, fun hs => hostWrite_discarded _ hs, debugChallengeLapse_ends, fun hn => ?_⟩
  · rw [exec_read off 8 hh, busRead_whole s ha hr]
    rfl
  · rw [exec_read off n hh, busRead_other s h4 h8]
    rfl
  · exact (barWrite_next _ n v ((writesOn_iff s).mpr ⟨hh, hb⟩)).trans (congrArg _ (busWrite_other v s h4 h8))
  · rw [hl, write_high v hs ha hr h4 hlow]
    rfl
  · have hx : exec i s = hostWrite (debugCtrl l) s := by
      rw [List.mem_cons, List.mem_singleton] at hi
      rcases hi with rfl | rfl <;> rfl
    rw [hx]
    exact ⟨hostWrite_discarded _, fun hs => completes_of_next (hx.trans (hostWrite_next _ hs)) (debugCtrl_effect l (dropHeld s))⟩
  · rw [exec_debugChallengeLapse, if_neg]
    rcases hn with hn | hn <;> simp [hn]

end Sys2Proof.Proofs
end

section
/-! SUPPORT. Writes of the stream table (Table 9.1, R282, R283, R342): which field a write changes, and when it is discarded. -/

namespace Sys2Proof.Laws

open Sys2Proof.Machine Sys2Proof.Claims

/-! A write of an entry reaches `steWrite`, by its size (R12). -/

theorem isReg64_before_ste {n : Nat} (hn : n < 0x1000) : isReg64 (steBase n - 4) = false := by
  by_cases h0 : n = 0
  · subst h0
    rfl
  · have hp : steBase n - 4 = steBase (n - 1) + 0xFC := by
      unfold steBase
      omega
    rw [hp, isReg64_ste (by omega) (by decide)]
    rfl

theorem exec_steConfigWrite_word (n : StreamId) {off : BitVec 8} (v : DWord) {s : State} (hs : writesOn s = true) (ha : off.toNat % 4 = 0)
    (hr : off.toNat ∉ [0x18, 0x20, 0x28, 0x30, 0x38, 0x40, 0x50]) (hlow : off.toNat - 4 ∉ [0x18, 0x20, 0x28, 0x30, 0x38, 0x40, 0x50]) :
    exec (.steConfigWrite n off v false) s = .next (steWrite n.toNat off.toNat ((v.truncate 32).zeroExtend 64) (dropHeld s)) := by
  have hn : n.toNat < 0x1000 := n.isLt
  have ho : off.toNat < 0x100 := off.isLt
  have hb : steBase n.toNat % 4 = 0 := by
    unfold steBase
    omega
  have hbefore : isReg64 (steBase n.toNat + off.toNat - 4) = false := by
    by_cases h0 : off.toNat = 0
    · rw [h0]
      exact isReg64_before_ste hn
    · rw [Nat.add_sub_assoc (by omega), isReg64_ste hn (by omega)]
      exact decide_eq_false hlow
  refine (barWrite_next _ 4 v hs).trans (congrArg _ ?_)
  rw [busWrite_four _ s (by omega), write32_word _ _ _ ((isReg64_ste hn ho).trans (decide_eq_false hr)) fun _ => hbefore, writeReg_ste hn ho]

theorem exec_steConfigWrite_wide (n : StreamId) {off : BitVec 8} (v : DWord) {s : State} (hs : writesOn s = true) (ha : off.toNat % 8 = 0)
    (hr : off.toNat ∈ [0x18, 0x20, 0x28, 0x30, 0x38, 0x40, 0x50]) : exec (.steConfigWrite n off v true) s =
      .next (steWrite n.toNat off.toNat v (dropLatch (steBase n.toNat + off.toNat) (dropHeld s))) := by
  have hn : n.toNat < 0x1000 := n.isLt
  have ho : off.toNat < 0x100 := off.isLt
  have hb : steBase n.toNat % 8 = 0 := by
    unfold steBase
    omega
  refine (barWrite_next _ 8 v hs).trans (congrArg _ ?_)
  rw [busWrite_whole _ s (by omega) ((isReg64_ste hn ho).trans (decide_eq_true hr)), writeReg_ste hn ho]

/-! Its registers (Table 9.1). -/

section
variable (n : Nat) (v : DWord) (w : Word) (s : State)

theorem steWrite_ctrl : steWrite n 0x00 (w.zeroExtend 64) s = steCtrl n w s :=
  congrArg (fun w => steCtrl n w s) (truncate_zeroExtend_word w)

theorem steWrite_period : steWrite n 0x0C (w.zeroExtend 64) s = steField n 0x0C (fun r => { r with periodUs := w }) s :=
  congrArg (fun w => steField n 0x0C (fun r => { r with periodUs := w }) s) (truncate_zeroExtend_word w)

theorem steWrite_delay : steWrite n 0x10 (w.zeroExtend 64) s = steField n 0x10 (fun r => { r with delayUs := w }) s :=
  congrArg (fun w => steField n 0x10 (fun r => { r with delayUs := w }) s) (truncate_zeroExtend_word w)

theorem steWrite_statePtr : steWrite n 0x18 v s =
    if v ≠ (getStream s n).r.statePtr ∧ (getStream s n).d.devPlaced then steReject n 0x18 s
    else steField n 0x18 (fun r => { r with statePtr := v }) s := rfl

theorem steWrite_initPtr : steWrite n 0x20 v s = modStream s n fun x => { x with r.initPtr := v } := rfl
theorem steWrite_kvTable : steWrite n 0x28 v s = steField n 0x28 (fun r => { r with kvTable := v }) s := rfl
theorem steWrite_inRing : steWrite n 0x30 v s = steField n 0x30 (fun r => { r with inRing := v }) s := rfl
theorem steWrite_outRing : steWrite n 0x38 v s = steField n 0x38 (fun r => { r with outRing := v }) s := rfl

end

/-! What a write makes of the table. -/

theorem getStream_modStream_same (s : State) (n : Nat) (f : Stream → Stream) : getStream (modStream s n f) n = f (getStream s n) :=
  getStream_setStream_same _ _ _

theorem getStream_modStream_other (s : State) {n m : Nat} (f : Stream → Stream) (h : m ≠ n) : getStream (modStream s n f) m = getStream s m :=
  getStream_setStream_other _ _ _ _ h

/-- Entry n has the registers r and is otherwise as before, and so is every other entry. -/
def TakesRegs (n : Nat) (r : SteRegs) (s t : State) : Prop :=
  getStream t n = { getStream s n with r := r } ∧ ∀ m, m ≠ n → getStream t m = getStream s m

/-- The write is discarded with CFG_REJECT. -/
def Rejected (s t : State) : Prop := t.streams = s.streams ∧ t.cfg.reject = 0x0D

theorem takesRegs_same (n : Nat) (s : State) : TakesRegs n (getStream s n).r s s := ⟨rfl, fun _ _ => rfl⟩

theorem takesRegs_setStream (n : Nat) (r : SteRegs) (s : State) : TakesRegs n r s (setStream s n { getStream s n with r := r }) :=
  ⟨getStream_setStream_same _ _ _, fun _ hm => getStream_setStream_other _ _ _ _ hm⟩

theorem rejected_steReject (n off : Nat) (s : State) : Rejected s (steReject n off s) :=
  ⟨cfgReject_streams _ _ _ _, cfgReject_reject _ _ _ _⟩

/-- R282: a field is taken while the stream is FREE, IDLE or ENDED, or where it does not change. -/
theorem steField_takes {n off : Nat} {f : SteRegs → SteRegs} {s : State}
    (h : quietState (getStream s n).state = true ∨ f (getStream s n).r = (getStream s n).r) :
    TakesRegs n (f (getStream s n).r) s (steField n off f s) := by
  unfold steField
  dsimp only
  split
  · next he =>
    rw [he]
    exact takesRegs_same n s
  · next he =>
    rw [if_pos (h.resolve_right he)]
    exact takesRegs_setStream n _ s

/-- And rejected otherwise. -/
theorem steField_rejected {n off : Nat} {f : SteRegs → SteRegs} {s : State} (hq : quietState (getStream s n).state = false)
    (hf : f (getStream s n).r ≠ (getStream s n).r) : Rejected s (steField n off f s) := by
  have he : steField n off f s = steReject n off s := (if_neg hf).trans (if_neg (by simp [hq]))
  rw [he]
  exact rejected_steReject n off s

/-! STE_CTRL. -/

theorem fld_eq_toNat_iff {n : Nat} (w : Word) (lo : Nat) (r : BitVec n) : fld w lo n = r.toNat ↔ w.extractLsb' lo n = r := by
  rw [← ofNat_fld]
  constructor
  · intro h
    rw [h, BitVec.ofNat_toNat, BitVec.setWidth_eq]
  · rintro rfl
    exact (toNat_ofNat_fld w lo n).symm

/-- The write changes a field that the stream's state can fix. -/
def ctrlChanges (v : Word) (x : Stream) : Bool :=
  decide (bit v 4 ≠ x.r.express) || decide (fld v 8 8 ≠ x.r.dclass.toNat) || decide (fld v 16 16 ≠ x.r.ownerTag.toNat)

theorem ctrlAllowed_iff (v : Word) (x : Stream) : ctrlAllowed v x ↔ (ctrlChanges v x && !quietState x.state) = false := by
  have hc : ctrlChanges v x = false ↔
      v.getLsbD 4 = x.r.express ∧ v.extractLsb' 8 8 = x.r.dclass ∧ v.extractLsb' 16 16 = x.r.ownerTag := by
    rw [← fld_eq_toNat_iff, ← fld_eq_toNat_iff]
    simp only [ctrlChanges, Bool.or_eq_false_iff, decide_eq_false_iff_not, ne_eq, Decidable.not_not, and_assoc]
    rfl
  rw [ctrlAllowed, ← hc, Bool.and_eq_false_iff, Bool.not_eq_false', or_comm]

/-- A write without a command takes its fields where they may change. -/
theorem steCtrl_allowed {n : Nat} {v : Word} {s : State} (hc : fld v 0 3 = 0) (ha : ctrlAllowed v (getStream s n)) :
    steCtrl n v s = setStream s n { getStream s n with r := ctrlFields v (getStream s n).r } := by
  have hok : ¬ ((ctrlChanges v (getStream s n) && !quietState (getStream s n).state ||
      !cmdAccepted (getStream s n).state (fld v 0 3) (bit v 3)) = true) := by
    rw [(ctrlAllowed_iff _ _).mp ha, hc]
    simp [cmdAccepted]
  refine (if_neg hok).trans ((if_pos hc).trans ?_)
  rw [ofNat_fld, ofNat_fld]
  rfl

theorem steCtrl_refused {n : Nat} {v : Word} {s : State} (ha : ¬ ctrlAllowed v (getStream s n)) : steCtrl n v s = steReject n 0 s := by
  rw [ctrlAllowed_iff, Bool.not_eq_false] at ha
  refine if_pos (Bool.or_eq_true_iff.mpr (.inl ?_))
  exact ha

/-! STE_GROUP. -/

/-- The registers that a write of STE_GROUP gives. -/
def groupRegs (v : Word) (r : SteRegs) : SteRegs := { r with placement := v.extractLsb' 0 16, model := v.extractLsb' 16 16 }

/-- The write names a template of the current image, and a replica of it or 0xFFFF (R283). -/
def NamesTemplate (v : Word) (s : State) : Prop := ∃ g, s.cfg.cur = some g ∧ (templateIn g (v.toNat / 65536)).isSome = true ∧
  (v.toNat % 65536 = 0xFFFF ∨ (replicaIn g (v.toNat / 65536) (v.toNat % 65536)).isSome = true)

theorem fld_high_half (v : Word) : fld v 16 16 = v.toNat / 65536 := by
  have hv : v.toNat < 2 ^ 32 := v.isLt
  rw [fld, Nat.shiftRight_eq_div_pow, Nat.mod_eq_of_lt (by omega)]

theorem fld_low_half (v : Word) : fld v 0 16 = v.toNat % 65536 :=
  congrArg (· % 2 ^ 16) Nat.shiftRight_zero

theorem steGroup_held {n : Nat} {v : Word} {s : State} (hf : (getStream s n).state ≠ .free) :
    steGroup n v s = steField n 8 (groupRegs v) s := by
  unfold steGroup
  dsimp only
  rw [if_neg hf, ofNat_fld, ofNat_fld]
  rfl

/-- A FREE entry becomes IDLE when the write names a template, and is left alone when it does not. -/
theorem steGroup_free {n : Nat} {v : Word} {s : State} (hf : (getStream s n).state = .free) :
    (NamesTemplate v s → steGroup n v s = enterIdle n (modStream s n fun x => { x with r := groupRegs v x.r })) ∧
    (¬ NamesTemplate v s → steGroup n v s = steReject n 8 s) := by
  unfold steGroup NamesTemplate
  dsimp only
  rw [if_pos hf, fld_high_half, fld_low_half]
  cases hg : s.cfg.cur with
  | none => simp
  | some g =>
    refine ⟨fun ⟨g', hg', ht, hr⟩ => ?_, fun hn => if_neg fun hok => hn ⟨g, rfl, ?_⟩⟩
    · cases hg'
      rw [if_pos (by simpa [ht] using hr), ← fld_high_half, ← fld_low_half, ofNat_fld, ofNat_fld]
      rfl
    · simpa using hok

/-- An entry that becomes IDLE (R283). -/
def idleEntry (s : State) (x : Stream) : Stream :=
  { x with
    state := .idle
    r.cause := 0, r.lagging := false, r.overrun := false, r.gap := false, r.carry := false
    r.position := 0, r.lagUs := 0, r.lagMaxUs := 0, r.chunksDone := 0, r.lateCount := 0, r.rerunCount := 0, r.satCount := 0
    c := { SteCounts.init with freed := x.c.freed }
    d := { SteInt.init with promotions := x.d.promotions, switched := decide (s.cfg.phase = .switch), epoch := s.cfg.epoch } }

theorem enterIdle_eq (n : Nat) (s : State) : enterIdle n s = modStream s n (idleEntry s) := rfl

/-! STE_PARAM. -/

/-- R340, R342: the parameter takes the value, PARAM_PENDING is set, and what a release now takes is as before. -/
theorem steParam_effect (n : Nat) (i : BitVec 5) (v : Word) (s : State) :
    vget 0 (getStream (steParam n i.toNat v s) n).r.param i.toNat = v ∧
    (∀ j : BitVec 5, j ≠ i → vget 0 (getStream (steParam n i.toNat v s) n).r.param j.toNat = vget 0 (getStream s n).r.param j.toNat) ∧
    paramPending (getStream (steParam n i.toNat v s) n) = true ∧ (getStream (steParam n i.toNat v s) n).state = (getStream s n).state ∧
    paramsNow (steParam n i.toNat v s) (getStream (steParam n i.toNat v s) n) = paramsNow s (getStream s n) ∧
    ∀ m, m ≠ n → getStream (steParam n i.toNat v s) m = getStream s m := by
  refine ⟨?_, fun j hj => ?_, ?_, ?_, ?_, fun _ hm => getStream_modStream_other _ _ hm⟩ <;>
    simp only [steParam, getStream_modStream_same]
  · exact vget_vset_same _ _ _ _ i.isLt
  · exact vget_vset_other _ _ _ _ _ (mt BitVec.eq_of_toNat_eq hj)
  · exact Bool.true_or _
  · exact if_pos rfl

end Sys2Proof.Laws
end

section
/-! The statement on writes of a stream's entry. -/

namespace Sys2Proof.Proofs

open Sys2Proof.Machine Sys2Proof.Claims Sys2Proof.Laws

/-- A row whose write changes one field under R282, from a state with the same stream table. -/
theorem steField_row {i : Instr} {n off : Nat} {f : SteRegs → SteRegs} {s u : State} (hx : exec i s = .next (steField n off f u))
    (hu : u.streams = s.streams) :
    (quietState (getStream s n).state = true ∨ f (getStream s n).r = (getStream s n).r →
      Completes i s (TakesRegs n (f (getStream s n).r) s)) ∧
    (quietState (getStream s n).state = false → f (getStream s n).r ≠ (getStream s n).r → Completes i s (Rejected s)) := by
  have hg (m : Nat) : getStream u m = getStream s m := by
    rw [getStream, getStream, hu]
  have ht := @steField_takes n off f u
  have hr := @steField_rejected n off f u
  simp only [TakesRegs, Rejected, hg, hu] at ht hr
  exact ⟨fun h => completes_of_next hx (ht h), fun hq hf => completes_of_next hx (hr hq hf)⟩

theorem exec_steGroupWrite (n : StreamId) (v : Word) {s : State} (hs : writesOn s = true) :
    exec (.steGroupWrite n v) s = .next (steGroup n.toNat v (dropHeld s)) :=
  (hostWrite_next _ hs).trans (congrArg (fun w => Host.Outcome.next (steGroup n.toNat w (dropHeld s))) (truncate_zeroExtend_word v))

theorem steGroupWrite_names {n : StreamId} {v : Word} {s : State} (hs : writesOn s = true) (hf : (getStream s n.toNat).state = .free)
    (hn : NamesTemplate v s) : Completes (.steGroupWrite n v) s fun t => (getStream t n.toNat).state = .idle ∧
      (getStream t n.toNat).r.placement = v.extractLsb' 0 16 ∧ (getStream t n.toNat).r.model = v.extractLsb' 16 16 ∧
      (getStream t n.toNat).r.chunksDone = 0 ∧ (getStream t n.toNat).r.position = 0 ∧ (getStream t n.toNat).r.lateCount = 0 ∧
      (getStream t n.toNat).r.rerunCount = 0 ∧ (getStream t n.toNat).r.satCount = 0 ∧
      (getStream t n.toNat).r.cause = 0 ∧ (getStream t n.toNat).d.chunks = [] ∧ ∀ m, m ≠ n.toNat → getStream t m = getStream s m := by
  have hx := exec_steGroupWrite n v hs
  refine completes_of_next (next_congr hx ((steGroup_free (s := dropHeld s) hf).1 hn)) ?_
  rw [enterIdle_eq, getStream_modStream_same, getStream_modStream_same]
  refine ⟨rfl, rfl, rfl, rfl, rfl, rfl, rfl, rfl, rfl, rfl, fun m hm => ?_⟩
  rw [getStream_modStream_other _ _ hm, getStream_modStream_other _ _ hm]
  rfl

/-- STE_STATE_PTR, whose device-placed block no write moves (R155). -/
theorem statePtr_row {n : StreamId} {v : DWord} {s : State} (hs : writesOn s = true) :
    (v = (getStream s n.toNat).r.statePtr ∨ (quietState (getStream s n.toNat).state = true ∧ (getStream s n.toNat).d.devPlaced = false) →
      Completes (.steConfigWrite n 0x18 v true) s (TakesRegs n.toNat { (getStream s n.toNat).r with statePtr := v } s)) ∧
    (v ≠ (getStream s n.toNat).r.statePtr → quietState (getStream s n.toNat).state = false ∨ (getStream s n.toNat).d.devPlaced = true →
      Completes (.steConfigWrite n 0x18 v true) s (Rejected s)) := by
  have hx := next_congr (exec_steConfigWrite_wide n (off := 0x18) v hs rfl (by decide)) (steWrite_statePtr n.toNat v _)
  by_cases hd : v ≠ (getStream s n.toNat).r.statePtr ∧ (getStream s n.toNat).d.devPlaced = true
  · have hrej := next_congr hx (if_pos hd)
    refine ⟨fun ht => ?_, fun _ _ => completes_of_next hrej (rejected_steReject _ _ _)⟩
    rcases ht with h | ⟨_, h⟩
    · exact absurd h hd.1
    · exact absurd hd.2 (by simp [h])
  · obtain ⟨htakes, hrejects⟩ := steField_row (next_congr hx (if_neg hd)) rfl
    refine ⟨fun ht => htakes (ht.symm.imp And.left fun h => ?_), fun hne h => hrejects (h.resolve_right fun hp => hd ⟨hne, hp⟩) fun he => ?_⟩
    · rw [h]
    · exact hne (congrArg SteRegs.statePtr he)

/-- STE_INIT_PTR takes its value in every state. -/
theorem initPtr_row {n : StreamId} {v : DWord} {s : State} (hs : writesOn s = true) :
    Completes (.steConfigWrite n 0x20 v true) s (TakesRegs n.toNat { (getStream s n.toNat).r with initPtr := v } s) :=
  completes_of_next (next_congr (exec_steConfigWrite_wide n (off := 0x20) v hs rfl (by decide)) (steWrite_initPtr n.toNat v _))
    (takesRegs_setStream _ _ _)

/-- STE_CTRL with CMD 0. -/
theorem ctrl_row {n : StreamId} {v : DWord} {s : State} (hs : writesOn s = true) (hc : v.toNat % 8 = 0) :
    (ctrlAllowed (v.truncate 32) (getStream s n.toNat) →
      Completes (.steConfigWrite n 0 v false) s (TakesRegs n.toNat (ctrlFields (v.truncate 32) (getStream s n.toNat).r) s)) ∧
    (¬ ctrlAllowed (v.truncate 32) (getStream s n.toNat) → Completes (.steConfigWrite n 0 v false) s (Rejected s)) := by
  have hx := next_congr (exec_steConfigWrite_word n (off := 0) v hs rfl (by decide) (by decide)) (steWrite_ctrl n.toNat (v.truncate 32) (dropHeld s))
  have hcmd : fld (v.truncate 32) 0 3 = 0 := by
    rw [fld, Nat.shiftRight_zero, BitVec.truncate_eq_setWidth, BitVec.toNat_setWidth]
    omega
  exact ⟨fun ha => completes_of_next (next_congr hx (steCtrl_allowed (s := dropHeld s) hcmd ha)) (takesRegs_setStream _ _ _),
    fun ha => completes_of_next (next_congr hx (steCtrl_refused (s := dropHeld s) ha)) (rejected_steReject _ _ _)⟩

/-- The fields that R282 fixes while the stream runs. -/
theorem field_rows {n : StreamId} {v : DWord} {s : State} (hs : writesOn s = true) (off : BitVec 8) (wide : Bool) (r : SteRegs)
    (hm : (off, wide, r) ∈ [((0x0C : BitVec 8), false, { (getStream s n.toNat).r with periodUs := v.truncate 32 }),
      (0x10, false, { (getStream s n.toNat).r with delayUs := v.truncate 32 }), (0x28, true, { (getStream s n.toNat).r with kvTable := v }),
      (0x30, true, { (getStream s n.toNat).r with inRing := v }), (0x38, true, { (getStream s n.toNat).r with outRing := v })]) :
    (quietState (getStream s n.toNat).state = true ∨ r = (getStream s n.toNat).r → Completes (.steConfigWrite n off v wide) s (TakesRegs n.toNat r s)) ∧
    (quietState (getStream s n.toNat).state = false → r ≠ (getStream s n.toNat).r → Completes (.steConfigWrite n off v wide) s (Rejected s)) := by
  simp only [List.mem_cons, List.not_mem_nil, or_false, Prod.mk.injEq] at hm
  rcases hm with ⟨rfl, rfl, rfl⟩ | ⟨rfl, rfl, rfl⟩ | ⟨rfl, rfl, rfl⟩ | ⟨rfl, rfl, rfl⟩ | ⟨rfl, rfl, rfl⟩
  · have hx := exec_steConfigWrite_word n (off := 0x0C) v hs rfl (by decide) (by decide)
    exact steField_row (next_congr hx (steWrite_period n.toNat _ _)) rfl
  · have hx := exec_steConfigWrite_word n (off := 0x10) v hs rfl (by decide) (by decide)
    exact steField_row (next_congr hx (steWrite_delay n.toNat _ _)) rfl
  · have hx := exec_steConfigWrite_wide n (off := 0x28) v hs rfl (by decide)
    exact steField_row (next_congr hx (steWrite_kvTable n.toNat v _)) rfl
  · have hx := exec_steConfigWrite_wide n (off := 0x30) v hs rfl (by decide)
    exact steField_row (next_congr hx (steWrite_inRing n.toNat v _)) rfl
  · have hx := exec_steConfigWrite_wide n (off := 0x38) v hs rfl (by decide)
    exact steField_row (next_congr hx (steWrite_outRing n.toNat v _)) rfl

/-- STE_GROUP of an entry that is not FREE, or that names nothing. -/
theorem group_rows {n : StreamId} {v : Word} {s : State} (hs : writesOn s = true) :
    ((getStream s n.toNat).state = .free → ¬ NamesTemplate v s → Completes (.steGroupWrite n v) s (Rejected s)) ∧
    ((getStream s n.toNat).state ≠ .free →
      (quietState (getStream s n.toNat).state = true ∨ groupRegs v (getStream s n.toNat).r = (getStream s n.toNat).r →
        Completes (.steGroupWrite n v) s (TakesRegs n.toNat (groupRegs v (getStream s n.toNat).r) s)) ∧
      (quietState (getStream s n.toNat).state = false → groupRegs v (getStream s n.toNat).r ≠ (getStream s n.toNat).r →
        Completes (.steGroupWrite n v) s (Rejected s))) := by
  have hx := exec_steGroupWrite n v hs
  exact ⟨fun hf hn => completes_of_next (next_congr hx ((steGroup_free (s := dropHeld s) hf).2 hn)) (rejected_steReject _ _ _),
    fun hf => steField_row (next_congr hx (steGroup_held (s := dropHeld s) hf)) rfl⟩

/-- Settles O41: each write runs `steWrite` on its register, which takes the value or rejects it by the stream's state. -/
theorem streamEntriesAreWritten : Obligations.StreamEntriesAreWritten := by
  unfold Obligations.StreamEntriesAreWritten
  intro n s hs x takes refuses
  refine ⟨fun v => ?_, fun v => ?_, fun i v => ?_⟩
  · obtain ⟨hfree, hheld⟩ := group_rows (n := n) (v := v) hs
    refine ⟨steGroupWrite_names hs, hfree, fun hf => (hheld hf).1, fun hq => (hheld fun hf => ?_).2 hq⟩
    simp [x, hf, quietState] at hq
  · obtain ⟨hptr, hptrBad⟩ := statePtr_row (n := n) (v := v) hs
    have hw : v.extractLsb' 0 32 = v.truncate 32 := BitVec.setWidth_eq_extractLsb' (by decide) |>.symm
    rw [hw]
    exact ⟨field_rows hs, hptr, hptrBad, initPtr_row hs, ctrl_row hs⟩
  · exact completes_of_next (hostWrite_next _ hs) (steParam_effect n.toNat i v (dropHeld s))

end Sys2Proof.Proofs
end

section
/-! SUPPORT. Raising an event while the error queue has room (R443-R446, R450): the record that enters it, and what of the
cores it leaves unchanged. -/

namespace Sys2Proof.Laws

open Sys2Proof.Machine

/-! Of a core, only the stall counters. -/

/-- Only the stall counters of the core differ. -/
def StallsOnly (k k' : Core) : Prop := ∃ n m, k' = { k with stalls := n, copyStalls := m }

theorem StallsOnly.refl (k : Core) : StallsOnly k k := ⟨k.stalls, k.copyStalls, rfl⟩

theorem countStall_stallsOnly (cause n : Nat) (k : Core) : StallsOnly k (countStall cause n k) := by
  unfold countStall
  split
  · exact .refl k
  · exact ⟨_, _, rfl⟩

/-- Only the Bay writer changes, but that the core of a record that must wait counts it. -/
theorem toBay_cases (r : Record) (s : State) :
    ∃ b, toBay r s = { s with bay := b } ∨ toBay r s = { modCore s r.core.toNat (countStall 5 1) with bay := b } := by
  unfold toBay
  by_cases hn : r.core = noCore
  · rw [if_pos hn]
    dsimp only
    split
    · exact ⟨_, .inl rfl⟩
    split
    · exact ⟨_, .inl rfl⟩
    split <;> exact ⟨_, .inl rfl⟩
  · rw [if_neg hn]
    dsimp only
    split
    · exact ⟨_, .inl rfl⟩
    split
    · exact ⟨_, .inl rfl⟩
    split
    · exact ⟨_, .inr rfl⟩
    · exact ⟨_, .inl rfl⟩

theorem toBay_stallsOnly (r : Record) (s : State) (c : Nat) : StallsOnly (getCore s c) (getCore (toBay r s) c) := by
  obtain ⟨b, h | h⟩ := toBay_cases r s
  · rw [h]
    exact .refl _
  · rw [h]
    change StallsOnly _ (getCore (setCore s r.core.toNat _) c)
    by_cases hc : c = r.core.toNat
    · rw [hc, getCore_setCore_same]
      exact countStall_stallsOnly 5 1 _
    · rw [getCore_setCore_other _ _ _ _ hc]
      exact .refl _

@[simp] theorem toBay_evt (r : Record) (s : State) : (toBay r s).evt = s.evt := by
  obtain ⟨b, h | h⟩ := toBay_cases r s
  · rw [h]
  · rw [h]
    rfl

/-! The error queue. -/

@[simp] theorem getCore_enqueue (r : Record) (s : State) (c : Nat) : getCore (enqueue r s) c = getCore s c := by
  unfold enqueue
  split
  · rfl
  · split <;> rfl

@[simp] theorem enqueue_nextSeq (r : Record) (s : State) : (enqueue r s).evt.nextSeq = s.evt.nextSeq := by
  unfold enqueue
  split
  · rfl
  · split <;> rfl

/-- R446: the record is in handling, or waits for it. -/
theorem mem_enqueue (r : Record) (s : State) : r ∈ (enqueue r s).evt.handling.toList ++ (enqueue r s).evt.waiting := by
  unfold enqueue
  split
  · simp
  · split <;> simp

theorem arrive_room {r : Record} {s : State} (h : heldCount s.evt < 255) : arrive r s = enqueue r s := if_pos h

/-! A switch and a start that note a GROUP event. -/

theorem beginRollback_only (cause : Nat) (s : State) : ∃ g, beginRollback cause s = { s with cfg := g } := by
  unfold beginRollback
  split <;> exact ⟨_, rfl⟩

theorem groupRaised_only (s : State) : ∃ h g, groupRaised s = { s with hub := h, cfg := g } := by
  unfold groupRaised
  by_cases hp : s.hub.phase = .start
  · rw [if_pos hp]
    dsimp only
    split
    · exact ⟨_, (beginRollback_only 4 _).imp fun _ h => h⟩
    · exact ⟨_, _, rfl⟩
  · rw [if_neg hp]
    dsimp only
    split
    · exact ⟨_, (beginRollback_only 4 s).imp fun _ h => h⟩
    · exact ⟨_, _, rfl⟩

/-! The window of R455 does not depend on the cores. -/

/-- An update of a state that neither reads nor changes the cores. -/
def CoresApart (f : State → State) : Prop := ∀ s m, f { s with cores := m } = { f s with cores := m }

theorem CoresApart.comp {f g : State → State} (hg : CoresApart g) (hf : CoresApart f) : CoresApart fun s => g (f s) :=
  fun s m => (congrArg g (hf s m)).trans (hg (f s) m)

theorem toBay_coresApart {r : Record} (h : r.core = noCore) : CoresApart (toBay r) := by
  intro s m
  unfold toBay
  rw [if_pos h, if_pos h]
  dsimp only
  split
  · rfl
  split
  · rfl
  split <;> rfl

theorem enqueue_coresApart (r : Record) : CoresApart (enqueue r) := by
  intro s m
  unfold enqueue
  dsimp only
  split
  · rfl
  · split <;> rfl

/-- A new record of no core, and what is done with it. -/
theorem newRecord_coresApart {g : Record → State → State} (hg : ∀ r, r.core = noCore → CoresApart (g r)) (code cls : Nat)
    (injected summary : Bool) (stream : Half) (detail : List Word) : CoresApart fun s =>
      g (newRecord code cls injected summary stream noCore detail s).1 (newRecord code cls injected summary stream noCore detail s).2 :=
  fun s m => hg _ rfl (newRecord code cls injected summary stream noCore detail s).2 m

theorem loseRecord_coresApart : CoresApart loseRecord := by
  intro s m
  unfold loseRecord
  dsimp only
  cases s.evt.overflow with
  | some _ => rfl
  | none =>
    exact newRecord_coresApart (g := fun r u => enqueue r (toBay r { u with evt.overflow := some r }))
      (fun r h u n => (enqueue_coresApart r).comp (toBay_coresApart h) { u with evt.overflow := some r } n)
      0x0A01 2 false false noStream [0, 0, 1, satAdd s.evt.lost 1]
      { s with evt.lost := satAdd s.evt.lost 1, evt.episode := s.evt.episode + 1 } m

theorem arrive_coresApart (r : Record) : CoresApart (arrive r) := by
  intro s m
  unfold arrive
  dsimp only
  split
  · exact enqueue_coresApart r s m
  split
  · split
    · exact loseRecord_coresApart s m
    · exact (enqueue_coresApart r).comp loseRecord_coresApart { s with evt.waiting := _, evt.handled := _ } m
  · exact loseRecord_coresApart s m

theorem raiseSummary_coresApart (e : Half × BitVec 3 × Word × DWord × DWord) : CoresApart fun s => raiseSummary s e :=
  newRecord_coresApart (fun r h => (arrive_coresApart r).comp (toBay_coresApart h)) _ _ _ _ _ _ 

theorem raiseSummaries_coresApart : CoresApart raiseSummaries := by
  have hfold : ∀ l : List (Half × BitVec 3 × Word × DWord × DWord), CoresApart fun s => l.foldl raiseSummary s := by
    intro l
    induction l with
    | nil => exact fun _ _ => rfl
    | cons e r ih => exact ih.comp (raiseSummary_coresApart e)
  exact fun s m => hfold s.evt.summarised { s with evt.summarised := [] } m

theorem windowCounts_coresApart : CoresApart windowCounts := by
  intro s m
  unfold windowCounts
  rw [show now { s with cores := m } = now s from rfl]
  dsimp only
  split
  · rfl
  · rw [raiseSummaries_coresApart s m]

theorem windowCounts_evt_setCore (s : State) (c : Nat) (k : Core) : (windowCounts (setCore s c k)).evt = (windowCounts s).evt :=
  congrArg (·.evt) (windowCounts_coresApart s (setCore s c k).cores)

theorem getCore_windowCounts (s : State) (c : Nat) : getCore (windowCounts s) c = getCore s c := by
  obtain ⟨e, b, h⟩ := windowCounts_onlyEvents s
  rw [h]
  rfl

/-! An event of class GROUP. -/

/-- R443: the record of an event of class GROUP. -/
def groupRecord (code : Nat) (stream : Half) (core : CoreId) (detail : List Word) (s : State) : Record :=
  (newRecord code 4 false false stream core detail (groupRaised (windowCounts s))).1

/-- The state in which it arrives at the Bay writer: a start or a switch has noted it, and it has its SEQ. -/
def groupNoted (s : State) : State := { groupRaised (windowCounts s) with evt.nextSeq := (groupRaised (windowCounts s)).evt.nextSeq + 1 }

theorem groupNoted_evt (s : State) :
    (groupNoted s).evt = { (windowCounts s).evt with nextSeq := (windowCounts s).evt.nextSeq + 1 } := by
  obtain ⟨h, g, e⟩ := groupRaised_only (windowCounts s)
  rw [groupNoted, e]

theorem getCore_groupNoted (s : State) (c : Nat) : getCore (groupNoted s) c = getCore s c := by
  obtain ⟨h, g, e⟩ := groupRaised_only (windowCounts s)
  rw [groupNoted, e, ← getCore_windowCounts s c]
  rfl

section
variable (code : Nat) (stream : Half) (core : CoreId) (detail : List Word) (s : State)

theorem groupRecord_seq : (groupRecord code stream core detail s).seq = (windowCounts s).evt.nextSeq := by
  obtain ⟨h, g, e⟩ := groupRaised_only (windowCounts s)
  rw [groupRecord, e]
  rfl

/-- R445, R446: with room in the error queue the record enters it. -/
theorem raise_group (hc : eventClass code = 4) (hroom : heldCount (windowCounts s).evt < 255) : raise code stream core detail s =
    enqueue (groupRecord code stream core detail s) (toBay (groupRecord code stream core detail s) (groupNoted s)) := by
  have harrive := arrive_room (r := groupRecord code stream core detail s)
    (s := toBay (groupRecord code stream core detail s) (groupNoted s)) (by rw [toBay_evt, groupNoted_evt]; exact hroom)
  rw [raise, hc, ← harrive]
  rfl

/-- The next record takes the next SEQ, this one is in the queue, and at most a core counts its wait. -/
theorem raise_group_effect (hc : eventClass code = 4) (hroom : heldCount (windowCounts s).evt < 255) :
    (raise code stream core detail s).evt.nextSeq = (windowCounts s).evt.nextSeq + 1 ∧
    groupRecord code stream core detail s ∈
      (raise code stream core detail s).evt.handling.toList ++ (raise code stream core detail s).evt.waiting ∧
    ∀ c, StallsOnly (getCore s c) (getCore (raise code stream core detail s) c) := by
  rw [raise_group code stream core detail s hc hroom]
  refine ⟨by rw [enqueue_nextSeq, toBay_evt, groupNoted_evt], mem_enqueue _ _, fun c => ?_⟩
  rw [getCore_enqueue, ← getCore_groupNoted s c]
  exact toBay_stallsOnly _ _ c

end

end Sys2Proof.Laws
end

section
/-! SUPPORT. What the end and the halt of an operation leave (R83, R224, R228, R232, R280). -/

namespace Sys2Proof.Laws

open Sys2Proof.Machine Sys2Proof.Claims

/-! The end. -/

theorem vget_map {α β : Type} {n : Nat} (d : α) (e : β) (v : Vector α n) (f : α → β) {i : Nat} (h : i < n) :
    vget e (v.map f) i = f (vget d v i) := by
  simp [vget, List.getD, h]

theorem getRing_endOp (k : Core) (id : Nat) {r : Nat} (h : r < 16) : getRing (endOp k id) r = { getRing k r with
    writer := if (getRing k r).writer = some id then none else (getRing k r).writer
    reader := if (getRing k r).reader = some id then none else (getRing k r).reader } :=
  vget_map _ _ k.rings _ h

/-- R232: an operation that ends has left the core. -/
theorem left_endOp (id : Nat) (k : Core) : Left id k (endOp k id) := by
  refine ⟨by simp [endOp], rfl, rfl, fun r h => ?_⟩
  rw [getRing_endOp k id h]
  constructor
  · dsimp only
    split
    · exact nofun
    · assumption
  · dsimp only
    split
    · exact nofun
    · assumption

theorem StallsOnly.left {id : Nat} {k k' k'' : Core} (h : StallsOnly k' k'') (hl : Left id k k') : Left id k k'' := by
  obtain ⟨n, m, rfl⟩ := h
  exact hl

/-! The halt. -/

/-- R83: an operation that works for no token and writes no ring ends, and its event is raised. -/
theorem haltOp_bare {c : Nat} {o : Op} {s : State} (ev : State → State) (cause : Nat) (ht : o.tok = none)
    (hw : ringsWritten (getCore s c) o.id = []) : haltOp c o ev cause s = ev (setCore s c (endOp (getCore s c) o.id)) := by
  simp [haltOp, opPoisoned, ht, hw, modCore]

/-- R280: an operation that has reached no poison slot releases none. -/
theorem releasePoison_none {c id : Nat} {s : State}
    (h : ∀ r, r < 16 → (getRing (getCore s c) r).reader = some id →
      ∀ q ∈ (getRing (getCore s c) r).slots, ¬ (q.poison = true ∧ q.state = .read)) : releasePoison c id s = s := by
  refine List.foldlRecOn (motive := fun t => t = s) _ _ rfl fun t ht r hr => ?_
  subst ht
  dsimp only
  split
  next hreader =>
    rw [List.filter_eq_nil_iff.mpr fun q hq hp => h r (List.mem_range.mp hr) hreader q hq (by simpa using hp)]
    rfl
  next => rfl

theorem poisonHalt_bare {c : Nat} {o : Op} {s : State} (ht : o.tok = none) (hw : ringsWritten (getCore s c) o.id = [])
    (h : ∀ r, r < 16 → (getRing (getCore s c) r).reader = some o.id →
      ∀ q ∈ (getRing (getCore s c) r).slots, ¬ (q.poison = true ∧ q.state = .read)) :
    poisonHalt c o s = setCore s c (endOp (getCore s c) o.id) := by
  rw [poisonHalt, releasePoison_none h, haltOp_bare id _ ht hw]
  rfl

theorem rawHalt_bare {c : Nat} {o : Op} {s : State} (write : Bool) (rank ring slot addr : Nat) (ht : o.tok = none)
    (hw : ringsWritten (getCore s c) o.id = []) : rawHalt c o write rank ring slot addr s =
      raise (if write then 0x0202 else 0x0203) noStream (BitVec.ofNat 17 c)
        (evPrefix o.unit.toNat 0xFF 0 ++ ringDetail ring slot rank addr 0x1FFFF) (setCore s c (endOp (getCore s c) o.id)) := by
  rw [rawHalt, haltOp_bare _ _ ht hw]
  simp only [raiseOp, opPrefix, ht]

/-- Table 15.2: RING_OVERRUN and RING_UNDERREAD are of class GROUP. -/
theorem eventClass_raw (write : Bool) : eventClass (if write then 0x0202 else 0x0203) = 4 := by
  cases write <;> rfl

end Sys2Proof.Laws
end

section
/-! SUPPORT. ME_OPERATION_HALT (R82, R83, R228, R280): the three ways in which the next tile halts its operation. -/

namespace Sys2Proof.Laws

open Sys2Proof.Machine Sys2Proof.Claims

/-- R249: an event of a core that runs, after which its DMA engine goes on. -/
theorem coreEvent_next {core : CoreId} {s : State} (f : Nat → State → State) (h : CoreRuns core s []) :
    coreEvent core f s = .next (dmaRun core.toNat (f core.toNat s)) := by
  obtain ⟨hexists, hislands, -⟩ := h
  exact withCore_next core _ s hexists hislands

section
variable {c id : Nat} {s s1 : State} {x : Op} (hb : meBegin c s = some (s1, id)) (hx : findOp (getCore s1 c) id = some x)
include hb hx

/-- R82, R83: the first failing block. -/
theorem meHalt_fault {b pass operand cause : Nat} (hf : meFault s1 (getCore s1 c) x = some (b, pass, operand, cause)) :
    meHalt c s = scaleHalt c x cause (mePosition (meT x) (meJ x) b pass operand (tileBank x))
      (setCore s1 c (zeroBank (getCore s1 c) (tileBank x))) := by
  simp only [meHalt, hb, hx, hf]

/-- R280: a poison slot. -/
theorem meHalt_poisoned (hf : meFault s1 (getCore s1 c) x = none) (hr : (meReady (getCore s1 c) x).2.1 = .poisoned) :
    meHalt c s = poisonHalt c x (setCore s1 c (zeroBank (getCore s1 c) (tileBank x))) := by
  simp only [meHalt, hb, hx, hf, hr]

/-- R228: a raw access inside a ring. -/
theorem meHalt_raw {w : Bool} {r i a : Nat} (hf : meFault s1 (getCore s1 c) x = none)
    (hr : (meReady (getCore s1 c) x).2.1 = .raw w r i a) :
    meHalt c s = rawHalt c x w (if w then 4 else 1) r i a (setCore s1 c (zeroBank (getCore s1 c) (tileBank x))) := by
  simp only [meHalt, hb, hx, hf, hr]

end

/-- R83: the bank starts from zero at its next use, and the scratchpad and the operations stay. -/
theorem zeroBank_zero (k : Core) (b : Nat) : (if b = 0 then (zeroBank k b).me.zero0 else (zeroBank k b).me.zero1) = true ∧
    (zeroBank k b).sp = k.sp ∧ (zeroBank k b).ops = k.ops := by
  unfold zeroBank
  split <;> exact ⟨rfl, rfl, rfl⟩

end Sys2Proof.Laws
end

section
/-! The statements on the halt of an operation. -/

namespace Sys2Proof.Proofs

open Sys2Proof.Machine Sys2Proof.Claims Sys2Proof.Laws

/-- Settles O17: the command runs `meHalt`, which halts by the tile's first failing block, else by what its operands wait for. -/
theorem matrixOperationHalts : Obligations.MatrixOperationHalts := by
  unfold Obligations.MatrixOperationHalts
  intro core s s1 id x hruns c k z hb hx
  have hexec : exec (.meOperationHalt core) s = .next (dmaRun c (meHalt c s)) := coreEvent_next meHalt hruns
  rw [hexec]
  exact ⟨fun _ _ _ _ hf => by rw [meHalt_fault hb hx hf], fun hf hr => by rw [meHalt_poisoned hb hx hf hr],
    fun _ _ _ _ hf hr => by rw [meHalt_raw hb hx hf hr], zeroBank_zero k (tileBank x)⟩

/-- Settles O18: without a token and without a ring of its own, a halt is `endOp` and the event, which `raise_group_effect` describes. -/
theorem haltedOperationLeaves : Obligations.HaltedOperationLeaves := by
  unfold Obligations.HaltedOperationLeaves
  intro c s x ht hw k v
  refine ⟨fun hp => ?_, fun w rank ring slot addr t hroom hraw => ?_⟩
  · rw [poisonHalt_bare ht hw hp, getCore_setCore_same]
    exact ⟨rfl, left_endOp x.id k⟩
  · have hevt : (windowCounts (setCore s c (endOp k x.id))).evt = v.evt := windowCounts_evt_setCore s c _
    obtain ⟨hseq, hmem, hstalls⟩ := raise_group_effect _ noStream (BitVec.ofNat 17 c)
      (evPrefix x.unit.toNat 0xFF 0 ++ ringDetail ring slot rank addr 0x1FFFF) (setCore s c (endOp k x.id)) (eventClass_raw w)
      (by rwa [hevt])
    rw [← rawHalt_bare w rank ring slot addr ht hw, ← hraw] at hseq hmem hstalls
    have hcore := hstalls c
    rw [getCore_setCore_same] at hcore
    have hleft := hcore.left (left_endOp x.id k)
    obtain ⟨n, m, hk⟩ := hcore
    refine ⟨by rw [hk]; rfl, by rw [hk]; rfl, by rw [hk]; rfl, by rw [hk]; rfl, hleft, by rw [hseq, hevt], _, hmem, ?_, rfl,
      by rw [groupRecord_seq, hevt], rfl⟩
    cases w <;> rfl

end Sys2Proof.Proofs
end

section
/-! SUPPORT. Events of class below GROUP: of the cores, only stall counters change (R246, R443-R450, R453). -/

namespace Sys2Proof.Laws

open Sys2Proof.Machine

theorem StallsOnly.trans {k k' k'' : Core} (h : StallsOnly k k') (h' : StallsOnly k' k'') : StallsOnly k k'' := by
  obtain ⟨n, m, rfl⟩ := h
  obtain ⟨n', m', rfl⟩ := h'
  exact ⟨n', m', rfl⟩

/-- Of every core, only the stall counters differ. -/
def CoresStalled (s t : State) : Prop := ∀ c, StallsOnly (getCore s c) (getCore t c)

theorem CoresStalled.of_cores {s t : State} (h : t.cores = s.cores) : CoresStalled s t := fun c => by
  rw [getCore, getCore, h]
  exact .refl _

theorem CoresStalled.refl (s : State) : CoresStalled s s := .of_cores rfl

theorem CoresStalled.trans {s t u : State} (h : CoresStalled s t) (h' : CoresStalled t u) : CoresStalled s u :=
  fun c => (h c).trans (h' c)

theorem CoresStalled.ite {s t u : State} {p : Prop} [Decidable p] (ht : CoresStalled s t) (hu : CoresStalled s u) :
    CoresStalled s (if p then t else u) := by
  split
  · exact ht
  · exact hu

theorem OnlyEvents.coresStalled {s t : State} (h : OnlyEvents s t) : CoresStalled s t := by
  obtain ⟨e, b, rfl⟩ := h
  exact .of_cores rfl

theorem toBay_coresStalled (r : Record) (s : State) : CoresStalled s (toBay r s) := toBay_stallsOnly r s

/-- R445, R453: an event below class GROUP changes no core but for the wait that its record may count. -/
theorem raise_coresStalled {code : Nat} (stream : Half) (core : CoreId) (detail : List Word) (s : State) (hc : eventClass code < 4) :
    CoresStalled s (raise code stream core detail s) := by
  unfold raise raiseAs
  refine (windowCounts_onlyEvents s).coresStalled.trans (.ite (.of_cores rfl) ?_)
  dsimp only
  rw [if_neg (show eventClass code ≠ 4 by omega), if_neg (show eventClass code ≠ 5 by omega)]
  refine .trans ?_ ((toBay_coresStalled _ _).trans (arrive_onlyEvents _ _).coresStalled)
  exact .ite (.of_cores rfl) (.ite (.of_cores rfl) (.of_cores rfl))

/-! What an operation's work counts for its chunk. -/

theorem chunkEv_coresStalled (n : Nat) (num : DWord) (layer : Nat) (e : Ev) (s : State) : CoresStalled s (chunkEv n num layer e s) := by
  unfold chunkEv
  split
  · exact .refl s
  next ch _ =>
    extract_lets w grow s1 s2 s3 p s4 s5
    have hcounts : CoresStalled s s3 := .of_cores rfl
    have hnonfinite : CoresStalled s3 s4 := .ite (raise_coresStalled _ _ _ _ (by decide)) (.refl _)
    have hgrowth : CoresStalled s4 s5 := .ite (raise_coresStalled _ _ _ _ (by decide)) (.refl _)
    exact hcounts.trans (hnonfinite.trans (hgrowth.trans (.ite (raise_coresStalled _ _ _ _ (by decide)) (.refl _))))

theorem poisonChunk_coresStalled (n : Nat) (num : DWord) (unit layer : Nat) (core : CoreId) (granule : Nat) (s : State) :
    CoresStalled s (poisonChunk n num unit layer core granule s) := by
  unfold poisonChunk
  split
  · exact .refl s
  · exact .trans (.of_cores rfl) (.ite (.refl _) (.trans (.of_cores rfl) (raise_coresStalled _ _ _ _ (by decide))))

theorem opEv_coresStalled (o : Op) (e : Ev) (s : State) : CoresStalled s (opEv o e s) := by
  unfold opEv
  split
  · exact chunkEv_coresStalled _ _ _ _ _
  · exact .refl s

theorem opPoisoned_coresStalled (c : Nat) (o : Op) (s : State) : CoresStalled s (opPoisoned c o s) := by
  unfold opPoisoned
  split
  · exact .ite (poisonChunk_coresStalled _ _ _ _ _ _ _) (.refl s)
  · exact .refl s

theorem noteBuilt_coresStalled (o : Op) (i4 i8 : Bool) (s : State) : CoresStalled s (noteBuilt o i4 i8 s) := by
  unfold noteBuilt
  split <;> exact .of_cores rfl

theorem opTensor_coresStalled (o : Op) (i sat count : Nat) (s : State) : CoresStalled s (opTensor o i sat count s) := by
  unfold opTensor
  split <;> exact .of_cores rfl

end Sys2Proof.Laws
end

section
/-! SUPPORT. The progress of an operation in flight (R221, R223, R240): what it takes from rings, writes to scratchpad and
forms for rings changes neither context of its core, nor what it was issued with. -/

namespace Sys2Proof.Laws

open Sys2Proof.Machine

/-! The operation named by an id. -/

theorem findOp_id {k : Core} {id : Nat} {o : Op} (h : findOp k id = some o) : o.id = id := by
  simpa using List.find?_some h

/-- An operation that is in flight, or stands for itself. -/
theorem findOp_getD_id (k : Core) (o : Op) : ((findOp k o.id).getD o).id = o.id := by
  cases h : findOp k o.id with
  | none => rfl
  | some x => exact findOp_id h

/-- A change of operations that keeps their ids. -/
theorem findOp_map_ops {k k' : Core} {f : Op → Op} (hops : k'.ops = k.ops.map f) (hf : ∀ p, (f p).id = p.id) (id : Nat) :
    findOp k' id = (findOp k id).map f := by
  rw [findOp, hops, List.find?_map]
  exact congrArg (Option.map f) (congrArg (List.find? · k.ops) (funext fun p => by simp [hf]))

theorem findOp_putOp (k : Core) (o : Op) : findOp (putOp k o) o.id = (findOp k o.id).map fun _ => o := by
  rw [findOp_map_ops (k := k) rfl (fun p => by split <;> simp [*])]
  exact Option.map_congr fun p hp => if_pos (findOp_id hp)

theorem findOp_endOp (k : Core) (id : Nat) : findOp (endOp k id) id = none := by
  simp [findOp, endOp]

/-- The operation that a unit executes is in flight. -/
theorem findOp_isSome_of_headOp {k : Core} {u : Nat} {o : Op} (h : headOp k u = some o) : (findOp k o.id).isSome = true := by
  have hmem : o ∈ k.ops := (List.mem_filter.mp (List.mem_of_mem_head? h)).1
  exact List.find?_isSome.mpr ⟨o, hmem, by simp⟩

/-! What progress keeps. -/

/-- What an operation was issued with and its unit, which its progress does not change. -/
def issuedAs (o : Op) : BitVec 3 × List Word × BitVec 1 := (o.unit, o.desc, o.ctx)

/-- The contexts are as before, and the operation of this id, if any, is the one that was issued. -/
def Progress (id : Nat) (k k' : Core) : Prop :=
  k'.ctx0 = k.ctx0 ∧ k'.ctx1 = k.ctx1 ∧ (findOp k' id).map issuedAs = (findOp k id).map issuedAs

/-- The contexts and the operations are as before. -/
def OpsKept (k k' : Core) : Prop := k'.ctx0 = k.ctx0 ∧ k'.ctx1 = k.ctx1 ∧ k'.ops = k.ops

section
variable {id : Nat} {k k' k'' : Core}

theorem OpsKept.refl (k : Core) : OpsKept k k := ⟨rfl, rfl, rfl⟩

theorem OpsKept.trans (h : OpsKept k k') (h' : OpsKept k' k'') : OpsKept k k'' :=
  ⟨h'.1.trans h.1, h'.2.1.trans h.2.1, h'.2.2.trans h.2.2⟩

theorem OpsKept.ite {p : Prop} [Decidable p] (h : OpsKept k k') (h' : OpsKept k k'') : OpsKept k (if p then k' else k'') := by
  split
  · exact h
  · exact h'

theorem OpsKept.foldl {α : Type} {f : Core → α → Core} (h : ∀ k a, OpsKept k (f k a)) (l : List α) (k : Core) : OpsKept k (l.foldl f k) :=
  List.foldlRecOn (motive := OpsKept k) l f (.refl k) fun k' hk a _ => hk.trans (h k' a)

theorem OpsKept.findOp (h : OpsKept k k') (id : Nat) : findOp k' id = findOp k id := by
  rw [Machine.findOp, Machine.findOp, h.2.2]

theorem OpsKept.progress (h : OpsKept k k') : Progress id k k' := ⟨h.1, h.2.1, by rw [h.findOp]⟩

theorem StallsOnly.opsKept (h : StallsOnly k k') : OpsKept k k' := by
  obtain ⟨n, m, rfl⟩ := h
  exact ⟨rfl, rfl, rfl⟩

theorem StallsOnly.sp (h : StallsOnly k k') : k'.sp = k.sp := by
  obtain ⟨n, m, rfl⟩ := h
  rfl

theorem countStall_opsKept (cause n : Nat) (k : Core) : OpsKept k (countStall cause n k) := (countStall_stallsOnly cause n k).opsKept

theorem opWrite_opsKept (k : Core) (o : Op) (a : Nat) (bs : List Byte) : OpsKept k (opWrite k o a bs) := ⟨rfl, rfl, rfl⟩

theorem setRing_opsKept (k : Core) (r : Nat) (x : Ring) : OpsKept k (setRing k r x) := ⟨rfl, rfl, rfl⟩

theorem Progress.refl (id : Nat) (k : Core) : Progress id k k := ⟨rfl, rfl, rfl⟩

theorem Progress.trans (h : Progress id k k') (h' : Progress id k' k'') : Progress id k k'' :=
  ⟨h'.1.trans h.1, h'.2.1.trans h.2.1, h'.2.2.trans h.2.2⟩

theorem Progress.foldl {α : Type} {f : Core → α → Core} (h : ∀ k a, Progress id k (f k a)) (l : List α) (k : Core) :
    Progress id k (l.foldl f k) :=
  List.foldlRecOn (motive := Progress id k) l f (.refl id k) fun k' hk a _ => hk.trans (h k' a)

/-- An operation in flight is put in its own place. -/
theorem putOp_progress {o o' : Op} (h : findOp k id = some o) (hid : o'.id = o.id) (hi : issuedAs o' = issuedAs o) :
    Progress id k (putOp k o') := by
  refine ⟨rfl, rfl, ?_⟩
  obtain rfl : o'.id = id := hid.trans (findOp_id h)
  rw [findOp_putOp, h, Option.map_map, Option.map_some, Option.map_some, Function.comp_apply, hi]

/-- An operation that stays in flight through progress. -/
theorem Progress.found {o : Op} (hp : Progress id k k') (h : findOp k id = some o) :
    ∃ o', findOp k' id = some o' ∧ issuedAs o' = issuedAs o := by
  have hi := hp.2.2
  rw [h] at hi
  simpa using hi

end

/-! Ring input. -/

theorem pull_progress (f : Nat) (k : Core) (id r need : Nat) : Progress id k (pull f k id r need) := by
  induction f generalizing k with
  | zero => exact .refl id k
  | succ f ih =>
    unfold pull
    split
    · exact .refl id k
    next o ho =>
      dsimp only
      split
      · exact .refl id k
      next q _ =>
        split
        · refine .trans ?_ (ih _)
          exact (setRing_opsKept k r _).progress.trans (putOp_progress ho rfl rfl)
        · exact .refl id k

theorem pullRing_progress (k : Core) (id r need : Nat) : Progress id k (pullRing k id r need) := pull_progress _ k id r need

/-! Ring output. -/

/-- Bytes appended for a ring change only what the operation has formed. -/
theorem toRing_issued (k : Core) (o : Op) (r : Nat) (tagf : Nat → Half) (bs : List Byte) :
    (toRing k o r tagf bs).id = o.id ∧ issuedAs (toRing k o r tagf bs) = issuedAs o := by
  have hput : ∀ (f sb : Nat) (o : Op) (bs : List Byte), (putRing f o r sb tagf bs).id = o.id ∧ issuedAs (putRing f o r sb tagf bs) = issuedAs o := by
    intro f sb
    induction f with
    | zero => exact fun _ _ => ⟨rfl, rfl⟩
    | succ f ih =>
      intro o bs
      unfold putRing
      dsimp only
      split
      · exact ih _ _
      · exact ⟨rfl, rfl⟩
  exact hput _ _ o bs

theorem toRing_progress {k : Core} {id : Nat} {o : Op} (h : findOp k id = some o) (r : Nat) (tagf : Nat → Half) (bs : List Byte) :
    Progress id k (putOp k (toRing k o r tagf bs)) :=
  putOp_progress h (toRing_issued k o r tagf bs).1 (toRing_issued k o r tagf bs).2

/-- A slot taken for the operation. -/
theorem slotFor_progress {k k' : Core} {o o' : Op} {r i : Nat} {st : SlotState} {tag : Half}
    (h : slotFor k o r st tag = some (k', o', i)) : OpsKept k k' ∧ o'.id = o.id ∧ issuedAs o' = issuedAs o := by
  unfold slotFor at h
  split at h
  · cases h
    refine ⟨setRing_opsKept k r _, ?_⟩
    split <;> exact ⟨rfl, rfl⟩
  · obtain ⟨⟨y, j⟩, -, hy⟩ := Option.map_eq_some_iff.mp h
    cases hy
    refine ⟨setRing_opsKept k r _, ?_⟩
    split <;> exact ⟨rfl, rfl⟩

theorem pushOut_progress (f : Nat) (k : Core) (id : Nat) : Progress id k (pushOut f k id) := by
  induction f generalizing k with
  | zero => exact .refl id k
  | succ f ih =>
    unfold pushOut
    split
    · exact .refl id k
    next o ho =>
      split
      · exact .refl id k
      next r tag bs rest _ =>
        split
        · exact (countStall_opsKept 1 1 k).progress
        next k' o' i hs =>
          obtain ⟨hk, hid, hi⟩ := slotFor_progress hs
          have hw : OpsKept k (spWrite k' (slotAddr (getRing k' r) i) bs o'.poison) := hk.trans ⟨rfl, rfl, rfl⟩
          have ho' : findOp (spWrite k' (slotAddr (getRing k' r) i) bs o'.poison) id = some o := (hw.findOp id).trans ho
          refine .trans ?_ (ih _)
          exact hw.progress.trans (putOp_progress ho' hid hi)

theorem openParts_progress (k : Core) (id : Nat) : Progress id k (openParts k id) := by
  unfold openParts
  split
  · exact .refl id k
  · refine .foldl (fun k p => ?_) _ k
    split
    · exact .refl id k
    next o ho =>
      split
      · exact .refl id k
      split
      · exact .refl id k
      split
      · exact (countStall_opsKept 1 1 k).progress
      next k' o' i hs =>
        obtain ⟨hk, hid, hi⟩ := slotFor_progress hs
        exact hk.progress.trans (putOp_progress ((hk.findOp id).trans ho) hid hi)

theorem pushAll_progress (k : Core) (id : Nat) : Progress id k (pushAll k id) :=
  (pushOut_progress _ k id).trans (openParts_progress _ id)

theorem flushParts_progress (c id : Nat) (s : State) : Progress id (getCore s c) (getCore (flushParts c id s) c) := by
  unfold flushParts
  split
  · exact .refl id _
  · refine List.foldlRecOn (motive := fun t => Progress id (getCore s c) (getCore t c)) _ _ (.refl id _) fun t ht p _ => ?_
    split
    · exact ht
    dsimp only
    split
    · exact ht
    next o ho =>
      rw [getCore_setCore_same]
      exact ht.trans (putOp_progress (o := o) ho rfl rfl)

/-! An operation with no output in the making. -/

/-- Nothing of its output waits for a slot, and no slot is begun. -/
def NothingFormed (o : Op) : Prop := o.outBuf = [] ∧ ∀ p ∈ o.part, p.2 = []

theorem NothingFormed.of_nil {o : Op} (hbuf : o.outBuf = []) (hpart : o.part = []) : NothingFormed o :=
  ⟨hbuf, fun _ hp => absurd (hpart ▸ hp) List.not_mem_nil⟩

theorem pushAll_nothing {k : Core} {id : Nat} {o : Op} (h : findOp k id = some o) (hn : NothingFormed o) : pushAll k id = k := by
  obtain ⟨hbuf, hpart⟩ := hn
  have hfilter : (o.part.filter fun p => decide (p.2 ≠ [])) = [] := by simpa using fun a b hp => hpart (a, b) hp
  simp only [pushAll, h, hbuf, Option.map_some, Option.getD_some, List.length_nil, pushOut, openParts, hfilter, List.foldl_nil]

theorem flushParts_nothing {c id : Nat} {s : State} {o : Op} (h : findOp (getCore s c) id = some o) (hn : NothingFormed o) :
    flushParts c id s = s := by
  simp only [flushParts, h]
  refine List.foldlRecOn (motive := fun t => t = s) _ _ rfl fun t ht p hp => ?_
  rw [if_pos (hn.2 p hp), ht]

/-! The end of the last output. -/

/-- R232: an operation of which nothing waits leaves. -/
theorem finishOp_nothing {c id : Nat} {s : State} {o : Op} (h : findOp (getCore s c) id = some o) (hn : NothingFormed o) :
    StallsOnly (endOp (getCore s c) id) (getCore (finishOp c id s) c) := by
  have hp := opPoisoned_coresStalled c o (setCore (setCore s c (getCore s c)) c (endOp (getCore s c) id)) c
  rw [getCore_setCore_same] at hp
  simpa [finishOp, flushParts_nothing h hn, modCore, pushAll_nothing h hn, h, hn.1] using hp

/-- R232: the operation has left or has its last output formed, and the contexts are as before. -/
theorem finishOp_effect (c id : Nat) (s : State) :
    (getCore (finishOp c id s) c).ctx0 = (getCore s c).ctx0 ∧ (getCore (finishOp c id s) c).ctx1 = (getCore s c).ctx1 ∧
    ∀ y, findOp (getCore (finishOp c id s) c) id = some y → y.ended = true := by
  have hp : Progress id (getCore s c) (getCore (modCore (flushParts c id s) c fun k => pushAll k id) c) := by
    rw [modCore, getCore_setCore_same]
    exact (flushParts_progress c id s).trans (pushAll_progress _ id)
  unfold finishOp
  dsimp only
  generalize (modCore (flushParts c id s) c fun k => pushAll k id) = u at hp ⊢
  obtain ⟨h0, h1, -⟩ := hp
  split
  next hnone => exact ⟨h0, h1, fun y hy => by simp [hnone] at hy⟩
  next o ho =>
    split
    · have hk := (opPoisoned_coresStalled c o (modCore u c fun k => endOp k id) c).opsKept
      rw [modCore, getCore_setCore_same] at hk
      refine ⟨hk.1.trans h0, hk.2.1.trans h1, fun y hy => ?_⟩
      have hnone := (hk.findOp id).trans (findOp_endOp _ id)
      rw [modCore, hnone] at hy
      cases hy
    · rw [modCore, getCore_setCore_same]
      refine ⟨h0, h1, fun y hy => ?_⟩
      obtain rfl := findOp_id ho
      have hput := findOp_putOp (getCore u c) { o with ended := true }
      obtain rfl : { o with ended := true } = y := by
        simpa [ho] using hput.symm.trans hy
      rfl

end Sys2Proof.Laws
end

section
/-! SUPPORT. EC_OPERATION_COMPLETE and EC_OPERATION_HALT (R129, R132, R136): the work of the lane groups, its delivery, and
the obstacles of a lane group. -/

namespace Sys2Proof.Laws

open Sys2Proof.Machine Sys2Proof.Claims

/-! Registers of a context that a delivery sets. -/

theorem regOf_setRegOf (k : Core) (c ctx : BitVec 1) (r : RegId) (v : Word) {i : Nat} (hi : i < 32) :
    regOf (setRegOf k c r v) ctx i = if ctx = c ∧ i = r.toNat then v else regOf k ctx i := by
  have hset : ∀ regs : Vector Word 32, (regs.set r.toNat v r.isLt).getD i 0 = if i = r.toNat then v else regs.getD i 0 := by
    intro regs
    by_cases h : i = r.toNat
    · subst h
      simp [Vector.getD]
    · simp [Vector.getD, hi, h, Ne.symm h]
  have hbit : ∀ b : BitVec 1, b = 0 ∨ b = 1 := by decide
  rcases hbit c with rfl | rfl <;> rcases hbit ctx with rfl | rfl
  · exact (hset k.ctx0.regs).trans (ite_congr (propext (and_iff_right rfl).symm) (fun _ => rfl) (fun _ => rfl))
  · exact (if_neg fun h => absurd h.1 (by decide)).symm
  · exact (if_neg fun h => absurd h.1 (by decide)).symm
  · exact (hset k.ctx1.regs).trans (ite_congr (propext (and_iff_right rfl).symm) (fun _ => rfl) (fun _ => rfl))

theorem ecSumReg_lt (o : Op) : ecSumReg o < 32 := Nat.mod_lt _ (by decide)

/-- The summary of an operation sets SUM_REG alone, and only with SUM_EN and RED. -/
theorem regOf_deliver (o : Op) (k : Core) (ctx : BitVec 1) {i : Nat} (hi : i < 32) : regOf (deliver o k) ctx i =
    if ecSumEn o = true ∧ (ecRed o.desc).isSome = true ∧ ctx = o.ctx ∧ i = ecSumReg o then nth o.results 0 else regOf k ctx i := by
  have hsumw : regOf (setSumw k o.ctx (nth o.results 1)) ctx i = regOf k ctx i := by
    unfold setSumw
    split <;> rfl
  have hreg : (BitVec.ofNat 5 (ecSumReg o)).toNat = ecSumReg o := Nat.mod_eq_of_lt (ecSumReg_lt o)
  unfold deliver
  by_cases he : ecSumEn o = true
  · by_cases hr : (ecRed o.desc).isSome = true
    · simp [he, hr, regOf_setRegOf _ _ _ _ _ hi, hreg, hsumw]
    · simp [he, hr, hsumw]
  · simp [he]

theorem sumwOf_setRegOf (k : Core) (c ctx : BitVec 1) (r : RegId) (v : Word) : sumwOf (setRegOf k c r v) ctx = sumwOf k ctx := by
  unfold setRegOf
  split <;> rfl

theorem sumwOf_deliver (o : Op) (k : Core) (he : ecSumEn o = true) : sumwOf (deliver o k) o.ctx = nth o.results 1 := by
  have hsum : sumwOf (setSumw k o.ctx (nth o.results 1)) o.ctx = nth o.results 1 := by
    unfold setSumw
    split
    next h => exact if_pos h
    next h => exact if_neg h
  rw [deliver, if_pos he]
  dsimp only
  split
  · rw [sumwOf_setRegOf, hsum]
  · exact hsum

/-- A delivery leaves the PCs, the scratchpad and the operations. -/
theorem deliver_keeps (o : Op) (k : Core) : (deliver o k).ctx0.pc = k.ctx0.pc ∧ (deliver o k).ctx1.pc = k.ctx1.pc ∧
    (deliver o k).sp = k.sp ∧ (deliver o k).ops = k.ops := by
  have hsumw : (setSumw k o.ctx (nth o.results 1)).ctx0.pc = k.ctx0.pc ∧ (setSumw k o.ctx (nth o.results 1)).ctx1.pc = k.ctx1.pc ∧
      (setSumw k o.ctx (nth o.results 1)).sp = k.sp ∧ (setSumw k o.ctx (nth o.results 1)).ops = k.ops := by
    unfold setSumw
    split <;> exact ⟨rfl, rfl, rfl, rfl⟩
  unfold deliver
  split
  · dsimp only
    split
    · unfold setRegOf
      split <;> exact hsumw
    · exact hsumw
  · exact ⟨rfl, rfl, rfl, rfl⟩

/-! Input and output of the lane groups. -/

theorem ecPull_progress (k : Core) (o : Op) : Progress o.id k (ecPull k o) := by
  have hone : ∀ (k : Core) (t : List Word) (on : Bool),
      Progress o.id k (if on && decide (tSrc t = 1) then pullRing k o.id (tRing t) (tRows t * rowLen t) else k) := by
    intro k t on
    split
    · exact pullRing_progress _ _ _ _
    · exact .refl _ _
  exact (hone k _ true).trans ((hone _ _ _).trans (hone _ _ _))

/-- The operation as its ring input leaves it. -/
theorem ecPull_found {k : Core} {o x : Op} (h : headOp k 1 = some o) (hx : (findOp (ecPull k o) o.id).getD o = x) :
    x.id = o.id ∧ findOp (ecPull k o) x.id = some x := by
  obtain ⟨y, hy⟩ := Option.isSome_iff_exists.mp (findOp_isSome_of_headOp h)
  obtain ⟨z, hz, -⟩ := (ecPull_progress k o).found hy
  rw [hz] at hx
  obtain rfl : z = x := hx
  have hid := findOp_id hz
  exact ⟨hid, hid ▸ hz⟩

theorem writeElem_opsKept (k : Core) (o : Op) (free : Nat → Nat) (r i v : Nat) (pred : Bool) :
    OpsKept k (writeElem k o free r i v pred) := by
  unfold writeElem
  exact .ite (.refl k) (.ite (opWrite_opsKept _ _ _ _) (.ite (opWrite_opsKept _ _ _ _) (opWrite_opsKept _ _ _ _)))

section
variable (k : Core) (o : Op) (free : Nat → Nat) (outs : List (List (Nat × Nat × Bool × Ev) × List Nat)) (done : Nat)

/-- The elements of O go to their place, then the scales of derived blocks by address; only a ring takes elements into the
operation itself. -/
theorem writeOut_elems : ∃ k1, (tSrc (tO o.desc) ≠ 1 → OpsKept k k1) ∧ Progress o.id k k1 ∧ OpsKept k1 (writeOut k o free outs done) := by
  unfold writeOut
  extract_lets d x t rows g tagf k1
  refine ⟨k1, ?_⟩
  have hscales : OpsKept k1 (rows.foldl (fun k r => (List.range (tBlocks x)).foldl (fun k b =>
      if r * g + (min (32 * b + 31) (tD x 0 - 1)) / 8 < done then
        opWrite k o (tScale t + r * tBlocks x + b) [BitVec.ofNat 8 ((outs.getD r ([], [])).2.getD b 0)]
      else k) k) k1) :=
    .foldl (fun k r => .foldl (fun k b => .ite (opWrite_opsKept _ _ _ _) (.refl k)) _ k) _ k1
  by_cases ht : tSrc t = 1
  · refine ⟨fun h => absurd ht h, ?_, .ite hscales (.refl k1)⟩
    unfold k1
    rw [if_neg (show tSrc t ≠ 2 from ht ▸ by decide), if_pos ht]
    refine .foldl (fun k r => ?_) _ k
    split
    next hy => exact toRing_progress hy _ _ _
    · exact .refl _ k
  · have helems : OpsKept k k1 := .ite (.refl k) (by
      rw [if_neg ht]
      exact .foldl (fun k r => .foldl (fun k c => writeElem_opsKept k o free r _ _ _) _ k) _ k)
    exact ⟨fun _ => helems, helems.progress, .ite hscales (.refl k1)⟩

theorem writeOut_opsKept (ht : tSrc (tO o.desc) ≠ 1) : OpsKept k (writeOut k o free outs done) := by
  obtain ⟨k1, helems, -, hscales⟩ := writeOut_elems k o free outs done
  exact (helems ht).trans hscales

theorem writeOut_progress : Progress o.id k (writeOut k o free outs done) := by
  obtain ⟨k1, -, helems, hscales⟩ := writeOut_elems k o free outs done
  exact helems.trans hscales.progress

end

/-- The operation with the mark of the poison that its first n lane groups read (R365). -/
def ecMarked (k : Core) (o : Op) (n : Nat) : Op := { o with poison := o.poison || ecPoisoned k o.desc n }

section
variable (k : Core) (o : Op) (n fresh : Nat)

theorem ecRun_opsKept (ht : tSrc (tO o.desc) ≠ 1) : OpsKept (putOp k (ecMarked k o n)) (ecRun k o n fresh).core :=
  (writeOut_opsKept _ (ecMarked k o n) _ _ _ ht).trans (.foldl (fun _ _ => opWrite_opsKept _ _ _ _) _ _)

theorem ecRun_progress (h : findOp k o.id = some o) : Progress o.id k (ecRun k o n fresh).core :=
  .trans (putOp_progress (o' := ecMarked k o n) h rfl rfl) ((writeOut_progress _ (ecMarked k o n) _ _ _).trans
    (OpsKept.progress (.foldl (fun _ _ => opWrite_opsKept _ _ _ _) _ _)))

end

/-! The completion (R132). -/

/-- What the work of lane groups leaves of the core: at most stall counters differ beside it. -/
theorem ecApply_core (c : Nat) (o : Op) (p : EcRun) (s : State) :
    StallsOnly (pushAll p.core o.id) (getCore (ecApply c o p s) c) := by
  unfold ecApply
  extract_lets src s1 s2
  have hcount : StallsOnly (pushAll p.core o.id) (getCore s1 c) := by
    rw [show getCore s1 c = countStall 3 p.extra (pushAll p.core o.id) from getCore_setCore_same s c _]
    exact countStall_stallsOnly 3 p.extra _
  have hev : StallsOnly (pushAll p.core o.id) (getCore s2 c) :=
    hcount.trans ((opEv_coresStalled o p.ev s1).trans (noteBuilt_coresStalled o _ _ _) c)
  split
  · exact hev.trans (CoresStalled.ite (opTensor_coresStalled o 0 _ _ s2) (.refl s2) c)
  · exact hev

section
variable {k : Core} {x : Op} (h : findOp k x.id = some x) (c n : Nat) (s : State)
include h

/-- Processed lane groups leave the operation in flight, as it was issued. -/
theorem ecApply_found : Progress x.id k (getCore (ecApply c x (ecRun k x n s.fresh) s) c) ∧
    ∃ y, findOp (getCore (ecApply c x (ecRun k x n s.fresh) s) c) x.id = some y ∧ issuedAs y = issuedAs x := by
  have hp : Progress x.id k (getCore (ecApply c x (ecRun k x n s.fresh) s) c) :=
    (ecRun_progress k x n s.fresh h).trans ((pushAll_progress _ x.id).trans (ecApply_core c x _ s).opsKept.progress)
  exact ⟨hp, hp.found h⟩

/-- With output by address or none, and nothing formed before, the run's core is what they leave, up to stall counters. -/
theorem ecApply_nothing (ht : tSrc (tO x.desc) ≠ 1) (hn : NothingFormed x) :
    findOp (getCore (ecApply c x (ecRun k x n s.fresh) s) c) x.id = some (ecMarked k x n) ∧
    (getCore (ecApply c x (ecRun k x n s.fresh) s) c).sp = (ecRun k x n s.fresh).core.sp := by
  have hmarked : findOp (putOp k (ecMarked k x n)) x.id = some (ecMarked k x n) :=
    (findOp_putOp k (ecMarked k x n)).trans (congrArg (Option.map _) h)
  have hrun : findOp (ecRun k x n s.fresh).core x.id = some (ecMarked k x n) := ((ecRun_opsKept k x n s.fresh ht).findOp x.id).trans hmarked
  have hcore := ecApply_core c x (ecRun k x n s.fresh) s
  rw [pushAll_nothing hrun hn] at hcore
  exact ⟨(hcore.opsKept.findOp x.id).trans hrun, hcore.sp⟩

end

/-- The last result of RED as a register takes it; one that is not 4 B wide is unstated (log entry 27). -/
def ecLastResult (o : Op) (r : EcRun) (fresh : Nat) : Option Word := r.results.getLast?.map fun e =>
  if (match ecRed o.desc with | some w => redResultBytes w | none => 4) = 4 then BitVec.ofNat 32 (leNat e.1)
  else BitVec.ofNat 32 (Config.freeBits (fresh + 999))

/-- R132: the summary word of a run. -/
def ecSummary (o : Op) (r : EcRun) (fresh : Nat) : Word :=
  summaryWord r.ev (r.nanOut || r.results.any (·.2.2)) (ecLastResult o r fresh) r.results.length

/-- The operation y, as o's run left it, once its last output is formed and its summary stands ready. -/
def ecEnded (o y : Op) (r : EcRun) (fresh : Nat) : Op :=
  { y with ended := true, results := [(ecLastResult o r fresh).getD 0, ecSummary o r fresh] }

/-! The delivery. -/

theorem issuedAs_sum {x y : Op} (h : issuedAs y = issuedAs x) :
    ecSumEn y = ecSumEn x ∧ ecSumReg y = ecSumReg x ∧ y.ctx = x.ctx ∧ y.desc = x.desc := by
  simp only [issuedAs, Prod.mk.injEq] at h
  obtain ⟨hunit, hdesc, hctx⟩ := h
  simp only [ecSumEn, ecSumReg, hunit, hdesc, hctx, and_self]

/-- R132: once the operation has left, its summary is delivered. -/
theorem ecFinish_left {c : Nat} {o : Op} {s : State} (h : findOp (getCore (finishOp c o.id s) c) o.id = none) :
    getCore (ecFinish c o s) c = deliver o (getCore (finishOp c o.id s) c) := by
  simp [ecFinish, h, modCore]

/-- R132: until then nothing is. -/
theorem ecFinish_waits {c : Nat} {o : Op} {s : State} (h : findOp (getCore (finishOp c o.id s) c) o.id ≠ none) :
    ecFinish c o s = finishOp c o.id s := by
  simp [ecFinish, h]

/-- The operation has left or has its last output formed, and at most SUM_REG of its context has changed. -/
theorem ecFinish_effect (c : Nat) (o : Op) (s : State) :
    (∀ y, findOp (getCore (ecFinish c o s) c) o.id = some y → y.ended = true) ∧
    (getCore (ecFinish c o s) c).ctx0.pc = (getCore s c).ctx0.pc ∧ (getCore (ecFinish c o s) c).ctx1.pc = (getCore s c).ctx1.pc ∧
    ∀ ctx i, i < 32 → ¬ (ecSumEn o = true ∧ (ecRed o.desc).isSome = true ∧ ctx = o.ctx ∧ i = ecSumReg o) →
      regOf (getCore (ecFinish c o s) c) ctx i = regOf (getCore s c) ctx i := by
  obtain ⟨h0, h1, hend⟩ := finishOp_effect c o.id s
  have hregs : ∀ ctx i, regOf (getCore (finishOp c o.id s) c) ctx i = regOf (getCore s c) ctx i := by
    intro ctx i
    rw [regOf, regOf, h0, h1]
  by_cases hleft : findOp (getCore (finishOp c o.id s) c) o.id = none
  · obtain ⟨hpc0, hpc1, -, hops⟩ := deliver_keeps o (getCore (finishOp c o.id s) c)
    rw [ecFinish_left hleft, hpc0, hpc1, h0, h1, findOp, hops]
    refine ⟨hend, rfl, rfl, fun ctx i hi hne => ?_⟩
    rw [regOf_deliver _ _ _ hi, if_neg hne, hregs]
  · rw [ecFinish_waits hleft, h0, h1]
    exact ⟨hend, rfl, rfl, fun ctx i _ _ => hregs ctx i⟩

/-- With nothing of its output in the making the operation leaves, and its results stand in its context. -/
theorem ecFinish_nothing {c : Nat} {o : Op} {s : State} (h : findOp (getCore s c) o.id = some o) (hn : NothingFormed o) :
    findOp (getCore (ecFinish c o s) c) o.id = none ∧ (getCore (ecFinish c o s) c).sp = (getCore s c).sp ∧
    (ecSumEn o = true → sumwOf (getCore (ecFinish c o s) c) o.ctx = nth o.results 1) ∧
    (ecSumEn o = true → (ecRed o.desc).isSome = true → regOf (getCore (ecFinish c o s) c) o.ctx (ecSumReg o) = nth o.results 0) := by
  have hst := finishOp_nothing h hn
  have hleft : findOp (getCore (finishOp c o.id s) c) o.id = none := (hst.opsKept.findOp o.id).trans (findOp_endOp _ _)
  obtain ⟨-, -, hsp, hops⟩ := deliver_keeps o (getCore (finishOp c o.id s) c)
  rw [ecFinish_left hleft]
  refine ⟨by rw [findOp, hops]; exact hleft, hsp.trans hst.sp, sumwOf_deliver o _, fun he hr => ?_⟩
  rw [regOf_deliver _ _ _ (ecSumReg_lt o), if_pos ⟨he, hr, rfl, rfl⟩]

/-! The command (R132). -/

/-- The state in which y, x as its run r left it, has its last output formed. -/
def ecDone (c : Nat) (x y : Op) (r : EcRun) (s : State) : State :=
  modCore (ecApply c x r s) c fun k => putOp k (ecEnded x y r s.fresh)

section
variable {c : Nat} {s : State} {o x y : Op} {r : EcRun} (hhead : headOp (getCore s c) 1 = some o) (hended : o.ended = false)
  (hx : (findOp (ecPull (getCore s c) o) o.id).getD o = x)
  (hr : ecRun (ecPull (getCore s c) o) x (groupList (tX x.desc)).length s.fresh = r)
include hhead hx hr

/-- The run leaves the operation in flight. -/
theorem ecDone_found : Progress o.id (getCore s c) (getCore (ecApply c x r s) c) ∧
    ∃ y, findOp (getCore (ecApply c x r s) c) x.id = some y ∧ issuedAs y = issuedAs x := by
  subst hr
  obtain ⟨hxid, hfound⟩ := ecPull_found hhead hx
  obtain ⟨hp, hy⟩ := ecApply_found hfound c (groupList (tX x.desc)).length s
  rw [hxid] at hp
  exact ⟨(ecPull_progress _ o).trans hp, hy⟩

/-- With output by address or none, and nothing formed before. -/
theorem ecDone_nothing (hy : findOp (getCore (ecApply c x r s) c) x.id = some y) (ht : tSrc (tO x.desc) ≠ 1) (hn : NothingFormed x) :
    NothingFormed y ∧ (getCore (ecDone c x y r s) c).sp = r.core.sp := by
  subst hr
  obtain ⟨-, hfound⟩ := ecPull_found hhead hx
  obtain ⟨hmarked, hsp⟩ := ecApply_nothing hfound c (groupList (tX x.desc)).length s ht hn
  rw [hmarked] at hy
  cases hy
  refine ⟨hn, ?_⟩
  rw [ecDone, modCore, getCore_setCore_same]
  exact hsp

include hended

/-- With every lane group done, the operation ends and delivers. -/
theorem ecComplete_runs (hstop : firstStop (ecPull (getCore s c) o) x = none) (hy : findOp (getCore (ecApply c x r s) c) x.id = some y) :
    ecComplete c s = ecFinish c (ecEnded x y r s.fresh) (ecDone c x y r s) := by
  subst hx hr
  unfold ecComplete
  extract_lets k0
  rw [hhead]
  dsimp only
  rw [if_neg (by simp [hended]), hstop]
  dsimp only
  rw [hy]
  rfl

end

section
variable {c : Nat} {s : State} {x y : Op} {r : EcRun} (hy : findOp (getCore (ecApply c x r s) c) x.id = some y)
include hy

theorem ecDone_core : findOp (getCore (ecDone c x y r s) c) x.id = some (ecEnded x y r s.fresh) ∧
    Progress x.id (getCore (ecApply c x r s) c) (getCore (ecDone c x y r s) c) := by
  have hyid := findOp_id hy
  have hput := findOp_putOp (getCore (ecApply c x r s) c) (ecEnded x y r s.fresh)
  rw [show (ecEnded x y r s.fresh).id = x.id from hyid, hy] at hput
  rw [ecDone, modCore, getCore_setCore_same]
  exact ⟨hput, putOp_progress hy rfl rfl⟩

end

section
variable {c : Nat} {s : State} {o x : Op} {r : EcRun} (hhead : headOp (getCore s c) 1 = some o) (hended : o.ended = false)
  (hx : (findOp (ecPull (getCore s c) o) o.id).getD o = x)
  (hr : ecRun (ecPull (getCore s c) o) x (groupList (tX x.desc)).length s.fresh = r)
  (hstop : firstStop (ecPull (getCore s c) o) x = none)
include hhead hended hx hr hstop

/-- The operation has left or has its last output formed, and at most SUM_REG of its context has changed. -/
theorem ecComplete_effect : (∀ y, findOp (getCore (ecComplete c s) c) o.id = some y → y.ended = true) ∧
    ((getCore (ecComplete c s) c).ctx0.pc = (getCore s c).ctx0.pc ∧ (getCore (ecComplete c s) c).ctx1.pc = (getCore s c).ctx1.pc) ∧
    ∀ ctx i, i < 32 → ¬ (ecSumEn x = true ∧ (ecRed x.desc).isSome = true ∧ ctx = x.ctx ∧ i = ecSumReg x) →
      regOf (getCore (ecComplete c s) c) ctx i = regOf (getCore s c) ctx i := by
  have hxid : x.id = o.id := hx ▸ findOp_getD_id _ o
  obtain ⟨hwork, y, hy, hissued⟩ := ecDone_found hhead hx hr
  have hyid : (ecEnded x y r s.fresh).id = o.id := (findOp_id hy).trans hxid
  obtain ⟨-, hput⟩ := ecDone_core hy
  rw [hxid] at hput
  obtain ⟨h0, h1, -⟩ := hwork.trans hput
  obtain ⟨hsumEn, hsumReg, hctx, hdesc⟩ := issuedAs_sum (show issuedAs (ecEnded x y r s.fresh) = issuedAs x from hissued)
  obtain ⟨hleft, hpc0, hpc1, hregs⟩ := ecFinish_effect c (ecEnded x y r s.fresh) (ecDone c x y r s)
  rw [← ecComplete_runs hhead hended hx hr hstop hy] at hleft hpc0 hpc1 hregs
  rw [hyid] at hleft
  rw [hsumEn, hsumReg, hctx, hdesc] at hregs
  exact ⟨hleft, ⟨hpc0.trans (by rw [h0]), hpc1.trans (by rw [h1])⟩,
    fun ctx i hi hne => (hregs ctx i hi hne).trans (by rw [regOf, regOf, h0, h1])⟩

/-- With output by address or none, and nothing formed before, it has left, and its results stand in its context. -/
theorem ecComplete_nothing (ht : tSrc (tO x.desc) ≠ 1) (hn : NothingFormed x) : findOp (getCore (ecComplete c s) c) o.id = none ∧
    (getCore (ecComplete c s) c).sp = r.core.sp ∧
    (ecSumEn x = true → sumwOf (getCore (ecComplete c s) c) x.ctx = ecSummary x r s.fresh) ∧
    (ecSumEn x = true → (ecRed x.desc).isSome = true →
      regOf (getCore (ecComplete c s) c) x.ctx (ecSumReg x) = (ecLastResult x r s.fresh).getD 0) := by
  have hxid : x.id = o.id := hx ▸ findOp_getD_id _ o
  obtain ⟨-, y, hy, hissued⟩ := ecDone_found hhead hx hr
  have hyid : (ecEnded x y r s.fresh).id = x.id := show y.id = x.id from findOp_id hy
  obtain ⟨hny, hsp⟩ := ecDone_nothing hhead hx hr hy ht hn
  obtain ⟨hfound, -⟩ := ecDone_core hy
  obtain ⟨hsumEn, hsumReg, hctx, hdesc⟩ := issuedAs_sum (show issuedAs (ecEnded x y r s.fresh) = issuedAs x from hissued)
  obtain ⟨hgone, hsp', hsumw, hreg⟩ := ecFinish_nothing (hyid.symm ▸ hfound) (show NothingFormed (ecEnded x y r s.fresh) from hny)
  rw [← ecComplete_runs hhead hended hx hr hstop hy, hyid, hxid] at hgone
  rw [← ecComplete_runs hhead hended hx hr hstop hy] at hsp' hsumw hreg
  rw [hsumEn, hctx] at hsumw
  rw [hsumEn, hctx, hdesc, hsumReg] at hreg
  exact ⟨hgone, hsp'.trans hsp, hsumw, hreg⟩

end

/-! The halt (R136). -/

section
variable {c : Nat} {s : State} {o x : Op} (hhead : headOp (getCore s c) 1 = some o) (hended : o.ended = false)
  (hx : (findOp (ecPull (getCore s c) o) o.id).getD o = x)
include hhead hended hx

/-- R83, R136: a failing block halts the operation after the groups before it. -/
theorem ecHalt_scale {i r g op cause : Nat} (hstop : firstStop (ecPull (getCore s c) o) x = some (i, r, g, .scale op cause)) {t : State}
    (ht : ecApply c x (ecRun (ecPull (getCore s c) o) x i s.fresh) s = t) :
    ecHalt c s = scaleHalt c ((findOp (getCore t c) x.id).getD x) cause (ecPosition r g op) t := by
  subst hx ht
  simp only [ecHalt, hhead, if_neg (Bool.eq_false_iff.mp hended), hstop]

/-- R136, R280: so does a poison slot. -/
theorem ecHalt_poisoned {i r g n : Nat} (hstop : firstStop (ecPull (getCore s c) o) x = some (i, r, g, .ready .poisoned n)) {t : State}
    (ht : ecApply c x (ecRun (ecPull (getCore s c) o) x i s.fresh) s = t) :
    ecHalt c s = poisonHalt c ((findOp (getCore t c) x.id).getD x) t := by
  subst hx ht
  simp only [ecHalt, hhead, if_neg (Bool.eq_false_iff.mp hended), hstop]

/-- R136, R228: and a raw access inside a ring. -/
theorem ecHalt_raw {i r g ring slot a n : Nat} {w : Bool}
    (hstop : firstStop (ecPull (getCore s c) o) x = some (i, r, g, .ready (.raw w ring slot a) n)) {t : State}
    (ht : ecApply c x (ecRun (ecPull (getCore s c) o) x i s.fresh) s = t) :
    ecHalt c s = rawHalt c ((findOp (getCore t c) x.id).getD x) w (if w then 4 else 3) ring slot a t := by
  subst hx ht
  simp only [ecHalt, hhead, if_neg (Bool.eq_false_iff.mp hended), hstop]

/-- A group that waits halts nothing. -/
theorem ecHalt_waits {i r g n : Nat} {st : Ready} (hstop : firstStop (ecPull (getCore s c) o) x = some (i, r, g, .ready st n))
    (hst : st.halts = false) : ecHalt c s = setCore s c (ecPull (getCore s c) o) := by
  subst hx
  cases st with
  | poisoned | raw => cases hst
  | ok | wait | blocked | suspended => simp only [ecHalt, hhead, if_neg (Bool.eq_false_iff.mp hended), hstop]

end

end Sys2Proof.Laws
end

section
/-! The statements on element-wise operations. -/

namespace Sys2Proof.Proofs

open Sys2Proof.Machine Sys2Proof.Claims Sys2Proof.Laws

/-- Settles O19: the run of all lane groups is followed by `ecFinish` on the ended operation, whose summary `deliver` puts into its context. -/
theorem elementWiseOperationRuns : Obligations.ElementWiseOperationRuns := by
  unfold Obligations.ElementWiseOperationRuns
  intro core s o hruns c k x r hhead hended hstop
  obtain ⟨hend, hpc, hregs⟩ := ecComplete_effect (x := x) (r := r) hhead hended rfl rfl hstop
  refine ⟨ecComplete c s, coreEvent_next ecComplete hruns, hend, hpc, hregs, fun _ ht hpart hbuf => ?_⟩
  obtain ⟨hgone, hsp, hsumw, hreg⟩ := ecComplete_nothing (x := x) (r := r) hhead hended rfl rfl hstop ht (.of_nil hbuf hpart)
  refine ⟨hgone, hsp, hsumw, fun w e he hw hsz hlast => (hreg he (by simp [hw])).trans ?_⟩
  simp [ecLastResult, hlast, hw, hsz]

/-- Settles O20: the command runs `ecHalt`, which halts by the obstacle of the first lane group that has one. -/
theorem elementWiseOperationHalts : Obligations.ElementWiseOperationHalts := by
  unfold Obligations.ElementWiseOperationHalts
  intro core s o hruns c k x done y hhead hended
  have hexec : exec (.ecOperationHalt core) s = .next (dmaRun c (ecHalt c s)) := coreEvent_next ecHalt hruns
  rw [hexec]
  exact ⟨fun _ _ _ _ _ hs => by rw [ecHalt_scale hhead hended rfl hs rfl], fun _ _ _ _ hs => by rw [ecHalt_poisoned hhead hended rfl hs rfl],
    fun _ _ _ _ _ _ _ _ hs => by rw [ecHalt_raw hhead hended rfl hs rfl], fun _ _ _ _ _ hs hst => by rw [ecHalt_waits hhead hended rfl hs hst]⟩

end Sys2Proof.Proofs
end

section
/-! SUPPORT. GP_OPERATION_COMPLETE and EXPRESS_GATE_INSERT (R138-R146): the run of all positions, its end, and the order of
the operations after an insertion. -/

namespace Sys2Proof.Laws

open Sys2Proof.Machine Sys2Proof.Claims

/-! The run of positions. -/

theorem gpPull_progress (k : Core) (o : Op) : Progress o.id k (gpPull k o) := by
  refine .foldl (fun k i => ?_) _ k
  split
  · exact pullRing_progress _ _ _ _
  · exact .refl _ k

section
variable (k : Core) (o : Op) (inject : List Byte × Bool) (free m : Nat)

/-- A run leaves both contexts; with output and final state by address it only writes scratchpad, and marks the operation where
it has read poison (R365). -/
theorem gpRun_effect : ((gpRun k o inject free m).1.ctx0 = k.ctx0 ∧ (gpRun k o inject free m).1.ctx1 = k.ctx1) ∧
    ((gpY o.desc).ring = none → (gpH o.desc).ring = none →
      ∃ p, OpsKept (putOp k { o with poison := p }) (gpRun k o inject free m).1) := by
  unfold gpRun
  extract_lets d D N segs used poison o' k1 carried st outs ev bytes k2 hs k3
  have hctx2 : k2.ctx0 = k.ctx0 ∧ k2.ctx1 = k.ctx1 := by
    unfold k2
    split <;> exact ⟨rfl, rfl⟩
  have hctx3 : k3.ctx0 = k.ctx0 ∧ k3.ctx1 = k.ctx1 := by
    unfold k3
    split <;> exact hctx2
  constructor
  · split
    · exact hctx3
    · exact hctx2
  · intro hy hh
    refine ⟨o.poison || poison, ?_⟩
    have hkept2 : OpsKept k1 k2 := by
      unfold k2
      rw [hy]
      exact opWrite_opsKept _ _ _ _
    have hkept3 : OpsKept k1 k3 := by
      unfold k3
      rw [hh]
      exact hkept2.trans (opWrite_opsKept _ _ _ _)
    split
    · exact hkept3.trans (opWrite_opsKept _ _ _ _)
    · exact hkept2

end

/-! The end of the last position. -/

/-- The operation of this id has its last position done, and no values of express gates are owed (R146). -/
def gpEnded (k : Core) (id : Nat) : Core :=
  { k with expressCut := 0, ops := k.ops.map fun p => if p.id = id then { p with ended := true } else p }

/-- The state in which x, as its run r left it, has its last position done. -/
def gpDone (c : Nat) (x : Op) (r : Core × Ev) (s : State) : State :=
  modCore (modCore (opEv x r.2 { setCore s c r.1 with fresh := s.fresh + 2 }) c fun k => pushAll k x.id) c fun k => gpEnded k x.id

theorem findOp_gpEnded (k : Core) (id : Nat) : findOp (gpEnded k id) id = (findOp k id).map fun y => { y with ended := true } := by
  rw [findOp_map_ops (k := k) rfl (fun p => by split <;> rfl)]
  exact Option.map_congr fun p hp => if_pos (findOp_id hp)

section
variable (c : Nat) (x : Op) (r : Core × Ev) (s : State)

/-- What the run leaves of the core, up to stall counters, goes on to its end. -/
theorem gpDone_core : ∃ k, StallsOnly r.1 k ∧ getCore (gpDone c x r s) c = gpEnded (pushAll k x.id) x.id := by
  refine ⟨getCore (opEv x r.2 { setCore s c r.1 with fresh := s.fresh + 2 }) c, ?_, ?_⟩
  · have hst := opEv_coresStalled x r.2 { setCore s c r.1 with fresh := s.fresh + 2 } c
    rwa [show getCore { setCore s c r.1 with fresh := s.fresh + 2 } c = r.1 from getCore_setCore_same s c r.1] at hst
  · rw [gpDone, modCore, getCore_setCore_same, modCore, getCore_setCore_same]

theorem gpDone_ctxs : (getCore (gpDone c x r s) c).ctx0 = r.1.ctx0 ∧ (getCore (gpDone c x r s) c).ctx1 = r.1.ctx1 := by
  obtain ⟨k, hst, hk⟩ := gpDone_core c x r s
  obtain ⟨h0, h1, -⟩ := hst.opsKept.progress.trans (pushAll_progress k x.id)
  rw [hk]
  exact ⟨h0, h1⟩

variable {c x r s}

/-- With nothing of its output in the making the operation leaves at once. -/
theorem gpDone_nothing {y : Op} (hy : findOp r.1 x.id = some y) (hn : NothingFormed y) :
    findOp (getCore (finishOp c x.id (gpDone c x r s)) c) x.id = none ∧ (getCore (finishOp c x.id (gpDone c x r s)) c).sp = r.1.sp := by
  obtain ⟨k, hst, hk⟩ := gpDone_core c x r s
  have hky : findOp k x.id = some y := (hst.opsKept.findOp x.id).trans hy
  rw [pushAll_nothing hky hn] at hk
  have hended : findOp (getCore (gpDone c x r s) c) x.id = some { y with ended := true } := by
    rw [hk, findOp_gpEnded, hky]
    rfl
  have hend := finishOp_nothing hended (show NothingFormed { y with ended := true } from hn)
  refine ⟨(hend.opsKept.findOp x.id).trans (findOp_endOp _ _), hend.sp.trans ?_⟩
  rw [hk]
  exact hst.sp

end

/-! The command (R141). -/

section
variable {c : Nat} {s : State} {o x : Op} {inject : List Byte × Bool} {r : Core × Ev} (hhead : headOp (getCore s c) 2 = some o)
  (hended : o.ended = false) (hx : (findOp (gpPull (getCore s c) o) o.id).getD o = x) (hstop : gpStop (gpPull (getCore s c) o) x = none)
  (hi : (initBytes s (gpPull (getCore s c) o) x).getD (leBytes (8 * gpD x.desc * gpN x.desc) (Config.freeBits (s.fresh + 1)), false) = inject)
  (hr : gpRun (gpPull (getCore s c) o) x inject (Config.freeBits s.fresh) (gpL x.desc) = r)
include hhead hended hx hstop hi hr

/-- With every position done, the operation ends. -/
theorem gpComplete_runs : gpComplete c s = finishOp c x.id (gpDone c x r s) := by
  subst hx hi hr
  unfold gpComplete
  extract_lets k0
  rw [hhead]
  dsimp only
  rw [if_neg (by simp [hended]), hstop]
  rfl

/-- The operation has left or has its last output formed, and no register or PC has changed. -/
theorem gpComplete_effect : (∀ y, findOp (getCore (gpComplete c s) c) o.id = some y → y.ended = true) ∧ KeepsRegs c s (gpComplete c s) := by
  have hxid : x.id = o.id := hx ▸ findOp_getD_id _ o
  obtain ⟨h0, h1, hend⟩ := finishOp_effect c x.id (gpDone c x r s)
  rw [← gpComplete_runs hhead hended hx hstop hi hr] at h0 h1 hend
  obtain ⟨hdone0, hdone1⟩ := gpDone_ctxs c x r s
  obtain ⟨⟨hrun0, hrun1⟩, -⟩ := gpRun_effect (gpPull (getCore s c) o) x inject (Config.freeBits s.fresh) (gpL x.desc)
  obtain ⟨hpull0, hpull1, -⟩ := gpPull_progress (getCore s c) o
  rw [hr] at hrun0 hrun1
  rw [KeepsRegs, h0, h1, hdone0, hdone1, hrun0, hrun1, hpull0, hpull1, ← hxid]
  exact ⟨hend, rfl, rfl, rfl, rfl⟩

/-- With output and state by address, and nothing formed before, it has left with what its run wrote. -/
theorem gpComplete_addressed (hfound : findOp (gpPull (getCore s c) o) o.id = some x) (hy : (gpY x.desc).ring = none)
    (hh : (gpH x.desc).ring = none) (hn : NothingFormed x) :
    findOp (getCore (gpComplete c s) c) o.id = none ∧ (getCore (gpComplete c s) c).sp = r.1.sp := by
  have hxid : x.id = o.id := findOp_id hfound
  obtain ⟨-, haddressed⟩ := gpRun_effect (gpPull (getCore s c) o) x inject (Config.freeBits s.fresh) (gpL x.desc)
  obtain ⟨p, hkept⟩ := haddressed hy hh
  have hput := findOp_putOp (gpPull (getCore s c) o) { x with poison := p }
  have hrun : findOp r.1 x.id = some { x with poison := p } := by
    rw [← hr, hkept.findOp]
    rw [hxid] at hput ⊢
    rw [hput, hfound]
    rfl
  rw [gpComplete_runs hhead hended hx hstop hi hr, ← hxid]
  exact gpDone_nothing hrun (show NothingFormed { x with poison := p } from hn)

end

/-! The insertion (R146). -/

/-- The operations with e put before the one of this id. -/
def insertedOps (ops : List Op) (e : Op) (id : Nat) : List Op :=
  let others := ops.filter fun o => decide (o.id ≠ e.id)
  (others.takeWhile fun o => decide (o.id ≠ id)) ++ e :: others.dropWhile fun o => decide (o.id ≠ id)

theorem insertedOps_split (ops : List Op) (e : Op) (id : Nat) :
    ∃ a b, insertedOps ops e id = a ++ e :: b ∧ ∀ y ∈ a, y.id ≠ id ∧ y.id ≠ e.id := by
  refine ⟨_, _, rfl, fun y hy => ?_⟩
  have hother := List.mem_filter.mp ((List.takeWhile_sublist _).subset hy)
  exact ⟨by simpa using List.all_eq_true.mp List.all_takeWhile y hy, by simpa using hother.2⟩

/-- A ready express operation goes before a running one that is not express. -/
theorem expressInsert_runs {c : Nat} {s : State} {run e x : Op} {rest : List Op} (hops : unitOps (getCore s c) 2 = run :: rest)
    (he : (rest.find? fun o => gpExpress o) = some e) (hrun : gpExpress run = false) (hended : run.ended = false)
    (hx : (findOp (gpPull (getCore s c) e) e.id).getD e = x) (hstop : gpStop (gpPull (getCore s c) e) x = none) :
    expressInsert c s = setCore s c { gpPull (getCore s c) e with
      ops := insertedOps (gpPull (getCore s c) e).ops x run.id
      expressCut := (gpPull (getCore s c) e).expressCut + ceilDiv (gpD e.desc) 8 + ceilDiv (gpD e.desc * gpN e.desc) 8 } := by
  have hxid : x.id = e.id := hx ▸ findOp_getD_id _ e
  simp only [expressInsert, hops, he, hrun, hended, hx, hstop, Bool.or_self, Option.isSome_none, Bool.false_eq_true, if_false,
    insertedOps, hxid]

end Sys2Proof.Laws
end

section
/-! The statement on the gate pipeline. -/

namespace Sys2Proof.Proofs

open Sys2Proof.Machine Sys2Proof.Claims Sys2Proof.Laws

/-- Settles O21: the run of all positions is followed by `finishOp`; an insertion sets the core with the operations in their new order. -/
theorem gatePipelineRuns : Obligations.GatePipelineRuns := by
  unfold Obligations.GatePipelineRuns
  intro core s hruns c k0
  constructor
  · intro o hhead hended k x hstop
    obtain ⟨hend, hregs⟩ := gpComplete_effect (x := x) hhead hended rfl hstop rfl rfl
    refine ⟨gpComplete c s, coreEvent_next gpComplete hruns, hend, hregs, fun b hfound hy hh hpart hbuf hinit => ?_⟩
    exact gpComplete_addressed (x := x) (inject := b) hhead hended rfl hstop (by rw [hinit, Option.getD_some]) rfl hfound hy hh
      (.of_nil hbuf hpart)
  · intro run rest e hops he hrun hended k x hstop
    have hexec := coreEvent_next expressInsert hruns
    rw [expressInsert_runs hops he hrun hended rfl hstop] at hexec
    obtain ⟨h0, h1, -⟩ := gpPull_progress k0 e
    refine ⟨_, hexec, setCore_only s c _, ?_⟩
    rw [KeepsRegs, getCore_setCore_same]
    exact ⟨rfl, rfl, ⟨congrArg (·.regs) h0, congrArg (·.regs) h1, congrArg (·.pc) h0, congrArg (·.pc) h1⟩, insertedOps_split _ _ _⟩

end Sys2Proof.Proofs
end

section
/-! SUPPORT. Writes of device memory, and events of class below GROUP: the parts of the state that they leave (R364-R366, R445, R453). -/

namespace Sys2Proof.Laws

open Sys2Proof.Machine

/-! Writes of device memory. -/

/-- Only DRAM with its poison marks, and host memory, differ. -/
def OnlyMemory (s t : State) : Prop := ∃ d p h, t = { s with dram := d, poison := p, hostMem := h }

section
variable {s t u : State}

theorem OnlyMemory.refl (s : State) : OnlyMemory s s := ⟨_, _, _, rfl⟩

theorem OnlyMemory.trans (h : OnlyMemory s t) (h' : OnlyMemory t u) : OnlyMemory s u := by
  obtain ⟨d, p, m, rfl⟩ := h
  obtain ⟨d', p', m', rfl⟩ := h'
  exact ⟨d', p', m', rfl⟩

theorem OnlyMemory.cores (h : OnlyMemory s t) : t.cores = s.cores := by
  obtain ⟨d, p, m, rfl⟩ := h
  rfl

end

theorem dramWrite_onlyMemory (s : State) (a : Nat) (bs : List Byte) (p : Bool) : OnlyMemory s (dramWrite s a bs p) := ⟨_, _, _, rfl⟩

theorem writePlace_onlyMemory (s : State) (pl : Place) (bs : List Byte) (p : Bool) : OnlyMemory s (writePlace s pl bs p) := by
  unfold writePlace
  split
  · exact ⟨_, _, _, rfl⟩
  · exact dramWrite_onlyMemory _ _ _ _

theorem vwrite_onlyMemory (s : State) (va : Nat) (bs : List Byte) (p : Bool) : OnlyMemory s (vwrite s va bs p).1 := by
  refine List.foldlRecOn (motive := fun (r : State × Option (Nat × Nat)) => OnlyMemory s r.1) _ _ (.refl s) fun r hr q _ => ?_
  split
  · exact hr
  · split
    · exact hr.trans (writePlace_onlyMemory _ _ _ _)
    · exact hr

/-! Events of class below GROUP. -/

/-- Only the error queue, the Bay writer and the cores differ. -/
def EventsAndCores (s t : State) : Prop := ∃ e b m, t = { s with evt := e, bay := b, cores := m }

section
variable {s t u : State}

theorem EventsAndCores.refl (s : State) : EventsAndCores s s := ⟨_, _, _, rfl⟩

theorem EventsAndCores.trans (h : EventsAndCores s t) (h' : EventsAndCores t u) : EventsAndCores s u := by
  obtain ⟨e, b, m, rfl⟩ := h
  obtain ⟨e', b', m', rfl⟩ := h'
  exact ⟨e', b', m', rfl⟩

theorem EventsAndCores.ite {p : Prop} [Decidable p] (ht : EventsAndCores s t) (hu : EventsAndCores s u) :
    EventsAndCores s (if p then t else u) := by
  split
  · exact ht
  · exact hu

theorem OnlyEvents.eventsAndCores (h : OnlyEvents s t) : EventsAndCores s t := by
  obtain ⟨e, b, rfl⟩ := h
  exact ⟨e, b, _, rfl⟩

theorem EventsAndCores.dram (h : EventsAndCores s t) : t.dram = s.dram := by
  obtain ⟨e, b, m, rfl⟩ := h
  rfl

end

theorem toBay_eventsAndCores (r : Record) (s : State) : EventsAndCores s (toBay r s) := by
  obtain ⟨b, h | h⟩ := toBay_cases r s
  · exact ⟨_, b, _, h⟩
  · exact ⟨_, b, _, h⟩

/-- A record of this state reaches the Bay writer with the next SEQ. -/
theorem newRecord_eventsAndCores (code cls : Nat) (injected summary : Bool) (stream : Half) (core : CoreId) (detail : List Word)
    (s : State) :
    EventsAndCores s (toBay (newRecord code cls injected summary stream core detail s).1
      (newRecord code cls injected summary stream core detail s).2) :=
  .trans ⟨_, _, _, rfl⟩ (toBay_eventsAndCores _ _)

theorem raise_eventsAndCores {code : Nat} (stream : Half) (core : CoreId) (detail : List Word) (s : State) (hc : eventClass code < 4) :
    EventsAndCores s (raise code stream core detail s) := by
  unfold raise raiseAs
  refine (windowCounts_onlyEvents s).eventsAndCores.trans (.ite ⟨_, _, _, rfl⟩ ?_)
  dsimp only
  rw [if_neg (show eventClass code ≠ 4 by omega), if_neg (show eventClass code ≠ 5 by omega)]
  refine .trans ?_ ((newRecord_eventsAndCores _ _ _ _ _ _ _ _).trans (arrive_onlyEvents _ _).eventsAndCores)
  exact .ite ⟨_, _, _, rfl⟩ (.ite ⟨_, _, _, rfl⟩ ⟨_, _, _, rfl⟩)

end Sys2Proof.Laws
end

section
/-! SUPPORT. KV_FLUSH of a full page (R181, R182): the page in a free frame, or the halt for want of one. -/

namespace Sys2Proof.Laws

open Sys2Proof.Machine Sys2Proof.Claims

theorem dirSet_onlyMemory (t : Nat) (h : KvHead) (a hd k v : Nat) (s : State) : OnlyMemory s (dirSet t h a hd k v s) :=
  vwrite_onlyMemory s _ _ _

theorem noteFlush_cores (n a hd k desc : Nat) (num : DWord) (w : KvSlot) (s : State) :
    (noteFlush n a hd k desc num w s).cores = s.cores := by
  cases w <;> rfl

/-- R181: the live context has one page more. -/
theorem noteFlush_live (n a hd k desc : Nat) (num : DWord) (s : State) :
    tabGetD 0 (getStream (noteFlush n a hd k desc num .live s) n).d.kvFlushed (256 * a + hd) = k + 1 ∧
    (getStream (noteFlush n a hd k desc num .live s) n).d.kvPages = true := by
  simp only [noteFlush, getStream_modStream_same, tabGetD, tabGet_tabPut_same, Option.getD_some, and_self]

/-- R181: up to the note in its context, a flushed page is memory alone. -/
theorem flushTo_memory (c n t : Nat) (h : KvHead) (g : Image) (p : ImgPool) (a hd k desc frame : Nat) (num : DWord) (w : KvSlot)
    (s : State) :
    ∃ v, OnlyMemory s v ∧ flushTo c n t h g p a hd k desc frame num w s = noteFlush n a hd k desc num w v :=
  ⟨_, (dramWrite_onlyMemory _ _ _ _).trans ((dramWrite_onlyMemory _ _ _ _).trans ((dramWrite_onlyMemory _ _ _ _).trans
    (dirSet_onlyMemory _ _ _ _ _ _ _))), rfl⟩

theorem joinFault_dram (va kind : Nat) (write : Bool) (pool c op : Nat) (s : State) :
    (joinFault va kind write pool c op s).2.dram = s.dram := by
  unfold joinFault
  split
  · rfl
  · split <;> rfl

/-- PAGE_FAULT is of class STREAM. -/
theorem eventClass_pageFault : eventClass 0x0301 < 4 := by decide

/-- R182: the flush waits at the fault entry that it has joined, if any, and counts fault-wait. -/
def flushHalted (c n a hd : Nat) (j : Option Nat × State) : State :=
  modCore j.2 c fun k => countStall 5 1 { k with flushHalt := some (j.1.getD 1024, n, a, hd) }

theorem StallsOnly.flushHalt {k k' : Core} (h : StallsOnly k k') : k'.flushHalt = k.flushHalt := by
  obtain ⟨_, _, rfl⟩ := h
  rfl

theorem flushHalted_flushHalt (c n a hd : Nat) (j : Option Nat × State) :
    (getCore (flushHalted c n a hd j) c).flushHalt = some (j.1.getD 1024, n, a, hd) := by
  rw [flushHalted, modCore, getCore_setCore_same, (countStall_stallsOnly 5 1 _).flushHalt]

/-- R180: the owner of a (layer, head) that the table has flushes it. -/
theorem kvOwner_inside {c a hd : Nat} {x : Stream} {h : KvHead} (ha : a < h.layers) (hhd : hd < h.heads)
    (howner : kvOwner x a hd = some c) : ¬ (h.layers ≤ a ∨ h.heads ≤ hd ∨ kvOwner x a hd ≠ some c) := by
  simp [howner, ha, hhd]

section
variable {c n a hd k : Nat} {s : State} {h : KvHead} {ch : Chunk} {w : KvSlot} {g : Image} {p : ImgPool}
  (hhead : readHead s (getStream s n).r.kvTable.toNat = some h) (ha : a < h.layers) (hhd : hd < h.heads)
  (howner : kvOwner (getStream s n) a hd = some c)
  (hdue : dueFlush s (getStream s n) (getStream s n).r.kvTable.toNat h a hd = some (ch, w, k))
  (hhalt : (getCore s c).flushHalt = none)
  (hwindow : ¬ (w = .live ∧ h.cap < k + 1 - lfirstOf s (getStream s n).r.kvTable.toNat h a / pagePos h.i8))
  (hpool : kvPool s h.pool = some (g, p))
include hhead ha hhd howner hdue hhalt hwindow hpool

/-- R181: with a free descriptor and frame the page goes to the first of each. -/
theorem kvFlush_flushes {desc frame : Nat} {ds fs : List Nat} (hdesc : freeDescs s g p = desc :: ds)
    (hframe : freeFrames s g p = frame :: fs) :
    kvFlush c n a hd s = flushTo c n (getStream s n).r.kvTable.toNat h g p a hd k desc frame ch.num w s := by
  simp only [kvFlush, hhead, if_neg (kvOwner_inside ha hhd howner), hdue, hhalt, Option.isSome_none, Bool.false_eq_true,
    if_false, if_neg hwindow, hpool, hdesc, hframe]

/-- R182: without one the flush halts, and a fault entry raises PAGE_FAULT. -/
theorem kvFlush_halts (hnone : freeDescs s g p = [] ∨ freeFrames s g p = []) {j : Option Nat × State}
    (hj : joinFault 0 5 true h.pool c 16 s = j) :
    CoresStalled (flushHalted c n a hd j) (kvFlush c n a hd s) ∧ EventsAndCores (flushHalted c n a hd j) (kvFlush c n a hd s) := by
  simp only [kvFlush, hhead, if_neg (kvOwner_inside ha hhd howner), hdue, hhalt, Option.isSome_none, Bool.false_eq_true,
    if_false, if_neg hwindow, hpool, hj]
  split
  next hfree hframe => simp [hfree, hframe] at hnone
  · split
    · exact ⟨raise_coresStalled _ _ _ _ eventClass_pageFault, raise_eventsAndCores _ _ _ _ eventClass_pageFault⟩
    · exact ⟨.refl _, .refl _⟩

end

end Sys2Proof.Laws
end

section
/-! The statement on the flush of KV pages. -/

namespace Sys2Proof.Proofs

open Sys2Proof.Machine Sys2Proof.Claims Sys2Proof.Laws

/-- Settles O28: the command runs `kvFlush`, which is `flushTo` while a descriptor and a frame are free, and else `flushHalted` with
its event. -/
theorem fullPagesAreFlushed : Obligations.FullPagesAreFlushed := by
  unfold Obligations.FullPagesAreFlushed
  intro core n layer head s h ch w k g p hruns c a hd x t hhead ha hhd howner hdue hhalt hwindow hpool
  obtain ⟨hexists, hislands, -⟩ := hruns
  have hexec : exec (.kvFlush core n layer head) s = .next (kvFlush c n.toNat a hd s) :=
    withCore_next core (fun _ => kvFlush c n.toNat a hd) s hexists hislands
  constructor
  · intro desc ds frame fs hdesc hframe
    rw [kvFlush_flushes hhead ha hhd howner hdue hhalt hwindow hpool hdesc hframe] at hexec
    refine ⟨_, hexec, rfl, ?_⟩
    obtain ⟨v, hv, hu⟩ := flushTo_memory c n.toNat t h g p a hd k desc frame ch.num w s
    rw [hu, noteFlush_cores, hv.cores]
    refine ⟨rfl, ?_⟩
    rintro rfl
    exact noteFlush_live n.toNat a hd k desc ch.num v
  · intro hnone
    obtain ⟨hstalled, hevents⟩ := kvFlush_halts hhead ha hhd howner hdue hhalt hwindow hpool hnone rfl
    exact ⟨_, hexec, (hstalled c).flushHalt.trans (flushHalted_flushHalt _ _ _ _ _), hevents.dram.trans (joinFault_dram _ _ _ _ _ _ _)⟩

end Sys2Proof.Proofs
end

section
/-! The statement on the attention sequencer. -/

namespace Sys2Proof.Proofs

open Sys2Proof.Machine Sys2Proof.Claims Sys2Proof.Laws

/-- A COMBINE operation of the attention sequencer, of one query row and head. -/
def combineOp : Op := { Op.init with unit := 3, desc := [0x101, 1] }

/-- An operation of another unit under the same id; its words read as a PARTIAL operation of one shard, of a KV table at address 0. -/
def namesakeOp : Op := { Op.init with unit := 5, desc := [0, 0, 0, 0, 0, 0, 0, 1] }

/-- A device of one core and no DRAM, with both operations in flight on the core. -/
def namesakes : State :=
  setCore { State.reset with hub.enumerated := true, hub.coreCount := 1 } 0 { Core.init with ops := [namesakeOp, combineOp] }

theorem namesakes_runs : CoreRuns 0 namesakes [] := by
  unfold CoreRuns
  decide +kernel

theorem namesakes_head : headOp (getCore namesakes 0) 3 = some combineOp := by decide +kernel

/-- The head of the queue reads no ring, and the first operation of its id is the other one. -/
theorem namesakes_found : atInputs (getCore namesakes 0) combineOp = getCore namesakes 0 ∧
    (findOp (getCore namesakes 0) combineOp.id).getD combineOp = namesakeOp := by decide +kernel

theorem namesakes_ready :
    (atReady (setCore namesakes 0 (getCore namesakes 0)) (getCore namesakes 0) namesakeOp).1 = .ok ∧ atOp namesakeOp.desc = 0 := by
  decide +kernel

/-- OP of the head decides: the command waits for a partial record. -/
theorem namesakes_waits : atComplete 0 namesakes = setCore namesakes 0 (countStall 0 1 (getCore namesakes 0)) := rfl

theorem namesakes_wait_no_fault : (dmaRun 0 (setCore namesakes 0 (countStall 0 1 (getCore namesakes 0)))).mmu.faults = [] := by
  decide +kernel

/-- As a PARTIAL operation it would meet a page fault at its KV table. -/
theorem namesakes_partial_faults :
    (dmaRun 0 (runPartial 0 namesakeOp (setCore namesakes 0 (getCore namesakes 0)))).mmu.faults ≠ [] := by decide +kernel

/-- Refutes O23: the command goes by OP of the operation at the head, where the statement goes by OP of the first operation in
flight that bears the head's id. The two differ on a core where another unit's operation bears it too. -/
theorem not_attentionOperationRuns : ¬ Obligations.AttentionOperationRuns := by
  unfold Obligations.AttentionOperationRuns
  intro h
  obtain ⟨hpartial, -⟩ := (h 0 namesakes combineOp namesakes_runs namesakes_head).1 rfl rfl
  obtain ⟨hinputs, hfound⟩ := namesakes_found
  obtain ⟨hready, hop⟩ := namesakes_ready
  rw [show (0 : CoreId).toNat = 0 from rfl, hinputs, hfound] at hpartial
  obtain ⟨hexec, -⟩ := hpartial hready hop
  have hcommand : exec (.attentionOperationComplete 0) namesakes = .next (dmaRun 0 (atComplete 0 namesakes)) :=
    coreEvent_next atComplete namesakes_runs
  rw [hcommand, namesakes_waits] at hexec
  injection hexec with hsame
  exact namesakes_partial_faults (hsame ▸ namesakes_wait_no_fault)

end Sys2Proof.Proofs
end

section
/-! SUPPORT. Copies between blank parts of DRAM (R357, R365): where nothing is listed and nothing is poisoned, zeros are copied and the
state stays. -/

namespace Sys2Proof.Laws

open Sys2Proof.Machine

/-! Zeros below every listed address. -/

theorem memSet_zero_below {m : Memory} {a : Nat} (h : ∀ c ∈ m, a < c.1) : memSet m a 0 = m := by
  cases m with
  | nil => rfl
  | cons e r => simp [memSet, h e List.mem_cons_self]

theorem memWrite_zeros_below {m : Memory} {a n : Nat} (h : ∀ c ∈ m, a + n ≤ c.1) : memWrite m a (List.replicate n 0) = m := by
  induction n generalizing a with
  | zero => rfl
  | succ n ih =>
    rw [List.replicate_succ, memWrite, memSet_zero_below fun c hc => by have := h c hc; omega]
    exact ih fun c hc => by have := h c hc; omega

theorem memRead_below {m : Memory} {a n : Nat} (h : ∀ c ∈ m, a + n ≤ c.1) : memRead m a n = List.replicate n 0 := by
  refine List.eq_replicate_iff.mpr ⟨by simp [memRead], fun b hb => ?_⟩
  obtain ⟨i, hi, rfl⟩ := List.mem_map.mp hb
  rw [List.mem_range] at hi
  exact memGet_below m (a + i) fun c hc => by have := h c hc; omega

/-! Units of 64 bytes. -/

theorem piecesOf_unit {a : Nat} (h : a % 64 = 0) : piecesOf a 64 = [(a, 64)] := by
  have hpage : min 64 (4096 - a % 4096) = 64 := by omega
  simp [piecesOf, pieces, hpage]

theorem vwrite_unit {s : State} {a : Nat} {bs : List Byte} {p : Bool} {pl : Place} (ha : a % 64 = 0) (hbs : bs.length = 64)
    (ht : Machine.translate s a true = .ok pl) : vwrite s a bs p = (writePlace s pl bs p, none) := by
  simp [vwrite, hbs, piecesOf_unit ha, ht, List.take_of_length_le]

/-- R357: a physical address of a die in use is its own. -/
theorem translate_die {s : State} {a : Nat} {w : Bool} (h : (presentDies s).contains (a / dieBytes) = true) (ha : a < 0x2400000000) :
    Machine.translate s a w = .ok (false, a) := by
  simp only [Machine.translate, if_pos ha, h, if_true]

/-! Blank DRAM. -/

/-- Die 0 is in use and blank below `top`: no byte is listed there, and no granule of DRAM is poisoned. -/
structure Blank (top : Nat) (s : State) : Prop where
  listed : ∀ c ∈ s.dram, top ≤ c.1
  clean : s.poison = []
  die : (presentDies s).contains 0 = true
  inDie : top ≤ dieBytes

section
variable {top : Nat} {s : State} (h : Blank top s)
include h

theorem Blank.dramUnit_eq {src off : Nat} (hsrc : src + off + 64 ≤ top) : dramUnit src s off = .ok (List.replicate 64 0, false) := by
  have hzeros := memRead_below (m := s.dram) (a := src + off) (n := 64) fun c hc => by have := h.listed c hc; omega
  have hclean : dramPoisoned s (src + off) 64 = false := by simp [dramPoisoned, h.clean]
  simp only [dramUnit, readPlace, Bool.false_eq_true, if_false, hzeros, hclean]

theorem Blank.dramWrite_eq {a n : Nat} (ha : a + n ≤ top) : dramWrite s a (List.replicate n 0) false = s := by
  have hzeros := memWrite_zeros_below (m := s.dram) (a := a) (n := n) fun c hc => by have := h.listed c hc; omega
  have hpoison : ∀ gs : List Nat, gs.foldl (fun p g => del g p) s.poison = s.poison := fun gs =>
    List.foldlRecOn (motive := (· = s.poison)) gs _ rfl fun p hp g _ => by rw [hp, h.clean]; rfl
  rw [dramWrite, hzeros]
  simp only [hpoison, Bool.false_eq_true, if_false]

theorem Blank.vwrite_eq {a : Nat} (ha : a + 64 ≤ top) (halign : a % 64 = 0) : vwrite s a (List.replicate 64 0) false = (s, none) := by
  have htop := h.inDie
  have hzero : a / dieBytes = 0 := Nat.div_eq_of_lt (by omega)
  have hplace : Machine.translate s a true = .ok (false, a) := translate_die (hzero ▸ h.die) (by rw [dieBytes] at htop; omega)
  rw [vwrite_unit halign List.length_replicate hplace, writePlace, if_neg Bool.false_ne_true, h.dramWrite_eq ha]

theorem Blank.copyUnits_eq {src dst n : Nat} (hsrc : src + 64 * n ≤ top) (hdst : dst + 64 * n ≤ top) (halign : dst % 64 = 0)
    (f i : Nat) (hi : i + f ≤ n) : copyUnits (dramUnit src) dst f i s = (s, none) := by
  induction f generalizing i with
  | zero => rfl
  | succ f ih =>
    simp only [copyUnits, h.dramUnit_eq (src := src) (off := 64 * i) (by omega), h.vwrite_eq (a := dst + 64 * i) (by omega) (by omega)]
    exact ih (i + 1) (by omega)

end

/-- R198: a blank page goes to a blank host slot: all that changes is its descriptor, written when the copy begins and when it ends. -/
theorem evictPage_blank {top n slot : Nat} {r : KvRef} {s s1 : State} {d : PageDesc} (hd : descOf s r.g r.p n = d)
    (hs1 : putDesc r.g r.p n { d with moving := true } s = s1) (h : Blank top s1) (hdata : r.p.dataBase + 65536 * d.addr + 65536 ≤ top)
    (hscale : r.p.scaleBase + 4096 * d.addr + 4096 ≤ top) (hdst : r.h.evict + 69632 * slot + 69632 ≤ top)
    (halign : r.h.evict % 64 = 0) :
    evictPage r n slot s = (putDesc r.g r.p n { d with host := true, addr := slot } s1, none) := by
  have hpage := h.copyUnits_eq (src := r.p.dataBase + 65536 * d.addr) (dst := r.h.evict + 69632 * slot) (n := 1024) (by omega) (by omega)
    (by omega) 1024 0 (by omega)
  have hscales := h.copyUnits_eq (src := r.p.scaleBase + 4096 * d.addr) (dst := r.h.evict + 69632 * slot + 65536) (n := 64) (by omega)
    (by omega) (by omega) 64 0 (by omega)
  -- The two copies stand under names of their own, so that no check of this proof runs their units.
  obtain ⟨copyPage, hcopyPage⟩ : ∃ f, copyUnits (dramUnit (r.p.dataBase + 65536 * d.addr)) (r.h.evict + 69632 * slot) 1024 0 = f :=
    ⟨_, rfl⟩
  obtain ⟨copyScales, hcopyScales⟩ :
      ∃ f, copyUnits (dramUnit (r.p.scaleBase + 4096 * d.addr)) (r.h.evict + 69632 * slot + 65536) 64 0 = f := ⟨_, rfl⟩
  rw [hcopyPage] at hpage
  rw [hcopyScales] at hscales
  unfold evictPage
  dsimp only
  rw [hd, hs1, hcopyPage, hcopyScales]
  simp only [hpage, hscales]

end Sys2Proof.Laws
end

section
/-! The statement on the KV commands. -/

namespace Sys2Proof.Proofs

open Sys2Proof.Machine Sys2Proof.Claims Sys2Proof.Laws

/-- KV_EVICT of one page of stream 0, to host slot 0. -/
def evictCmd : HostCmd := { queue := 0, words := [0x28, 0, 0, 0, 0, 1, 0, 0, 0, 0, 0, 0, 0, 0, 0, 0] }

/-- A KV pool of two frames, with its descriptors at 0x50000. -/
def evictPool : ImgPool :=
  { ImgPool.init with kv := true, dataBase := 0x20000, frames := 2, frameBytes := 65536, scaleBase := 0x30000, descOffset := 0x30000 }

def evictImage : Image := { Image.init with pools := [evictPool] }

/-- An IDLE stream with its KV table at 0x40000 and one page flushed. -/
def evictStream : Stream := { Stream.init with state := .idle, r.kvTable := 0x40000, d.kvFlushed := [(0, 1)], d.kvPages := true }

/-- A table of one layer and head, and a descriptor of page 0 in frame 1 that lists the low byte of its frame number twice. -/
def twiceListed : Memory :=
  memWrite [] 0x40000 ([0x4B565442, 0x101, 8].flatMap (leBytes 4)) ++ [(0x50000, 1), (0x50004, 1), (0x50004, 1)]

/-- A device whose DRAM is not in canonical form. -/
def evicting : State :=
  setStream { State.reset with hub.ready := true, hub.cd := 1, cfg.cur := some evictImage, dram := twiceListed } 0 evictStream

/-- What the command works on there. -/
def evictRef : KvRef :=
  { t := 0x40000
    h := { magic := 0x4B565442, layers := 1, heads := 1, i8 := false, cap := 8, pool := 0, length := 0, firstPos := 0, evict := 0 }
    g := evictImage, p := evictPool, a := 0, hd := 0 }

/-- The state in which the command moves its pages. -/
def evictStarted : State := setTotal 0 (cmdW evictCmd 5).toNat (started 0 evictCmd evicting)

/-- The state in which the copy of page 0 begins. -/
def evictCopying : State :=
  putDesc evictImage evictPool 0 { descOf evictStarted evictImage evictPool 0 with moving := true } evictStarted

theorem evicting_mayStart : MayStart evictCmd [] 0 evicting := by
  unfold MayStart
  decide +kernel

theorem evicting_ref : kvRef (started 0 evictCmd evicting) evictCmd = some evictRef := rfl

theorem evicting_moves : kvMoves (started 0 evictCmd evicting) evictCmd evictRef true = [(0, 0)] := by decide +kernel

theorem evicting_slot_free : slotNamed (started 0 evictCmd evicting) evictRef 0 = false := by decide +kernel

theorem evictCopying_blank : Blank 0x40000 evictCopying := ⟨by decide +kernel, by decide +kernel, by decide +kernel, by decide +kernel⟩

/-- The eviction succeeds. -/
theorem evicting_evicts : evictPage evictRef 0 0 evictStarted =
    (putDesc evictImage evictPool 0 { descOf evictStarted evictImage evictPool 0 with host := true, addr := 0 } evictCopying, none) :=
  evictPage_blank (r := evictRef) rfl rfl evictCopying_blank (by decide +kernel) (by decide +kernel) (by decide +kernel) (by decide +kernel)

/-- The frame number still reads 1: the 0 written there took away one of the two listings. -/
theorem evicted_addr :
    (descOf (putDesc evictImage evictPool 0 { descOf evictStarted evictImage evictPool 0 with host := true, addr := 0 } evictCopying)
      evictImage evictPool 0).addr = 1 := by
  decide +kernel

/-- Refutes O47: its clause on KV_EVICT reads the page's new descriptor back from DRAM without asking that DRAM is in canonical form
(log entry 4). Where the list of its bytes names an address twice, the page evicted to host slot 0 reads back as one in slot 1. -/
theorem not_kvCommandsMoveAndSharePages : ¬ Obligations.KvCommandsMoveAndSharePages := by
  unfold Obligations.KvCommandsMoveAndSharePages
  intro h
  obtain ⟨hevict, -⟩ := h evictCmd 0 evicting evicting_mayStart
  obtain ⟨-, hpages⟩ := hevict (by decide)
  obtain ⟨-, hmoves⟩ := hpages evictRef evicting_ref
  obtain ⟨-, hfirst, -⟩ := hmoves (by decide) (by decide) fun m hm => by
    obtain rfl : m = (0, 0) := by simpa [evicting_moves] using hm
    exact ⟨evicting_slot_free, by decide⟩
  obtain ⟨-, haddr, -⟩ := hfirst (0, 0) [] _ evicting_moves evicting_evicts
  exact absurd (evicted_addr.symm.trans haddr) (by decide)

end Sys2Proof.Proofs
end

section
/-! SUPPORT. The translation that a die makes for its DMA engines (R372, R373): it leaves all but the TLB and the free values drawn. -/

namespace Sys2Proof.Laws

open Sys2Proof.Machine

/-- Only the MMU and the number of free values drawn differ. -/
def OnlyMmu (s t : State) : Prop := ∃ m n, t = { s with mmu := m, fresh := n }

theorem OnlyMmu.refl (s : State) : OnlyMmu s s := ⟨_, _, rfl⟩

theorem OnlyMmu.ite {α : Type} {s : State} {x y : α × State} {p : Prop} [Decidable p] (hx : OnlyMmu s x.2) (hy : OnlyMmu s y.2) :
    OnlyMmu s (if p then x else y).2 := by
  split
  · exact hx
  · exact hy

theorem OnlyMmu.getCore {s t : State} (h : OnlyMmu s t) (c : Nat) : getCore t c = getCore s c := by
  obtain ⟨m, n, rfl⟩ := h
  rfl

theorem OnlyMmu.hub {s t : State} (h : OnlyMmu s t) : t.hub = s.hub := by
  obtain ⟨m, n, rfl⟩ := h
  rfl

theorem tlbFill_onlyMmu (die page : Nat) (e : DWord) (s : State) : OnlyMmu s (tlbFill die page e s) := by
  unfold tlbFill
  split
  · exact .refl s
  · dsimp only
    split <;> exact ⟨_, _, rfl⟩

theorem dieTranslate_onlyMmu {die va : Nat} {w : Bool} {s t : State} {r : Except Nat Place}
    (h : dieTranslate die va w s = (r, t)) : OnlyMmu s t := by
  obtain rfl : (dieTranslate die va w s).2 = t := congrArg Prod.snd h
  unfold dieTranslate
  refine .ite (.refl s) ?_
  dsimp only
  split
  · exact .ite (.refl s) (.ite ⟨_, _, rfl⟩ ⟨_, _, rfl⟩)
  · split
    · exact tlbFill_onlyMmu _ _ _ s
    · exact .refl s

end Sys2Proof.Laws
end

section
/-! SUPPORT. The requests of a DMA operation (R255, R261, R276): a tag that is freed, one that is faulted, and when an
operation settles without effect. -/

namespace Sys2Proof.Laws

open Sys2Proof.Machine Sys2Proof.Claims

theorem getCore_modCore_same (s : State) (c : Nat) (f : Core → Core) : getCore (modCore s c f) c = f (getCore s c) :=
  getCore_setCore_same _ _ _

theorem findReq_tag {k : Core} {tag : Nat} {q : DmaReq} (h : findReq k tag = some q) : q.tag = tag := by
  simpa using List.find?_some h

theorem keepsRegs_of_ctxs {c : Nat} {s t : State} (h0 : (getCore t c).ctx0 = (getCore s c).ctx0)
    (h1 : (getCore t c).ctx1 = (getCore s c).ctx1) : KeepsRegs c s t := by
  rw [KeepsRegs, h0, h1]
  exact ⟨rfl, rfl, rfl, rfl⟩

/-! The scoreboard. -/

/-- Of a core, only the scoreboard differs. -/
def ScoreboardOnly (k k' : Core) : Prop := ∃ m, k' = { k with sb := m }

section
variable {k k' : Core} (h : ScoreboardOnly k k')
include h

theorem ScoreboardOnly.reqs : k'.reqs = k.reqs := by
  obtain ⟨m, rfl⟩ := h
  rfl

theorem ScoreboardOnly.sp : k'.sp = k.sp := by
  obtain ⟨m, rfl⟩ := h
  rfl

theorem ScoreboardOnly.ctx0 : k'.ctx0 = k.ctx0 := by
  obtain ⟨m, rfl⟩ := h
  rfl

theorem ScoreboardOnly.ctx1 : k'.ctx1 = k.ctx1 := by
  obtain ⟨m, rfl⟩ := h
  rfl

theorem ScoreboardOnly.findOp (id : Nat) : findOp k' id = findOp k id := by
  obtain ⟨m, rfl⟩ := h
  rfl

theorem ScoreboardOnly.spPoisoned (a n : Nat) : spPoisoned k' a n = spPoisoned k a n := by
  obtain ⟨m, rfl⟩ := h
  rfl

end

theorem dmaMark_scoreboardOnly (k : Core) (id : Nat) : ScoreboardOnly k (dmaMark k id) := by
  unfold dmaMark
  split
  · exact ⟨_, rfl⟩
  · dsimp only
    split <;> exact ⟨_, rfl⟩

theorem freeReads_scoreboardOnly (k : Core) (id : Nat) : ScoreboardOnly k (freeReads k id) := by
  unfold freeReads
  split
  · exact ⟨_, rfl⟩
  · dsimp only
    split
    · exact ⟨_, rfl⟩
    split
    · exact ⟨_, rfl⟩
    split <;> exact ⟨_, rfl⟩

/-! What settles. -/

/-- While a request of the operation is in flight, nothing is settled. -/
theorem settleDma_inFlight {c id : Nat} {s : State} (h : ∃ q ∈ (getCore s c).reqs, q.op = id) : settleDma c id s = s := by
  unfold settleDma
  dsimp only
  split
  · rfl
  · rw [if_pos (by simpa using h)]

/-- An operation that met no fault and has no halt open goes on. -/
theorem settleDma_sound {c id : Nat} {s : State} {o : Op} (ho : findOp (getCore s c) id = some o) (hhalt : o.halting = none)
    (hundone : o.undone = []) : settleDma c id s = s := by
  have hfirst : firstUndone o = none := by simp [firstUndone, hundone]
  simp [settleDma, ho, hhalt, hfirst]

/-! A request that is not delivered. -/

section
variable {c : Nat} {s t : State} {q : DmaReq} {o : Op} (hcore : getCore t c = getCore s c) (kind va : Nat) (w : Bool)
include hcore

theorem faultReq_reqs : (getCore (faultReq c q kind va w t) c).reqs = (dropReq q.tag (getCore s c)).reqs := by
  simp only [faultReq, noteFault, getCore_modCore_same, hcore]
  split <;> rfl

/-- R276: its operation keeps where it begins, and what it met. -/
theorem faultReq_kept (ho : findOp (getCore s c) q.op = some o) (hundone : o.undone = []) :
    ∃ y, findOp (getCore (faultReq c q kind va w t) c) q.op = some y ∧ y.undone = [(q.idx, kind, va, w)] := by
  have hdropped : findOp (dropReq q.tag (getCore s c)) q.op = some o := ho
  refine ⟨{ o with undone := [(q.idx, kind, va, w)] }, ?_, rfl⟩
  simp only [faultReq, noteFault, getCore_modCore_same, hcore, hdropped, hundone, List.nil_append]
  rw [← findOp_id ho]
  exact (findOp_putOp (dropReq q.tag (getCore s c)) { o with undone := [(q.idx, kind, va, w)] }).trans
    (congrArg (Option.map _) ((congrArg (findOp _) (findOp_id ho)).trans hdropped))

end

end Sys2Proof.Laws
end

section
/-! SUPPORT. Responses of reads (R251, R255, R366, R383): the data in the tag's buffer, by the place that it was read from. -/

namespace Sys2Proof.Laws

open Sys2Proof.Machine Sys2Proof.Claims

/-- In k' the request's buffer holds data, behind those of k; contexts and scratchpad are those of k. -/
def Buffered (q : DmaReq) (bs : List Byte) (p : Bool) (k k' : Core) : Prop :=
  k'.reqs = k.reqs.filter (fun r => decide (r.tag ≠ q.tag)) ++ [{ q with data := bs, poison := p, state := .returned }] ∧
  k'.sp = k.sp ∧ k'.ctx0 = k.ctx0 ∧ k'.ctx1 = k.ctx1

/-- R493: a restart of the island leaves the contexts. -/
theorem buffered_keepsRegs {c : Nat} {s u : State} {q : DmaReq} {bs : List Byte} {p : Bool}
    (h : Buffered q bs p (getCore (modCore s c restart) c) (getCore u c)) : KeepsRegs c s u := by
  obtain ⟨-, -, h0, h1⟩ := h
  rw [getCore_modCore_same] at h0 h1
  exact keepsRegs_of_ctxs h0 h1

theorem StallsOnly.buffered {q : DmaReq} {bs : List Byte} {p : Bool} {k k' k'' : Core} (h : StallsOnly k' k'')
    (hb : Buffered q bs p k k') : Buffered q bs p k k'' := by
  obtain ⟨n, m, rfl⟩ := h
  exact hb

/-- R273: the response for a destination other than a chain waits in its buffer. -/
theorem gotData_buffered (c : Nat) {o : Op} (q : DmaReq) (bs : List Byte) (p : Bool) (s : State) (hd : dDst o.desc ≠ 4) :
    Buffered q bs p (getCore s c) (getCore (gotData c o q bs p s) c) := by
  simp only [gotData, if_neg hd, getCore_modCore_same]
  exact ⟨rfl, rfl, rfl, rfl⟩

theorem gotData_hub (c : Nat) {o : Op} (q : DmaReq) (bs : List Byte) (p : Bool) (s : State) (hd : dDst o.desc ≠ 4) :
    (gotData c o q bs p s).hub = s.hub := by
  rw [gotData, if_neg hd]
  rfl

theorem settleDma_buffered {c : Nat} {q : DmaReq} {bs : List Byte} {p : Bool} {k : Core} {s : State}
    (h : Buffered q bs p k (getCore s c)) : settleDma c q.op s = s :=
  settleDma_inFlight ⟨{ q with data := bs, poison := p, state := .returned }, by rw [h.1]; simp, rfl⟩

theorem readPoison_coresStalled (c : Nat) (o : Op) (pl : Place) (s : State) : CoresStalled s (readPoison c o pl s) := by
  unfold readPoison
  split
  · exact poisonChunk_coresStalled _ _ _ _ _ _ _
  · exact .refl s

theorem EventsAndCores.hub {s t : State} (h : EventsAndCores s t) : t.hub = s.hub := by
  obtain ⟨e, b, m, rfl⟩ := h
  rfl

theorem poisonChunk_hub (n : Nat) (num : DWord) (unit layer : Nat) (core : CoreId) (granule : Nat) (s : State) :
    (poisonChunk n num unit layer core granule s).hub = s.hub := by
  unfold poisonChunk
  split
  · rfl
  · dsimp only
    split
    · rfl
    · exact (raise_eventsAndCores _ core _ _ (by decide)).hub

theorem readPoison_hub (c : Nat) (o : Op) (pl : Place) (s : State) : (readPoison c o pl s).hub = s.hub := by
  unfold readPoison
  split
  · exact poisonChunk_hub _ _ _ _ _ _ _
  · rfl

/-! The response by its source. -/

section
variable {c tag : Nat} {s s1 : State} {q : DmaReq} {o : Op} (hq : findReq (getCore s c) tag = some q)
  (ho : findOp (getCore s c) q.op = some o) (hread : q.isWrite = false) (hsent : q.state = .sent)
include hq ho hread hsent

/-- R258: from the scratchpad of a core. -/
theorem respond_core (hsrc : dSrc o.desc = 3) : respond c tag false s = settleDma c q.op (gotData c o q
    (spRead (getCore s (spCore (dSrcAddr o.desc))) (srcAt (getCore s c) o q.idx).toNat q.len)
    (spPoisoned (getCore s (spCore (dSrcAddr o.desc))) (srcAt (getCore s c) o q.idx).toNat q.len) s) := by
  simp [respond, hq, ho, hread, hsent, hsrc]

variable (hsrc : dSrc o.desc = 0)
include hsrc

/-- R255: from device memory. -/
theorem respond_memory {pl : Place}
    (htr : dieTranslate (coreDie s c) (srcAt (getCore s c) o q.idx).toNat false s = (.ok pl, s1)) :
    respond c tag false s = settleDma c q.op (if (readPlace s1 pl q.len).2
      then readPoison c o pl (gotData c o q (readPlace s1 pl q.len).1 (readPlace s1 pl q.len).2 s1)
      else gotData c o q (readPlace s1 pl q.len).1 (readPlace s1 pl q.len).2 s1) := by
  simp [respond, hq, ho, hread, hsent, hsrc, htr]

/-- R276: from an address that does not translate. -/
theorem respond_fault {kind : Nat}
    (htr : dieTranslate (coreDie s c) (srcAt (getCore s c) o q.idx).toNat false s = (.error kind, s1)) :
    respond c tag false s = settleDma c q.op (faultReq c q kind (srcAt (getCore s c) o q.idx).toNat false s1) := by
  simp [respond, hq, ho, hread, hsent, hsrc, htr]

/-- R383: from host memory, with an error. -/
theorem respond_hostError {pl : Place} (hhost : pl.1 = true)
    (htr : dieTranslate (coreDie s c) (srcAt (getCore s c) o q.idx).toNat false s = (.ok pl, s1)) :
    respond c tag true s = settleDma c q.op (readPoison c o pl (gotData c o q (drawBytes s1 q.len).1 true
      { (drawBytes s1 q.len).2 with hub.aerErrors := (drawBytes s1 q.len).2.hub.aerErrors + 1 })) := by
  simp [respond, hq, ho, hread, hsent, hsrc, htr, hhost]

end

/-! What the response leaves in the buffer. -/

section
variable {c tag : Nat} {s s1 : State} {q : DmaReq} {o : Op} (hq : findReq (getCore s c) tag = some q)
  (ho : findOp (getCore s c) q.op = some o) (hread : q.isWrite = false) (hsent : q.state = .sent) (hdst : dDst o.desc ≠ 4)
include hq ho hread hsent hdst

theorem respond_core_buffered (hsrc : dSrc o.desc = 3) : Buffered q
    (spRead (getCore s (spCore (dSrcAddr o.desc))) (srcAt (getCore s c) o q.idx).toNat q.len)
    (spPoisoned (getCore s (spCore (dSrcAddr o.desc))) (srcAt (getCore s c) o q.idx).toNat q.len)
    (getCore s c) (getCore (respond c tag false s) c) := by
  rw [respond_core hq ho hread hsent hsrc, settleDma_buffered (gotData_buffered c q _ _ s hdst)]
  exact gotData_buffered c q _ _ s hdst

theorem respond_memory_buffered (hsrc : dSrc o.desc = 0) {pl : Place}
    (htr : dieTranslate (coreDie s c) (srcAt (getCore s c) o q.idx).toNat false s = (.ok pl, s1)) :
    Buffered q (readPlace s1 pl q.len).1 (readPlace s1 pl q.len).2 (getCore s c) (getCore (respond c tag false s) c) := by
  have hgot := gotData_buffered c q (readPlace s1 pl q.len).1 (readPlace s1 pl q.len).2 s1 hdst
  rw [(dieTranslate_onlyMmu htr).getCore] at hgot
  have hnoted := (CoresStalled.ite (p := (readPlace s1 pl q.len).2 = true) (readPoison_coresStalled c o pl _) (.refl _) c).buffered hgot
  rw [respond_memory hq ho hread hsent hsrc htr, settleDma_buffered hnoted]
  exact hnoted

theorem respond_hostError_buffered (hsrc : dSrc o.desc = 0) {pl : Place} (hhost : pl.1 = true)
    (htr : dieTranslate (coreDie s c) (srcAt (getCore s c) o q.idx).toNat false s = (.ok pl, s1)) :
    Buffered q (drawBytes s1 q.len).1 true (getCore s c) (getCore (respond c tag true s) c) ∧
    (respond c tag true s).hub.aerErrors = s.hub.aerErrors + 1 := by
  have hmmu := dieTranslate_onlyMmu htr
  have hgot := gotData_buffered c q (drawBytes s1 q.len).1 true
    { (drawBytes s1 q.len).2 with hub.aerErrors := (drawBytes s1 q.len).2.hub.aerErrors + 1 } hdst
  have hnoted := (readPoison_coresStalled c o pl _ c).buffered hgot
  rw [respond_hostError hq ho hread hsent hsrc hhost htr, settleDma_buffered hnoted, readPoison_hub, gotData_hub _ _ _ _ _ hdst,
    ← hmmu.hub, ← hmmu.getCore]
  exact ⟨hnoted, rfl⟩

end

end Sys2Proof.Laws
end

section
/-! SUPPORT. A movement cycle with returned data for the scratchpad (R251, R255, R261, R365). -/

namespace Sys2Proof.Laws

open Sys2Proof.Machine Sys2Proof.Claims

/-! Poison of a range. -/

theorem mem_ins {i j : Nat} {l : List Nat} : i ∈ ins j l ↔ i = j ∨ i ∈ l := by
  induction l with
  | nil => simp [ins]
  | cons k r ih =>
    rw [ins]
    split
    · simp
    · split
      next h => simp [h]
      · rw [List.mem_cons, List.mem_cons, ih, or_left_comm]

theorem mem_foldl_ins {i : Nat} {us l : List Nat} (h : i ∈ us ∨ i ∈ l) : i ∈ us.foldl (fun p u => ins u p) l := by
  induction us generalizing l with
  | nil => simpa using h
  | cons u r ih =>
    rw [List.mem_cons, or_assoc, or_left_comm] at h
    exact ih (h.imp_right mem_ins.mpr)

/-- R365: a poisoned write of some bytes poisons what it covers. -/
theorem spPoisoned_spWrite (k : Core) (a : Nat) {bs : List Byte} (hne : bs ≠ []) : spPoisoned (spWrite k a bs true) a bs.length = true := by
  have hfirst : a / 64 ∈ unitsOf a bs.length := by
    rw [unitsOf, granulesOf, if_neg (by simpa using hne)]
    exact List.mem_map.mpr ⟨0, by simp, rfl⟩
  exact List.any_eq_true.mpr ⟨a / 64, hfirst, by simpa [spWrite] using mem_foldl_ins (.inl hfirst)⟩

/-! The cycle. -/

/-- R251: the oldest buffer that holds data is next. -/
theorem dmaStep_returned {c : Nat} {s : State} {q : DmaReq}
    (h : ((getCore s c).reqs.find? fun q => decide (q.state = .returned)) = some q) : dmaStep c s = .ok (passReturned c q s) := by
  simp [dmaStep, h]

section
variable {c : Nat} {s : State} {q : DmaReq} {o : Op} (ho : findOp (getCore s c) q.op = some o) (hhalt : o.halting = none)
  (hundone : o.undone = []) (hdst : dDst o.desc = 1)
  (hraw : rawViolation (getCore s c) false true (dstAt (getCore s c) o q.idx).toNat q.data.length = none)
include ho hhalt hundone hdst hraw

/-- R255: the data stands in the scratchpad, and the tag is free. -/
theorem passReturned_lands : ScoreboardOnly
    (spWrite (dropReq q.tag (getCore s c)) (dstAt (getCore s c) o q.idx).toNat q.data (q.poison || o.poison))
    (getCore (passReturned c q s) c) := by
  have hid := findOp_id ho
  have hdropped : findOp (dropReq q.tag (getCore s c)) q.op = some o := ho
  have hfree : rawViolation (dropReq q.tag (getCore s c)) false true (dstAt (dropReq q.tag (getCore s c)) o q.idx).toNat q.data.length = none := hraw
  have hlands : ScoreboardOnly
      (spWrite (dropReq q.tag (getCore s c)) (dstAt (getCore s c) o q.idx).toNat q.data (q.poison || o.poison))
      (getCore (deliverTo c q.op q.idx q.data q.poison q.dry (modCore s c (dropReq q.tag))) c) := by
    simp only [deliverTo, getCore_modCore_same, hdropped, hdst, hfree, getCore_setCore_same]
    exact dmaMark_scoreboardOnly _ _
  have hlocal : ¬ dDst o.desc = 0 := by rw [hdst]; decide
  simp only [passReturned, ho, if_neg hlocal, hid]
  rw [settleDma_sound ((hlands.findOp q.op).trans ho) hhalt hundone]
  exact hlands

end

end Sys2Proof.Laws
end

section
/-! SUPPORT. Acknowledgements of writes (R255, R256, R276), by the destination. -/

namespace Sys2Proof.Laws

open Sys2Proof.Machine Sys2Proof.Claims

/-- R69: outside the state block of its stream a write is not held back. -/
theorem landWrite_outside {s : State} {o : Op} {a : Nat} (pl : Place) (bs : List Byte) (p : Bool) (h : inStateBlock s o a = false) :
    landWrite o a pl bs p s = writePlace s pl bs p := by
  unfold landWrite
  split
  · rw [if_neg (by simp [h])]
  · rfl

/-- The acknowledgement ends with the read ranges that are free now. -/
def acked (c op : Nat) (s : State) : State := modCore s c fun k => freeReads k op

theorem acked_scoreboardOnly (c op : Nat) (s : State) : ScoreboardOnly (getCore s c) (getCore (acked c op s) c) := by
  rw [acked, getCore_modCore_same]
  exact freeReads_scoreboardOnly _ _

theorem acked_dropped_other {c d : Nat} (s : State) (tag op : Nat) (h : d ≠ c) :
    getCore (acked c op (modCore s c (dropReq tag))) d = getCore s d :=
  (getCore_setCore_other _ _ _ _ h).trans (getCore_setCore_other _ _ _ _ h)

section
variable {c tag : Nat} {s s1 : State} {q : DmaReq} {o : Op} (hq : findReq (getCore s c) tag = some q)
  (hop : q.op < 16) (ho : findOp (getCore s c) q.op = some o) (hwrite : q.isWrite = true)
include hq hop ho hwrite

/-- R258: the write has landed in another core. -/
theorem acknowledge_core (hdst : dDst o.desc = 3) (hlanded : q.state = .landed) :
    acknowledge c tag s = settleDma c q.op (acked c q.op (modCore s c (dropReq tag))) := by
  simp [acknowledge, acked, hq, Nat.not_le.mpr hop, ho, hwrite, hdst, hlanded]

variable (hdst : dDst o.desc = 0) (hfar : farWrite o (dstAt (getCore s c) o q.idx).toNat q.data s = none)
include hdst hfar

/-- R255: the write lands in device memory. -/
theorem acknowledge_memory {pl : Place}
    (htr : dieTranslate (coreDie s c) (dstAt (getCore s c) o q.idx).toNat true s = (.ok pl, s1)) :
    acknowledge c tag s = settleDma c q.op (acked c q.op
      (landWrite o (dstAt (getCore s c) o q.idx).toNat pl q.data q.poison (modCore s1 c (dropReq tag)))) := by
  simp [acknowledge, acked, hq, Nat.not_le.mpr hop, ho, hwrite, hdst, hfar, htr]

/-- R276: the MMU refuses the write. -/
theorem acknowledge_refused {kind : Nat}
    (htr : dieTranslate (coreDie s c) (dstAt (getCore s c) o q.idx).toNat true s = (.error kind, s1)) :
    acknowledge c tag s = settleDma c q.op (acked c q.op (faultReq c q kind (dstAt (getCore s c) o q.idx).toNat true s1)) := by
  simp [acknowledge, acked, hq, Nat.not_le.mpr hop, ho, hwrite, hdst, hfar, htr]

end

/-- After the tag is freed, an operation without fault or halt only frees its read ranges. -/
theorem acked_settled {c tag op : Nat} {s t : State} {o : Op} (ht : getCore t c = dropReq tag (getCore s c))
    (ho : findOp (getCore s c) op = some o) (hhalt : o.halting = none) (hundone : o.undone = []) :
    settleDma c op (acked c op t) = acked c op t ∧ ScoreboardOnly (dropReq tag (getCore s c)) (getCore (acked c op t) c) := by
  have hsb := acked_scoreboardOnly c op t
  rw [ht] at hsb
  exact ⟨settleDma_sound ((hsb.findOp op).trans ho) hhalt hundone, hsb⟩

/-- R255: a write that lands outside the state block is in memory at its place, and its tag is free. -/
theorem landed_memory (c tag : Nat) {s s1 : State} {o : Op} {a : Nat} (pl : Place) (bs : List Byte) (p : Bool) (hmmu : OnlyMmu s s1)
    (hblock : inStateBlock s o a = false) : let t := landWrite o a pl bs p (modCore s1 c (dropReq tag))
    getCore t c = dropReq tag (getCore s c) ∧ t.dram = (writePlace s1 pl bs p).dram ∧ t.hostMem = (writePlace s1 pl bs p).hostMem := by
  have hblock1 : inStateBlock (modCore s1 c (dropReq tag)) o a = false := by
    obtain ⟨m, n, rfl⟩ := hmmu
    exact hblock
  intro t
  have ht : t = writePlace (modCore s1 c (dropReq tag)) pl bs p := landWrite_outside pl bs p hblock1
  rw [ht]
  refine ⟨?_, ?_, ?_⟩
  · rw [getCore, (writePlace_onlyMemory _ pl bs p).cores]
    exact (getCore_modCore_same _ _ _).trans (congrArg _ (hmmu.getCore c))
  all_goals
    unfold writePlace
    split <;> rfl

end Sys2Proof.Laws
end

section
/-! The statements on responses and acknowledgements of DMA requests. -/

namespace Sys2Proof.Proofs

open Sys2Proof.Machine Sys2Proof.Claims Sys2Proof.Laws

/-- Settles O24: the response leaves its data in the buffer of its tag or keeps its fault (`respond_core`, `respond_memory`,
`respond_fault`), and the cycle of a returned buffer is `passReturned`, one write of the scratchpad. -/
theorem dmaResponsesDeliver : Obligations.DmaResponsesDeliver := by
  unfold Obligations.DmaResponsesDeliver
  refine ⟨?_, ?_⟩
  · intro core tag s q o hruns c s0 k a buffered hq ho hread hsent
    have hexec : exec (.dmaResponseReturn core tag) s = .next (dmaRun c (respond c tag.toNat false s0)) :=
      coreEvent_next (fun c s => respond c tag.toNat false (modCore s c restart)) hruns
    refine ⟨fun hsrc hdst => ?_, fun pl s1 hsrc hdst htr => ?_, fun kind s1 hsrc hundone htr => ?_⟩
    · have hb := respond_core_buffered hq ho hread hsent hdst hsrc
      have ⟨hreqs, hsp, _⟩ := hb
      exact ⟨_, hexec, hreqs, hsp, buffered_keepsRegs hb⟩
    · have hb := respond_memory_buffered hq ho hread hsent hdst hsrc htr
      have ⟨hreqs, hsp, _⟩ := hb
      exact ⟨_, hexec, hreqs, hsp, buffered_keepsRegs hb⟩
    · have hcore := (dieTranslate_onlyMmu htr).getCore c
      rw [hexec, respond_fault hq ho hread hsent hsrc htr, ← findReq_tag hq]
      exact ⟨rfl, faultReq_reqs hcore kind a false, faultReq_kept hcore kind a false ho hundone⟩
  · intro c s q o k hnext ho hhalt hundone hdst hraw hwf
    have hlands := passReturned_lands ho hhalt hundone hdst hraw
    refine ⟨_, dmaStep_returned hnext, hlands.reqs, keepsRegs_of_ctxs hlands.ctx0 hlands.ctx1, fun x => ?_⟩
    rw [hlands.sp]
    exact memGet_memWrite k.sp _ x q.data hwf

/-- Settles O29: a host error buffers poisoned bytes, whose cycle poisons what it writes; an acknowledgement frees its tag by the
destination (`acknowledge_core`, `acknowledge_memory`, `acknowledge_refused`). -/
theorem hostReadErrorsAndWriteAcknowledgements : Obligations.HostReadErrorsAndWriteAcknowledgements := by
  unfold Obligations.HostReadErrorsAndWriteAcknowledgements
  refine ⟨?_, ?_, ?_⟩
  · intro core tag s q o hruns c s0 k a hq ho hread hsent pl s1 hhost hsrc hdst htr
    obtain ⟨hb, haer⟩ := respond_hostError_buffered hq ho hread hsent hdst hsrc hhost htr
    have ⟨hreqs, hsp, _⟩ := hb
    exact ⟨_, coreEvent_next (fun c s => respond c tag.toNat true (modCore s c restart)) hruns, haer, hsp, buffered_keepsRegs hb,
      _, length_leBytes _ _, hreqs⟩
  · intro c s q o k hnext ho hhalt hundone hdst hraw hpoison hne
    have hlands := passReturned_lands ho hhalt hundone hdst hraw
    rw [hpoison, Bool.true_or] at hlands
    exact ⟨_, dmaStep_returned hnext, hlands.reqs, (hlands.spPoisoned _ _).trans (spPoisoned_spWrite _ _ hne)⟩
  · intro core tag s q o hruns c k a hq hop ho hwrite hhalt hundone
    have hexec : exec (.dmaWriteAck core tag) s = .next (dmaRun c (acknowledge c tag.toNat s)) :=
      coreEvent_next (fun c => acknowledge c tag.toNat) hruns
    refine ⟨fun hdst hlanded => ?_, fun pl s1 hdst hfar htr hblock => ?_, fun kind s1 hdst hfar htr => ?_⟩
    · obtain ⟨hsettled, hcore⟩ := acked_settled (getCore_modCore_same s c (dropReq tag.toNat)) ho hhalt hundone
      rw [acknowledge_core hq hop ho hwrite hdst hlanded, hsettled] at hexec
      exact ⟨_, hexec, ⟨rfl, fun d hd => acked_dropped_other s tag.toNat q.op hd⟩, hcore.reqs, hcore.sp,
        keepsRegs_of_ctxs hcore.ctx0 hcore.ctx1⟩
    · obtain ⟨hcore, hdram, hhost⟩ := landed_memory c tag.toNat pl q.data q.poison (dieTranslate_onlyMmu htr) hblock
      obtain ⟨hsettled, hfreed⟩ := acked_settled hcore ho hhalt hundone
      rw [acknowledge_memory hq hop ho hwrite hdst hfar htr, hsettled] at hexec
      exact ⟨_, hexec, hfreed.reqs, hdram, hhost⟩
    · have hcore := (dieTranslate_onlyMmu htr).getCore c
      rw [hexec, acknowledge_refused hq hop ho hwrite hdst hfar htr, ← findReq_tag hq]
      exact ⟨rfl, faultReq_reqs hcore kind a true, faultReq_kept hcore kind a true ho hundone⟩

end Sys2Proof.Proofs
end

section
/-! SUPPORT. Chunks formed of a stream's input (R289, R296, R301): what forming leaves of the entry's state and of Thyme's figures. -/

namespace Sys2Proof.Laws

open Sys2Proof.Machine Sys2Proof.Claims

/-! Thyme's figures. -/

/-- Thyme's registers and figures, and the power figures, are as before. -/
def KeepsThyme (s t : State) : Prop := t.thm = s.thm ∧ t.pwr = s.pwr

section
variable {s t u : State}

theorem KeepsThyme.refl (s : State) : KeepsThyme s s := ⟨rfl, rfl⟩

theorem KeepsThyme.trans (h : KeepsThyme s t) (h' : KeepsThyme t u) : KeepsThyme s u := ⟨h'.1.trans h.1, h'.2.trans h.2⟩

theorem KeepsThyme.ite {p : Prop} [Decidable p] (ht : KeepsThyme s t) (hu : KeepsThyme s u) : KeepsThyme s (if p then t else u) := by
  split
  · exact ht
  · exact hu

theorem KeepsThyme.foldl {α : Type} {f : State → α → State} (h : ∀ s a, KeepsThyme s (f s a)) (l : List α) (s : State) :
    KeepsThyme s (l.foldl f s) :=
  List.foldlRecOn (motive := KeepsThyme s) l f (.refl s) fun t ht a _ => ht.trans (h t a)

theorem EventsAndCores.keepsThyme (h : EventsAndCores s t) : KeepsThyme s t := by
  obtain ⟨e, b, m, rfl⟩ := h
  exact .refl s

theorem OnlyMemory.keepsThyme (h : OnlyMemory s t) : KeepsThyme s t := by
  obtain ⟨d, p, m, rfl⟩ := h
  exact .refl s

/-! A stream's state. -/

/-- Thyme's figures and the state of stream n are as before. -/
def KeepsState (n : Nat) (s t : State) : Prop := KeepsThyme s t ∧ (getStream t n).state = (getStream s n).state

theorem KeepsState.refl (n : Nat) (s : State) : KeepsState n s s := ⟨.refl s, rfl⟩

theorem KeepsState.trans {n : Nat} (h : KeepsState n s t) (h' : KeepsState n t u) : KeepsState n s u :=
  ⟨h.1.trans h'.1, h'.2.trans h.2⟩

theorem KeepsState.ite {n : Nat} {p : Prop} [Decidable p] (ht : KeepsState n s t) (hu : KeepsState n s u) :
    KeepsState n s (if p then t else u) := by
  split
  · exact ht
  · exact hu

theorem KeepsState.foldl {α : Type} {n : Nat} {f : State → α → State} (h : ∀ s a, KeepsState n s (f s a)) (l : List α) (s : State) :
    KeepsState n s (l.foldl f s) :=
  List.foldlRecOn (motive := KeepsState n s) l f (.refl n s) fun t ht a _ => ht.trans (h t a)

theorem EventsAndCores.streams (h : EventsAndCores s t) : t.streams = s.streams := by
  obtain ⟨e, b, m, rfl⟩ := h
  rfl

theorem EventsAndCores.getStream (h : EventsAndCores s t) (n : Nat) : getStream t n = getStream s n := by
  rw [Machine.getStream, h.streams, Machine.getStream]

theorem EventsAndCores.keepsState (h : EventsAndCores s t) (n : Nat) : KeepsState n s t := ⟨h.keepsThyme, by rw [h.getStream]⟩

end

theorem setStream_keepsThyme (s : State) (n : Nat) (x : Stream) : KeepsThyme s (setStream s n x) := ⟨rfl, rfl⟩

theorem modStream_keepsThyme (s : State) (n : Nat) (f : Stream → Stream) : KeepsThyme s (modStream s n f) := setStream_keepsThyme s n _

theorem modStream_keepsState {n : Nat} {f : Stream → Stream} (s : State) (h : ∀ x, (f x).state = x.state) :
    KeepsState n s (modStream s n f) :=
  ⟨modStream_keepsThyme s n f, by rw [getStream_modStream_same, h]⟩

theorem mmu_keepsState (n : Nat) (s : State) (m : Mmu) : KeepsState n s { s with mmu := m } := ⟨⟨rfl, rfl⟩, rfl⟩

/-- An event of a stream, of class below GROUP. -/
theorem raiseStream_eventsAndCores {code : Nat} (n : Nat) (detail : List Word) (s : State) (hc : eventClass code < 4) :
    EventsAndCores s (raiseStream code n detail s) :=
  raise_eventsAndCores _ _ _ s hc

/-! Forming. -/

theorem closeGap_keepsState (n : Nat) (s : State) : KeepsState n s (closeGap n s) := by
  unfold closeGap
  extract_lets d
  have hclosed : KeepsState n s (modStream s n fun x => { x with d.gapRun := 0 }) := modStream_keepsState s fun _ => rfl
  split
  · exact .refl n s
  · exact hclosed.trans ((raiseStream_eventsAndCores n _ _ (by decide)).keepsState n)

theorem poisonChunk_keepsState (n : Nat) (num : DWord) (unit layer : Nat) (core : CoreId) (granule : Nat) (s : State) :
    KeepsState n s (poisonChunk n num unit layer core granule s) := by
  unfold poisonChunk
  split
  · exact .refl n s
  · extract_lets s1 mmu s2
    have hmarked : KeepsState n s s1 := modStream_keepsState s fun _ => rfl
    have hcounted : KeepsState n s1 s2 := mmu_keepsState n s1 _
    exact .ite hmarked (hmarked.trans (hcounted.trans ((raise_eventsAndCores _ core _ s2 (by decide)).keepsState n)))

theorem noteFrame_keepsState (n : Nat) (t : ImgTemplate) (num : DWord) (f : Frame) (s : State) :
    KeepsState n s (noteFrame n t num f s) := by
  refine .ite (modStream_keepsState s ?_) (closeGap_keepsState n s)
  exact fun _ => rfl

theorem formChunk_keepsState (n : Nat) (t : ImgTemplate) (fs : List Frame) (arrival : Nat) (s : State) :
    KeepsState n s (formChunk n t fs arrival s) := by
  unfold formChunk
  extract_lets x num fpp at' lastF src c s1 s2
  have hnoted : KeepsState n s s1 := .foldl (fun s f => noteFrame_keepsState n t num f s) fs s
  have hlisted : KeepsState n s s2 := hnoted.trans (modStream_keepsState s1 fun _ => rfl)
  exact .ite (hlisted.trans (poisonChunk_keepsState _ _ _ _ _ _ _)) hlisted

theorem formChunks_keepsState (f n : Nat) (t : ImgTemplate) (time : Nat) (s : State) : KeepsState n s (formChunks f n t time s) := by
  induction f generalizing s with
  | zero => exact .refl n s
  | succ f ih =>
    unfold formChunks
    dsimp only
    split
    · split
      · exact (formChunk_keepsState _ _ _ _ s).trans (ih _)
      · exact .refl n s
    · split
      · exact .refl n s
      · refine .ite (.refl n s) ?_
        split
        · exact formChunk_keepsState _ _ _ _ s
        · exact .refl n s

theorem settleEnd_keepsState (n : Nat) (s : State) : KeepsState n s (settleEnd n s) := by
  unfold settleEnd
  dsimp only
  split
  · exact .refl n s
  · refine .ite (.refl n s) (.ite (modStream_keepsState s ?_) (modStream_keepsState s ?_))
    all_goals exact fun _ => rfl

theorem formInput_keepsState (n time : Nat) (s : State) : KeepsState n s (formInput n time s) := by
  unfold formInput
  extract_lets x
  split
  · exact .refl n s
  next t _ =>
    extract_lets s1 s2
    have hkept : KeepsState n s s2 := (formChunks_keepsState _ n t time s).trans (modStream_keepsState s1 fun _ => rfl)
    exact hkept.trans (.ite (settleEnd_keepsState n s2) (.refl n s2))

/-! Observation (R289). -/

theorem indexPoison_keeps (n va : Nat) (s : State) : KeepsThyme s (indexPoison n va s) ∧ (indexPoison n va s).streams = s.streams := by
  unfold indexPoison
  extract_lets c
  generalize hs : { s with mmu.poisonCount := satAdd s.mmu.poisonCount 1 } = s1
  have hraised := raiseStream_eventsAndCores (code := 0x0303) n (evPrefix 9 0xFF c.toNat ++ words64 (poisonAddr s va 8)) s1 (by decide)
  refine ⟨.trans ?_ hraised.keepsThyme, hraised.streams.trans ?_⟩
  all_goals rw [← hs]
  exact ⟨rfl, rfl⟩

/-- Reading an index can report poison, and changes no stream. -/
theorem readIndex_keeps (n va : Nat) (s : State) : KeepsThyme s (readIndex n va s).2 ∧ (readIndex n va s).2.streams = s.streams := by
  unfold readIndex
  split
  · exact ⟨.refl s, rfl⟩
  · exact indexPoison_keeps n va s
  · exact ⟨.refl s, rfl⟩

/-- Input that was overwritten faults its stream (R286). -/
theorem overwrittenInput_faults (n time : Nat) (s : State) :
    KeepsThyme s (overwrittenInput n time s) ∧ (getStream (overwrittenInput n time s) n).state = .faulted := by
  unfold overwrittenInput
  extract_lets x kept num first chunk c regs ints s1 s2 p
  have hgap := closeGap_keepsState n s1
  have hraised := raiseStream_eventsAndCores (code := 0x0403) n [0, num.truncate 32, 0, BitVec.ofNat 32 p.1] p.2 (by decide)
  have hfaulted : (getStream s1 n).state = .faulted := congrArg Stream.state (getStream_setStream_same s n _)
  exact ⟨(setStream_keepsThyme s n _).trans (hgap.1.trans (.trans ⟨rfl, rfl⟩ hraised.keepsThyme)),
    (congrArg Stream.state (hraised.getStream n)).trans (hgap.2.trans hfaulted)⟩

theorem acceptEnd_keepsThyme (n bound time : Nat) (s : State) : KeepsThyme s (acceptEnd n bound time s) := modStream_keepsThyme s n _

theorem acceptEnd_state (n bound time : Nat) (s : State) : (getStream (acceptEnd n bound time s) n).state = .ending := by
  rw [acceptEnd, getStream_modStream_same]

/-- The stream stays in its state, is ENDING because an END frame was seen, or is FAULTED because input was overwritten. -/
theorem observeAt_effect (n time : Nat) (s : State) : KeepsThyme s (observeAt n time s) ∧
    ((getStream (observeAt n time s) n).state = (getStream s n).state ∨ (getStream (observeAt n time s) n).state = .ending ∨
      (getStream (observeAt n time s) n).state = .faulted) := by
  unfold observeAt
  extract_lets x old
  have hread := readIndex_keeps n (x.r.inRing.toNat + 16) s
  have hstate : KeepsState n s (readIndex n (x.r.inRing.toNat + 16) s).2 := ⟨hread.1, by rw [getStream, hread.2, getStream]⟩
  split
  next s1 hr =>
    rw [hr] at hstate
    dsimp only at hstate
    exact ⟨hstate.1, .inl hstate.2⟩
  next wr s1 hr =>
    rw [hr] at hstate
    dsimp only at hstate
    split
    · have h := overwrittenInput_faults n time s1
      exact ⟨hstate.1.trans h.1, .inr (.inr h.2)⟩
    · extract_lets fresh s2 s3
      have hkept : KeepsState n s s2 := by
        refine hstate.trans (.ite (.refl n s1) (modStream_keepsState s1 ?_))
        exact fun _ => rfl
      have hended : KeepsThyme s s3 ∧ ((getStream s3 n).state = (getStream s n).state ∨ (getStream s3 n).state = .ending) := by
        subst s3
        split
        · exact ⟨hkept.1.trans (acceptEnd_keepsThyme n _ time s2), .inr (acceptEnd_state n _ time s2)⟩
        · exact ⟨hkept.1, .inl hkept.2⟩
      have hformed := formInput_keepsState n time s3
      exact ⟨hended.1.trans hformed.1, hended.2.imp hformed.2.trans fun h => .inl (hformed.2.trans h)⟩

/-- R289: a stream that enters RUNNING can find the end of its input, or find it overwritten. -/
theorem enterRunning_effect (n : Nat) (s : State) : KeepsThyme s (enterRunning n s) ∧
    ((getStream (enterRunning n s) n).state = .running ∨ (getStream (enterRunning n s) n).state = .ending ∨
      (getStream (enterRunning n s) n).state = .faulted) := by
  obtain ⟨hthyme, hstate⟩ := observeAt_effect n (now s) (modStream s n fun x => { x with state := .running })
  rw [getStream_modStream_same] at hstate
  exact ⟨(modStream_keepsThyme s n _).trans hthyme, hstate⟩

/-- R296: an end command leaves its stream ENDING, or FAULTED where its input was overwritten. -/
theorem endCommand_state (n : Nat) (s : State) :
    (getStream (endCommand n s) n).state = .ending ∨ (getStream (endCommand n s) n).state = .faulted := by
  unfold endCommand
  dsimp only
  split
  · assumption
  · exact .inl ((formInput_keepsState n _ _).2.trans (acceptEnd_state n _ _ _))

end Sys2Proof.Laws
end

section
/-! SUPPORT. Commands of a stream (Table 9.6, R293-R297): what a write of STE_CTRL with a command does, by what its stream accepts. -/

namespace Sys2Proof.Laws

open Sys2Proof.Machine Sys2Proof.Claims

/-! The write (R282, R390). -/

/-- The command that a write carries is the one that its row gives it. -/
theorem fld_withCmd {k : Nat} (hk : k < 8) (ctrl : Word) : fld (withCmd k ctrl) 0 3 = k := by
  have hmask : (0xFFFFFFF8 : Word).toNat % 2 ^ 3 = 0 := rfl
  rw [fld, Nat.shiftRight_zero, withCmd, BitVec.toNat_or, BitVec.toNat_and, Nat.or_mod_two_pow, Nat.and_mod_two_pow, hmask,
    Nat.and_zero, Nat.zero_or, BitVec.toNat_ofNat, Nat.mod_eq_of_lt (b := 2 ^ 32) (by omega), Nat.mod_eq_of_lt (by omega)]

/-- A stream whose entry has taken the fields of a write of STE_CTRL. -/
def ctrlTaken (n : Nat) (v : Word) (s : State) : State := setStream s n { getStream s n with r := ctrlFields v (getStream s n).r }

theorem getStream_ctrlTaken (n : Nat) (v : Word) (s : State) :
    getStream (ctrlTaken n v s) n = { getStream s n with r := ctrlFields v (getStream s n).r } :=
  getStream_setStream_same _ _ _

theorem getStream_ctrlTaken_other {n m : Nat} (v : Word) (s : State) (h : m ≠ n) : getStream (ctrlTaken n v s) m = getStream s m :=
  getStream_setStream_other _ _ _ _ h

section
variable {n : Nat} {v : Word} {s : State}

/-- A write that the stream's state accepts takes its fields; then its command waits for one in progress, or runs. -/
theorem steCtrl_accepted (ha : ctrlAllowed v (getStream s n)) (hc : cmdAccepted (getStream s n).state (fld v 0 3) (bit v 3) = true) :
    steCtrl n v s = if fld v 0 3 = 0 then ctrlTaken n v s
      else if (fld v 0 3 = 2 ∨ fld v 0 3 = 4 ∨ fld v 0 3 = 5) ∧ streamBusy (ctrlTaken n v s) n then
        { ctrlTaken n v s with waitState := (ctrlTaken n v s).waitState ++ [(BitVec.ofNat 12 n, v)] }
      else runCmd n (fld v 0 3) (ctrlTaken n v s) := by
  have hok : ¬ ((ctrlChanges v (getStream s n) && !quietState (getStream s n).state ||
      !cmdAccepted (getStream s n).state (fld v 0 3) (bit v 3)) = true) := by
    rw [(ctrlAllowed_iff _ _).mp ha, hc]
    decide
  refine (if_neg hok).trans ?_
  rw [ofNat_fld, ofNat_fld]
  rfl

theorem steCtrl_unaccepted (hc : cmdAccepted (getStream s n).state (fld v 0 3) (bit v 3) = false) : steCtrl n v s = steReject n 0 s :=
  if_pos (Bool.or_eq_true_iff.mpr (.inr (by rw [hc, Bool.not_false])))

end

section
variable {n : StreamId} {k : Nat} {ctrl : Word} {i : Instr} {s : State} (hs : writesOn s = true)
  (hi : exec i s = ctrlWrite n (withCmd k ctrl) s) (hk : k < 8)
include hs hi hk

theorem exec_ctrl_unaccepted (hc : cmdAccepted (getStream s n.toNat).state k ((withCmd k ctrl).getLsbD 3) = false) :
    Completes i s fun t => t.streams = s.streams ∧ t.cfg.reject = 0x0D := by
  have hw := steCtrl_unaccepted (s := dropHeld s) (n := n.toNat) (v := withCmd k ctrl) ((fld_withCmd hk ctrl).symm ▸ hc)
  refine ⟨_, hi.trans (hostWrite_next _ hs), ?_⟩
  rw [steWrite_ctrl, hw]
  exact rejected_steReject n.toNat 0 (dropHeld s)

variable (hv : ctrlAllowed (withCmd k ctrl) (getStream s n.toNat))
  (hc : cmdAccepted (getStream s n.toNat).state k ((withCmd k ctrl).getLsbD 3) = true)
include hv hc

/-- R390: a pause, an end or an abort of a stream that a command in progress names waits for it. -/
theorem exec_ctrl_waits (hcmd : k = 2 ∨ k = 4 ∨ k = 5) (hb : streamBusy s n.toNat = true) : exec i s = .next
    { ctrlTaken n.toNat (withCmd k ctrl) (dropHeld s) with waitState := s.waitState ++ [(n, withCmd k ctrl)] } := by
  have hf := fld_withCmd hk ctrl
  have hw := steCtrl_accepted (s := dropHeld s) (n := n.toNat) hv (hf.symm ▸ hc)
  rw [hf, if_neg (by omega), if_pos ⟨hcmd, hb⟩, BitVec.ofNat_toNat, BitVec.setWidth_eq] at hw
  rw [hi, ctrlWrite, hostWrite_next _ hs, steWrite_ctrl, hw]
  rfl

/-- And any other command that is accepted runs. -/
theorem exec_ctrl_runs (h0 : k ≠ 0) (hb : streamBusy s n.toNat = false) :
    exec i s = .next (runCmd n.toNat k (ctrlTaken n.toNat (withCmd k ctrl) (dropHeld s))) := by
  have hf := fld_withCmd hk ctrl
  have hw := steCtrl_accepted (s := dropHeld s) (n := n.toNat) hv (hf.symm ▸ hc)
  have hbusy : ¬ (streamBusy (ctrlTaken n.toNat (withCmd k ctrl) (dropHeld s)) n.toNat = true) := by
    rw [Bool.not_eq_true]
    exact hb
  rw [hf, if_neg h0, if_neg fun h => hbusy h.2] at hw
  rw [hi, ctrlWrite, hostWrite_next _ hs, steWrite_ctrl, hw]

end

/-! Start (R294). -/

section
variable {n : Nat} {s : State}

theorem start_runs (n : Nat) (s : State) : runCmd n 1 s = startStream n s := by simp [runCmd]

/-- A start whose checks pass puts the stream in STARTING, on its rings as read. -/
theorem startStream_starts {bi bo : List Byte} (h : startChecks s n (getStream s n) = (0, some (bi, bo))) :
    ∃ z, startStream n s = setStream s n z ∧ z.state = .starting ∧ z.r = { (getStream s n).r with overrun := false } ∧
      z.d.inR = ringOfDesc bi ∧ z.d.outR = ringOfDesc bo ∧ z.d.rdIdx = natAt bi 24 8 ∧ z.d.chunks = [] := by
  unfold startStream
  extract_lets x
  rw [h]
  exact ⟨_, rfl, rfl, rfl, rfl, rfl, rfl, rfl⟩

theorem startStream_refused {cause : Nat} {o : Option (List Byte × List Byte)} (hc : cause ≠ 0)
    (h : startChecks s n (getStream s n) = (cause, o)) : startStream n s = refuseStart n cause s := by
  unfold startStream
  extract_lets x
  rw [h]
  split
  · next he => exact absurd (congrArg Prod.fst he) hc
  · next he =>
    cases he
    rfl

/-- A refused start sets CAUSE and changes no other field. -/
theorem getStream_refuseStart (n cause : Nat) (s : State) :
    getStream (refuseStart n cause s) n = { getStream s n with r := { (getStream s n).r with cause := BitVec.ofNat 8 cause } } := by
  have hraised := raiseStream_eventsAndCores (code := 0x0404) n [0, 0, BitVec.ofNat 32 cause]
    (modStream s n fun x => { x with r.cause := BitVec.ofNat 8 cause }) (by decide)
  rw [refuseStart, hraised.getStream, getStream_modStream_same]

/-! Pause (R295). -/

theorem settlePause_waits (hf : inFlight (getStream s n) = true) : settlePause n s = s := if_neg (by simp [hf])

theorem settlePause_holds (hp : (getStream s n).d.pausePend = true) (hf : inFlight (getStream s n) = false)
    (hrun : (getStream s n).state = .running) :
    settlePause n s = modStream s n fun x => { x with state := .paused, d.pausePend := false } := by
  simp [settlePause, hp, hf, hrun]

/-- A pause of a RUNNING stream waits for its chunks in flight, or takes hold at once. -/
theorem pause_effect (hrun : (getStream s n).state = .running) (ha : (getStream s n).d.abortPend = false) :
    (getStream (runCmd n 2 s) n).r = (getStream s n).r ∧
    (inFlight (getStream s n) = true → (getStream (runCmd n 2 s) n).state = .running ∧ (getStream (runCmd n 2 s) n).d.pausePend = true) ∧
    (inFlight (getStream s n) = false → (getStream (runCmd n 2 s) n).state = .paused ∧ (getStream (runCmd n 2 s) n).d.pausePend = false) := by
  have hcmd : runCmd n 2 s = settlePause n (modStream s n fun x => { x with d.pausePend := true }) := by
    simp [runCmd, ha, hrun]
  have hy := getStream_modStream_same s n fun x => { x with d.pausePend := true }
  generalize modStream s n (fun x => { x with d.pausePend := true }) = u at hcmd hy
  have hr : (getStream u n).r = (getStream s n).r := by rw [hy]
  have hpend : (getStream u n).d.pausePend = true := by rw [hy]
  have hstate : (getStream u n).state = .running := by rw [hy, hrun]
  have hflight : inFlight (getStream u n) = inFlight (getStream s n) := by rw [hy, inFlight, inFlight]
  rw [hcmd, ← hr, ← hflight]
  cases hf : inFlight (getStream u n)
  · rw [settlePause_holds hpend hf hstate, getStream_modStream_same]
    exact ⟨rfl, fun h => absurd h (by decide), fun _ => ⟨rfl, rfl⟩⟩
  · rw [settlePause_waits hf]
    exact ⟨rfl, fun _ => ⟨hstate, hpend⟩, fun h => absurd h (by decide)⟩

/-! Resume. -/

theorem resume_running (hrun : (getStream s n).state = .running) (ha : (getStream s n).d.abortPend = false) :
    runCmd n 3 s = modStream s n fun x => { x with d.pausePend := false } := by
  simp [runCmd, ha, hrun]

theorem resume_paused (hpaused : (getStream s n).state = .paused) (ha : (getStream s n).d.abortPend = false) :
    runCmd n 3 s = enterRunning n s := by
  simp [runCmd, ha, hpaused]

/-! End (R296). -/

theorem end_runs (hst : (getStream s n).state ≠ .ending) (ha : (getStream s n).d.abortPend = false) :
    runCmd n 4 s = endCommand n s := by
  simp [runCmd, ha, hst]

/-! Abort (R297). -/

theorem freeEntry_free (n : Nat) (s : State) : (getStream (freeEntry n s) n).state = .free ∧ (getStream (freeEntry n s) n).d.chunks = [] := by
  unfold freeEntry
  extract_lets s1 s2 s3 x counted regs counts init s4
  have hfree : (getStream s4 n).state = .free ∧ (getStream s4 n).d.chunks = [] := by
    subst s4
    rw [getStream_setStream_same]
    exact ⟨rfl, rfl⟩
  clear_value s4
  split
  · exact hfree
  · exact hfree

/-- Every state but FREE accepts it. -/
theorem abort_accepted {st : SteState} (h : st ≠ .free) (reset : Bool) : cmdAccepted st 5 reset = true := by
  cases st with
  | free => exact absurd rfl h
  | _ => rfl

/-- The states whose chunks an abort waits for. -/
def AbortWaits (x : Stream) : Prop := x.state = .running ∨ x.state = .ending ∨ x.state = .faulted

/-- An abort of such a stream is pending, and takes hold when nothing is in flight. -/
theorem abort_effect (ha : (getStream s n).d.abortPend = false) (hst : AbortWaits (getStream s n)) :
    (inFlight (getStream s n) = true →
      (getStream (runCmd n 5 s) n).state = (getStream s n).state ∧ (getStream (runCmd n 5 s) n).d.abortPend = true) ∧
    (inFlight (getStream s n) = false → (getStream (runCmd n 5 s) n).state = .free ∧ (getStream (runCmd n 5 s) n).d.chunks = []) := by
  have hcmd : runCmd n 5 s = settleAbort n (modStream s n fun x => { x with d.abortPend := true }) := by
    obtain hst | hst | hst := hst <;> simp [runCmd, ha, hst]
  have hy := getStream_modStream_same s n fun x => { x with d.abortPend := true }
  generalize modStream s n (fun x => { x with d.abortPend := true }) = u at hcmd hy
  have hpend : (getStream u n).d.abortPend = true := by rw [hy]
  have hstate : (getStream u n).state = (getStream s n).state := by rw [hy]
  have hflight : inFlight (getStream u n) = inFlight (getStream s n) := by rw [hy, inFlight, inFlight]
  rw [hcmd, ← hstate, ← hflight]
  refine ⟨fun hf => ?_, fun hf => ?_⟩
  · have hsettled : settleAbort n u = u := if_neg (by simp [hf])
    rw [hsettled]
    exact ⟨rfl, hpend⟩
  · have hsettled : settleAbort n u = freeEntry n u := if_pos (by simp [hpend, hf])
    rw [hsettled]
    exact freeEntry_free n u

/-- In every other state it frees the entry at once. -/
theorem abort_frees (ha : (getStream s n).d.abortPend = false) (hst : ¬ AbortWaits (getStream s n)) :
    (getStream (runCmd n 5 s) n).state = .free ∧ (getStream (runCmd n 5 s) n).d.chunks = [] := by
  have hcmd : runCmd n 5 s = freeEntry n s := by
    cases hx : (getStream s n).state <;> simp_all [runCmd, AbortWaits]
  rw [hcmd]
  exact freeEntry_free n s

end

end Sys2Proof.Laws
end

section
/-! The statement on the commands of a stream. -/

namespace Sys2Proof.Proofs

open Sys2Proof.Machine Sys2Proof.Claims Sys2Proof.Laws

/-- Settles O39: a write that its stream accepts runs its command on the entry with the fields taken (`exec_ctrl_runs`), or waits
(`exec_ctrl_waits`), and any other is rejected (`exec_ctrl_unaccepted`); each command's effect is a lemma of its own. -/
theorem streamsObeyTheirCommands : Obligations.StreamsObeyTheirCommands := by
  unfold Obligations.StreamsObeyTheirCommands
  intro n ctrl s hs x h
  have hx (v : Word) : getStream (ctrlTaken n.toNat v (dropHeld s)) n.toNat = { x with r := ctrlFields v x.r } :=
    getStream_ctrlTaken n.toNat v (dropHeld s)
  refine ⟨fun v k i hmem hv ha hc hb => ?_, fun hb => ⟨?_, ?_, ?_, ?_, ?_, ?_⟩⟩
  · subst hv
    simp only [List.mem_cons, Prod.mk.injEq, List.not_mem_nil, or_false] at hmem
    obtain ⟨rfl, rfl⟩ | ⟨rfl, rfl⟩ | ⟨rfl, rfl⟩ := hmem
    all_goals exact exec_ctrl_waits hs rfl (by decide) ha hc (by decide) hb
  · rintro v rfl ha hst y u
    have hc : cmdAccepted x.state 1 ((withCmd 1 ctrl).getLsbD 3) = true := by
      obtain hst | hst := hst <;> rw [hst] <;> rfl
    have hexec : exec (.streamStart n ctrl) s = .next (runCmd n.toNat 1 u) := exec_ctrl_runs hs rfl (by decide) ha hc (by decide) hb
    have hy : getStream u n.toNat = y := getStream_setStream_same _ _ _
    rw [start_runs] at hexec
    refine ⟨fun bi bo hok => ?_, fun cause o hcause hbad => ?_⟩
    · rw [← hy] at hok
      obtain ⟨z, hz, hstate, hr, hrings⟩ := startStream_starts hok
      rw [hz] at hexec
      rw [hy] at hr
      refine completes_of_next hexec ?_
      rw [getStream_setStream_same]
      obtain ⟨hin, hout, hrd, hchunks⟩ := hrings
      exact ⟨hstate, hr, hin, hout, hrd, hchunks, fun m hm =>
        (getStream_setStream_other _ _ _ _ hm).trans (getStream_ctrlTaken_other _ (dropHeld s) hm)⟩
    · rw [← hy] at hbad
      rw [startStream_refused hcause hbad] at hexec
      refine completes_of_next hexec ?_
      rw [getStream_refuseStart, hy]
      exact ⟨rfl, rfl⟩
  · rintro v rfl ha hst hab
    have hc : cmdAccepted x.state 2 ((withCmd 2 ctrl).getLsbD 3) = true := by rw [hst]; rfl
    have hpause := pause_effect (s := ctrlTaken n.toNat (withCmd 2 ctrl) (dropHeld s)) (n := n.toNat)
    rw [hx] at hpause
    exact completes_of_next (exec_ctrl_runs hs rfl (by decide) ha hc (by decide) hb) (hpause hst hab)
  · rintro v rfl ha hab
    have hexec (hc : cmdAccepted x.state 3 ((withCmd 3 ctrl).getLsbD 3) = true) :=
      exec_ctrl_runs (i := .streamResume n ctrl) hs rfl (by decide) ha hc (by decide) hb
    have hrunning := resume_running (s := ctrlTaken n.toNat (withCmd 3 ctrl) (dropHeld s)) (n := n.toNat)
    have hpaused := resume_paused (s := ctrlTaken n.toNat (withCmd 3 ctrl) (dropHeld s)) (n := n.toNat)
    rw [hx] at hrunning hpaused
    refine ⟨fun hst => completes_of_next (hexec (by rw [hst]; rfl)) ?_, fun hst => completes_of_next (hexec (by rw [hst]; rfl)) ?_⟩
    · rw [hrunning hst hab, getStream_modStream_same, hx]
      exact ⟨hst, rfl, rfl⟩
    · rw [hpaused hst hab]
      exact ⟨rfl, (enterRunning_effect _ _).2⟩
  · rintro v rfl ha hab hst
    have hc : cmdAccepted x.state 4 ((withCmd 4 ctrl).getLsbD 3) = true := by
      obtain hst | hst := hst <;> rw [hst] <;> rfl
    have hne : x.state ≠ .ending := by
      obtain hst | hst := hst <;> rw [hst] <;> decide
    have hend := end_runs (s := ctrlTaken n.toNat (withCmd 4 ctrl) (dropHeld s)) (n := n.toNat)
    rw [hx] at hend
    refine completes_of_next (exec_ctrl_runs hs rfl (by decide) ha hc (by decide) hb) ?_
    rw [hend hne hab]
    exact endCommand_state _ _
  · rintro v rfl ha hab hst
    have hwaits := abort_effect (s := ctrlTaken n.toNat (withCmd 5 ctrl) (dropHeld s)) (n := n.toNat)
    have hfrees := abort_frees (s := ctrlTaken n.toNat (withCmd 5 ctrl) (dropHeld s)) (n := n.toNat)
    rw [hx] at hwaits hfrees
    refine completes_of_next (exec_ctrl_runs hs rfl (by decide) ha (abort_accepted hst _) (by decide) hb) ?_
    refine ⟨fun ⟨hf, hw⟩ => (hwaits hab hw).1 hf, fun hf => ?_⟩
    by_cases hw : AbortWaits x
    · refine (hwaits hab hw).2 (hf.resolve_right ?_)
      obtain hw | hw | hw := hw <;> rw [hw] <;> decide
    · exact hfrees hab hw
  · intro v k i hmem hv hc
    subst hv
    simp only [List.mem_cons, Prod.mk.injEq, List.not_mem_nil, or_false] at hmem
    obtain ⟨rfl, rfl⟩ | ⟨rfl, rfl⟩ | ⟨rfl, rfl⟩ | ⟨rfl, rfl⟩ | ⟨rfl, rfl⟩ := hmem
    all_goals exact exec_ctrl_unaccepted hs rfl (by decide) hc

end Sys2Proof.Proofs
end

section
/-! SUPPORT. Placement and moves at a decision (R155, R167, R314-R316): Thyme's figures stay as they are. -/

namespace Sys2Proof.Laws

open Sys2Proof.Machine Sys2Proof.Claims

/-! Blocks and pages. -/

theorem setCore_keepsThyme (s : State) (c : Nat) (k : Core) : KeepsThyme s (setCore s c k) := ⟨rfl, rfl⟩

theorem modCore_keepsThyme (s : State) (c : Nat) (f : Core → Core) : KeepsThyme s (modCore s c f) := setCore_keepsThyme s c _

theorem placeBlock_keepsThyme (n : Nat) (g : Image) (t : ImgTemplate) (die : Nat) (s : State) : KeepsThyme s (placeBlock n g t die s) := by
  unfold placeBlock
  split
  · exact modStream_keepsThyme s n _
  · exact .refl s

theorem settleMove_keepsThyme (n : Nat) (s : State) : KeepsThyme s (settleMove n s) := by
  unfold settleMove
  extract_lets x old ready
  split
  · extract_lets s1
    have hcopied : KeepsThyme s s1 := by
      refine .foldl (fun u e => ?_) _ s
      extract_lets u1
      have hwritten : KeepsThyme u u1 := by
        subst u1
        split
        · exact (vwrite_onlyMemory _ _ _ _).keepsThyme
        · exact .refl u
      exact hwritten.trans (modStream_keepsThyme u1 n _)
    split
    · exact hcopied.trans (modStream_keepsThyme s1 n _)
    · exact hcopied
  · exact .refl s

theorem beginMove_keepsThyme (n : Nat) (g : Image) (t : ImgTemplate) (die : Nat) (s : State) : KeepsThyme s (beginMove n g t die s) := by
  unfold beginMove
  extract_lets x
  split
  · exact modStream_keepsThyme s n _
  · split
    · split
      · exact (modStream_keepsThyme s n _).trans (settleMove_keepsThyme n _)
      · exact .refl s
    · exact .refl s

theorem assignOwner_keepsThyme (n : Nat) (g : Image) (t : ImgTemplate) (replica : Nat) (s : State) (l : Nat × Nat) :
    KeepsThyme s (assignOwner n g t replica s l) := by
  unfold assignOwner
  extract_lets x model old b
  clear_value old
  split
  · exact .refl s
  · split
    · exact .refl s
    · split
      · exact modStream_keepsThyme s n _
      · next c _ =>
        extract_lets s1
        have hnamed : KeepsThyme s s1 := modStream_keepsThyme s n _
        split
        · exact hnamed
        · exact hnamed.trans (modCore_keepsThyme s1 c _)

theorem placeStaged_keepsThyme (n : Nat) (g : Image) (t : ImgTemplate) (replica : Nat) (s : State) :
    KeepsThyme s (placeStaged n g t replica s) := by
  unfold placeStaged
  extract_lets x model i8 s1 s2
  have howned : KeepsThyme s s1 := by
    subst s1
    split
    · exact .foldl (assignOwner_keepsThyme n g t replica) _ s
    · exact .refl s
  have hstaged : KeepsThyme s1 s2 := by
    refine .foldl (fun u e => ?_) _ s1
    extract_lets a
    split
    · exact .refl u
    · exact modCore_keepsThyme u _ _
  exact howned.trans (hstaged.trans (modStream_keepsThyme s2 n _))

/-! Admission. -/

theorem refuseStart_keepsThyme (n cause : Nat) (s : State) : KeepsThyme s (refuseStart n cause s) := by
  unfold refuseStart
  exact (modStream_keepsThyme s n _).trans (raiseStream_eventsAndCores (code := 0x0404) n _ _ (by decide)).keepsThyme

theorem admitStream_keepsThyme (n : Nat) (g : Image) (r : Nat) (u : Rat) (s : State) : KeepsThyme s (admitStream n g r u s) := by
  unfold admitStream
  extract_lets x die s1
  split
  · exact .refl s
  next t _ =>
    extract_lets s2
    have hplaced : KeepsThyme s1 s2 := .ite (placeBlock_keepsThyme n g t die s1) (beginMove_keepsThyme n g t die s1)
    have hstaged : KeepsThyme s2 (if x.d.kvStaged = [] then s2 else placeStaged n g t r s2) :=
      .ite (.refl s2) (placeStaged_keepsThyme n g t r s2)
    exact (modStream_keepsThyme s n _).trans (hplaced.trans (hstaged.trans (enterRunning_effect n _).1))

theorem admitOne_keepsThyme (g : Image) (s : State) (n : Nat) : KeepsThyme s (admitOne g s n) := by
  have hrefused (cause : Nat) : KeepsThyme s (refuseAdmission n cause s) :=
    (modStream_keepsThyme s n _).trans (refuseStart_keepsThyme n cause _)
  unfold admitOne
  extract_lets x
  split
  · exact .refl s
  · split
    · exact hrefused 2
    · split
      · exact admitStream_keepsThyme n g _ _ s
      · exact hrefused 1

theorem admitStarting_keepsThyme (s : State) : KeepsThyme s (admitStarting s) := by
  unfold admitStarting
  split
  · exact .refl s
  · exact .foldl (admitOne_keepsThyme _) _ s

/-! Rebalancing. -/

theorem followMoves_keepsThyme (s : State) : KeepsThyme s (followMoves s) := by
  refine .foldl (fun u n => .trans (modStream_keepsThyme u n fun x => { x with d.moveAgain := false }) ?_) _ s
  extract_lets s1 x
  split
  · exact .ite (beginMove_keepsThyme n _ _ _ s1) (.refl s1)
  · exact .refl s1

theorem moveOne_keepsThyme {g : Image} {model : Nat} {s t : State} (h : moveOne g model s = some t) : KeepsThyme s t := by
  unfold moveOne at h
  extract_lets jobs us at h
  split at h
  · split at h
    · cases h
    · obtain ⟨n, -, h⟩ := Option.bind_eq_some_iff.mp h
      extract_lets x others at h
      split at h
      · split at h
        · cases h
          exact (modStream_keepsThyme s n _).trans (beginMove_keepsThyme n g _ _ _)
        · cases h
      · cases h
  · cases h

theorem rebalanceModel_keepsThyme (f : Nat) (g : Image) (m : Nat) (s : State) : KeepsThyme s (rebalanceModel f g m s).2 := by
  induction f generalizing s with
  | zero => exact .refl s
  | succ f ih =>
    unfold rebalanceModel
    split
    · next s' h => exact (moveOne_keepsThyme h).trans (ih s')
    · exact .refl s

theorem rebalance_keepsThyme (s : State) : KeepsThyme s (rebalance s) := by
  unfold rebalance
  extract_lets s1
  refine (followMoves_keepsThyme s).trans ?_
  split
  · exact .refl s1
  · exact List.foldlRecOn (motive := fun (a : Nat × State) => KeepsThyme s1 a.2) _ _ (.refl s1) fun a ha t _ =>
      ha.trans (rebalanceModel_keepsThyme a.1 _ _ a.2)

theorem placeStreams_keepsThyme (s : State) : KeepsThyme s (placeStreams s) :=
  .ite (.refl s) ((admitStarting_keepsThyme s).trans (rebalance_keepsThyme _))

end Sys2Proof.Laws
end

section
/-! SUPPORT. What a decision and a window end leave (R313, R317, R318, R321, R497): clock settings, telemetry, warnings, laser wear. -/

namespace Sys2Proof.Laws

open Sys2Proof.Machine Sys2Proof.Claims

/-! Tables whose every entry changes. -/

theorem mem_of_tabGet {α : Type} {t : Table α} {i : Nat} {v : α} (h : tabGet t i = some v) : (i, v) ∈ t := by
  induction t with
  | nil => cases h
  | cons e r ih =>
    obtain ⟨k, w⟩ := e
    rw [tabGet] at h
    split at h
    · next hk =>
      cases h
      exact hk ▸ List.mem_cons_self
    · exact List.mem_cons_of_mem _ (ih h)

/-- What holds of an unlisted entry, and of every entry after the change, holds everywhere. -/
theorem tabGetD_tabMapD {α : Type} [DecidableEq α] {P : α → Prop} {d : α} {f : Nat → α → α} (hd : P d) (hf : ∀ i x, P (f i x))
    (t : Table α) (i : Nat) : P (tabGetD d (tabMapD d f t) i) := by
  unfold tabGetD
  cases h : tabGet (tabMapD d f t) i with
  | none => exact hd
  | some v =>
    obtain ⟨e, -, he⟩ := List.mem_map.mp (List.mem_filter.mp (mem_of_tabGet h)).1
    cases he
    exact hf e.1 e.2

/-! Clock settings (R317, R497). -/

/-- Thyme's registers, and the power and energy as last measured, are as before. -/
def KeepsMeasured (s t : State) : Prop := t.thm = s.thm ∧ t.pwr.pkgMw = s.pwr.pkgMw ∧ t.pwr.energyJ = s.pwr.energyJ

theorem KeepsMeasured.refl (s : State) : KeepsMeasured s s := ⟨rfl, rfl, rfl⟩

theorem KeepsMeasured.trans {s t u : State} (h : KeepsMeasured s t) (h' : KeepsMeasured t u) : KeepsMeasured s u :=
  ⟨h'.1.trans h.1, h'.2.1.trans h.2.1, h'.2.2.trans h.2.2⟩

theorem throttleDie_keepsMeasured (s : State) (n : Nat) : KeepsMeasured s (throttleDie s n) := by
  unfold throttleDie
  extract_lets m pwr put
  have hput (x : Nat) : KeepsMeasured s (put x) := ⟨rfl, rfl, rfl⟩
  split
  · exact .refl s
  · split
    · exact hput _
    · split
      · exact hput _
      · exact .refl s

theorem limitPower_keepsMeasured (s : State) : KeepsMeasured s (limitPower s) := by
  unfold limitPower
  extract_lets p lim low pwr s1 m
  have hlow : KeepsMeasured s s1 := ⟨rfl, rfl, rfl⟩
  split
  · exact hlow.trans ⟨rfl, rfl, rfl⟩
  · split
    · exact hlow.trans ⟨rfl, rfl, rfl⟩
    · exact hlow

theorem requestVoltages_keepsMeasured (s : State) : KeepsMeasured s (requestVoltages s) := ⟨rfl, rfl, rfl⟩

theorem setClocks_keepsMeasured (s : State) : KeepsMeasured s (setClocks s) := by
  have hthrottled : KeepsMeasured s ((List.range 12).foldl throttleDie s) :=
    List.foldlRecOn (motive := KeepsMeasured s) _ _ (.refl s) fun t ht n _ => ht.trans (throttleDie_keepsMeasured t n)
  exact hthrottled.trans ((limitPower_keepsMeasured _).trans (requestVoltages_keepsMeasured _))

/-! Telemetry (R321). -/

theorem vput_keepsThyme (s : State) (va : Nat) (bs : List Byte) : KeepsThyme s (vput s va bs) := (vwrite_onlyMemory s va bs false).keepsThyme

/-- A telemetry write has the next number, and changes memory, the free values drawn and the vector that fires. -/
theorem writeTelemetry_figures (s : State) :
    (writeTelemetry s).thm = { s.thm with telSeq := s.thm.telSeq + 1 } ∧ (writeTelemetry s).pwr = s.pwr := by
  unfold writeTelemetry
  extract_lets thm s1 seq a m s2 s3 gs s4
  have hpackage : KeepsThyme s1 s2 := vput_keepsThyme s1 a _
  have hstreams : KeepsThyme s2 s3 := .foldl (fun u e => vput_keepsThyme u _ _) _ s2
  have hgroups : KeepsThyme s3 s4 := .foldl (fun u g => .trans (t := (draw u).2) ⟨rfl, rfl⟩ (vput_keepsThyme _ _ _)) gs s3
  obtain ⟨hthm, hpwr⟩ := hpackage.trans (hstreams.trans hgroups)
  exact ⟨(fireVector_thm s4 5).trans hthm, (fireVector_pwr s4 5).trans hpwr⟩

theorem mapStreams_keepsThyme (f : Nat → Stream → Stream) (s : State) : KeepsThyme s (mapStreams f s) := ⟨rfl, rfl⟩

theorem mapCores_keepsThyme (f : Nat → Core → Core) (s : State) : KeepsThyme s (mapCores f s) := ⟨rfl, rfl⟩

theorem getCore_mapCores {P : Core → Prop} {f : Nat → Core → Core} (hinit : P Core.init) (hf : ∀ c k, P (f c k)) (s : State) (c : Nat) :
    P (getCore (mapCores f s) c) :=
  tabGetD_tabMapD hinit hf s.cores c

theorem getStream_mapStreams {P : Stream → Prop} {f : Nat → Stream → Stream} (hinit : P Stream.init) (hf : ∀ n x, P (f n x)) (s : State)
    (n : Nat) : P (getStream (mapStreams f s) n) :=
  tabGetD_tabMapD hinit hf s.streams n

/-- The figures of cores and streams in a telemetry window that has just begun. -/
def TelEmpty (s : State) : Prop := (∀ c, (getCore s c).copyHazard = 0 ∧ (getCore s c).doneCount = 0) ∧
  ∀ n, (getStream s n).c.delays = [] ∧ (getStream s n).c.hostKvBytes = 0

theorem newTelWindow_effect (written : Bool) (s : State) : (newTelWindow written s).pwr = s.pwr ∧ (newTelWindow written s).thm.posted = 0 ∧
    (newTelWindow written s).thm.telSeq = s.thm.telSeq ∧ TelEmpty (newTelWindow written s) := by
  unfold newTelWindow
  extract_lets t s1 s2 thm
  have hkept : KeepsThyme s s2 := (mapStreams_keepsThyme _ s).trans (mapCores_keepsThyme _ s1)
  have hcores (c : Nat) : (getCore s2 c).copyHazard = 0 ∧ (getCore s2 c).doneCount = 0 := by
    refine getCore_mapCores (P := fun k => k.copyHazard = 0 ∧ k.doneCount = 0) ⟨rfl, rfl⟩ ?_ s1 c
    exact fun _ _ => ⟨rfl, rfl⟩
  have hstreams (n : Nat) : (getStream s1 n).c.delays = [] ∧ (getStream s1 n).c.hostKvBytes = 0 := by
    refine getStream_mapStreams (P := fun x => x.c.delays = [] ∧ x.c.hostKvBytes = 0) ⟨rfl, rfl⟩ ?_ s n
    exact fun _ _ => ⟨rfl, rfl⟩
  have hsame (n : Nat) : getStream s2 n = getStream s1 n := rfl
  exact ⟨hkept.2, rfl, (congrArg Thm.telSeq hkept.1 :), hcores, fun n => hsame n ▸ hstreams n⟩

theorem telemetry_effect (s : State) : (telemetry s).pwr = s.pwr ∧ (telemetry s).thm.posted = 0 ∧
    (telemetry s).thm.telSeq = (if s.thm.telEn then s.thm.telSeq + 1 else s.thm.telSeq) ∧ TelEmpty (telemetry s) := by
  obtain ⟨hpwr, hposted, hseq, hempty⟩ := newTelWindow_effect s.thm.telEn (if s.thm.telEn then writeTelemetry s else s)
  obtain ⟨hthm, hwritten⟩ := writeTelemetry_figures s
  refine ⟨hpwr.trans ?_, hposted, hseq.trans ?_, hempty⟩
  · split
    · exact hwritten
    · rfl
  · rw [apply_ite State.thm, apply_ite Thm.telSeq, hthm]

/-! Warnings at a window end (R317, R504). -/

/-- A die's temperature state after a window: cool where it stayed below its warning limit, with its warning ended. -/
def afterWindow (d : Nat) (t : Temp) : Temp :=
  { t with coolWindow := !t.wasAbove, warn := t.warn && t.wasAbove, wasAbove := atLeast t.t (tempLimits d).1 }

theorem tempOf_setTemp_same (s : State) {d : Nat} (t : Temp) (h : d < 32) : tempOf (setTemp s d t) d = t := vget_vset_same _ _ _ _ h

theorem tempOf_setTemp_other (s : State) {d x : Nat} (t : Temp) (h : x ≠ d) : tempOf (setTemp s d t) x = tempOf s x :=
  vget_vset_other _ _ _ _ _ h

/-- Only the temperature states differ. -/
def OnlyTemps (s t : State) : Prop := ∃ v, t = { s with pwr.temp := v }

/-- One die's temperature state after a window. -/
def endEpisode (s : State) (d : Nat) : State := setTemp s d (afterWindow d (tempOf s d))

/-- Each die of a list without repeats ends its window; no other does. -/
theorem foldl_endEpisode (l : List Nat) (s : State) (hl : l.Nodup) (hlt : ∀ d ∈ l, d < 32) :
    OnlyTemps s (l.foldl endEpisode s) ∧
    ∀ x, tempOf (l.foldl endEpisode s) x = if x ∈ l then afterWindow x (tempOf s x) else tempOf s x := by
  induction l generalizing s with
  | nil => exact ⟨⟨s.pwr.temp, rfl⟩, fun x => rfl⟩
  | cons d r ih =>
    obtain ⟨hd, hr⟩ := List.nodup_cons.mp hl
    obtain ⟨⟨v, hv⟩, htemps⟩ := ih (endEpisode s d) hr fun e he => hlt e (List.mem_cons_of_mem _ he)
    refine ⟨⟨v, hv⟩, fun x => ?_⟩
    rw [List.foldl_cons, htemps, endEpisode]
    by_cases hx : x = d
    · subst hx
      rw [if_neg hd, if_pos List.mem_cons_self, tempOf_setTemp_same s _ (hlt x List.mem_cons_self)]
    · rw [tempOf_setTemp_other s _ hx]
      simp [hx]

theorem tempWindow_effect (s : State) : OnlyTemps s (tempWindow s) ∧ ∀ x, x < 32 → tempOf (tempWindow s) x = afterWindow x (tempOf s x) := by
  obtain ⟨honly, htemps⟩ := foldl_endEpisode (List.range 32) s List.nodup_range fun d hd => List.mem_range.mp hd
  exact ⟨honly, fun x hx => (htemps x).trans (if_pos (List.mem_range.mpr hx))⟩

/-! Laser modules at a window end (R436, R438). -/

theorem modLaser_keepsThyme (s : State) (m : Nat) (f : Laser → Laser) : KeepsThyme s (modLaser s m f) := ⟨rfl, rfl⟩

theorem raisePlain_keepsThyme {code : Nat} (detail : List Word) (s : State) (hc : eventClass code < 4) : KeepsThyme s (raisePlain code detail s) :=
  (raise_eventsAndCores _ _ _ s hc).keepsThyme

theorem testLife_keepsThyme (m : Nat) (s : State) : KeepsThyme s (testLife m s) := by
  unfold testLife
  extract_lets l warn eol s1 s2
  have hwarned : KeepsThyme s1 (raiseEolWarn m s1) := by
    unfold raiseEolWarn
    exact raisePlain_keepsThyme _ s1 (by decide)
  have hended : KeepsThyme s2 (raiseEol m s2) := by
    unfold raiseEol
    exact raisePlain_keepsThyme _ s2 (by decide)
  have hboth : KeepsThyme s1 s2 := .ite hwarned (.refl s1)
  exact (modLaser_keepsThyme s m _).trans (hboth.trans (.ite hended (.refl s2)))

theorem laserWindow_keepsThyme (m : Nat) (w : LaserWindow) (s : State) : KeepsThyme s (laserWindow m w s) := by
  unfold laserWindow
  extract_lets l d
  have hdrawn : KeepsThyme s d.2 := ⟨rfl, rfl⟩
  exact .ite (.refl s) (hdrawn.trans ((modLaser_keepsThyme d.2 m _).trans (testLife_keepsThyme m _)))

/-! The window end (R313, R318). -/

theorem addHot_keepsThyme (l : List Word) (s : State) : KeepsThyme s (addHot l s) := by
  refine .foldl (fun u d => ?_) _ s
  extract_lets n t
  exact .ite (.refl u) ⟨rfl, rfl⟩

theorem journalNote_keepsThyme (recs : List JRec) (s : State) : KeepsThyme s (journalNote recs s) := by
  obtain ⟨j, hj⟩ := journalNote_only recs s
  rw [hj]
  exact ⟨rfl, rfl⟩

/-- R313: the window's figures become current, and a new window has none. -/
theorem currentFigures_effect (s : State) : (currentFigures s).thm =
    { s.thm with wMeas := newW s.thm.wMeas s.thm.wCur, wCur := [], lMeas := newL s.thm.lMeas s.thm.lCur, lCur := [] } ∧
    (currentFigures s).pwr = s.pwr := ⟨rfl, rfl⟩

/-- R318: the ranking of the dies changes nothing else. -/
theorem rankDies_only (s : State) : ∃ r, rankDies s = { s with thm.dieRank := r } := by
  unfold rankDies
  split
  · exact ⟨_, rfl⟩
  · exact ⟨s.thm.dieRank, rfl⟩

theorem tempOf_powerWindow (s : State) (d : Nat) : tempOf (powerWindow s) d = tempOf s d := rfl

theorem powerWindow_thm (s : State) : (powerWindow s).thm = s.thm := rfl

theorem powerWindow_lows (s : State) : (powerWindow s).pwr.lowPower = s.pwr.lowSoFar ∧ (powerWindow s).pwr.lowSoFar = true := ⟨rfl, rfl⟩

/-- Of Thyme's figures only the ranking changes when a window closes; the power setting's history moves on, and each die's warning. -/
theorem windowCloses_effect (s : State) : (∃ r, (powerWindow (tempWindow (rankDies s))).thm = { s.thm with dieRank := r }) ∧
    (powerWindow (tempWindow (rankDies s))).pwr.lowPower = s.pwr.lowSoFar ∧ (powerWindow (tempWindow (rankDies s))).pwr.lowSoFar = true ∧
    ∀ x, x < 32 → tempOf (powerWindow (tempWindow (rankDies s))) x = afterWindow x (tempOf s x) := by
  obtain ⟨r, hr⟩ := rankDies_only s
  obtain ⟨⟨v, hv⟩, htemps⟩ := tempWindow_effect (rankDies s)
  obtain ⟨hpower, hall⟩ := powerWindow_lows (tempWindow (rankDies s))
  refine ⟨⟨r, ?_⟩, hpower.trans ?_, hall, fun x hx => (tempOf_powerWindow _ x).trans ((htemps x hx).trans ?_)⟩
  · rw [powerWindow_thm, hv, hr]
  · rw [hv, hr]
  · rw [hr, tempOf, tempOf]

/-- What a window end leaves of Thyme's figures, of the power setting's history, and of each die's warning. -/
theorem endWindow_effect (w : WindowEnv) (s : State) :
    ((endWindow w s).thm.wMeas = newW s.thm.wMeas s.thm.wCur ∧ (endWindow w s).thm.lMeas = newL s.thm.lMeas s.thm.lCur ∧
      (endWindow w s).thm.wCur = [] ∧ (endWindow w s).thm.lCur = [] ∧ (endWindow w s).thm.calibrate = []) ∧
    (endWindow w s).pwr.lowPower = s.pwr.lowSoFar ∧ (endWindow w s).pwr.lowSoFar = true ∧
    ∀ x, x < 32 → tempOf (endWindow w s) x = afterWindow x (tempOf s x) := by
  unfold endWindow
  extract_lets s1 s2 s3 s4 thm
  have hhot : KeepsThyme s1 s2 := addHot_keepsThyme _ s1
  have hlasers : KeepsThyme s2 s3 := .foldl (fun u m => laserWindow_keepsThyme m _ u) _ s2
  have hnoted : KeepsThyme s3 s4 := journalNote_keepsThyme _ s3
  obtain ⟨hcurrent, hpwr⟩ := currentFigures_effect s
  obtain ⟨hthm, hpwr'⟩ := hhot.trans (hlasers.trans hnoted)
  have hfigures : thm = _ := hthm.trans hcurrent
  have hpower : s4.pwr = s.pwr := hpwr'.trans hpwr
  clear_value thm s4
  obtain ⟨⟨r, hr⟩, hlow, hall, htemps⟩ := windowCloses_effect { s4 with thm := { thm with calibrate := [] } }
  rw [hr]
  refine ⟨⟨(congrArg Thm.wMeas hfigures :), (congrArg Thm.lMeas hfigures :), (congrArg Thm.wCur hfigures :),
    (congrArg Thm.lCur hfigures :), rfl⟩, hlow.trans ?_, hall, fun x hx => (htemps x hx).trans ?_⟩
  · rw [hpower]
  · rw [tempOf, hpower, tempOf]

/-! Where the three commands begin (R517). -/

theorem advanceTo_keepsThyme (s : State) (t : Nat) : KeepsThyme s (advanceTo s t) := by
  unfold advanceTo
  split
  · exact ⟨rfl, rfl⟩
  · exact .refl s

/-- Device time at the next decision, which is noted. -/
def decisionStart (s : State) : State :=
  let s := advanceTo s (nextMultiple s.clk.decisionAt decisionNs)
  { s with clk.decisionAt := lastMultiple s decisionNs }

/-- Device time at the next window end, which is noted. -/
def windowStart (s : State) : State :=
  let s := advanceTo s (nextMultiple s.clk.windowAt windowNs)
  { s with clk.windowAt := lastMultiple s windowNs }

theorem clk_keepsThyme (s : State) (c : Clock) : KeepsThyme s { s with clk := c } := ⟨rfl, rfl⟩

theorem decisionStart_keepsThyme (s : State) : KeepsThyme s (decisionStart s) := by
  unfold decisionStart
  extract_lets s1 clk
  exact (advanceTo_keepsThyme s _).trans (clk_keepsThyme s1 _)

theorem windowStart_keepsThyme (s : State) : KeepsThyme s (windowStart s) := by
  unfold windowStart
  extract_lets s1 clk
  exact (advanceTo_keepsThyme s _).trans (clk_keepsThyme s1 _)

theorem exec_thymeTick {s : State} (hon : thymeOn s = true) (hfirst : decisionFirst s = true) :
    let u := advanceTo s (nextMultiple s.clk.tickAt 125000)
    exec .thymeTick s = .next (flushCascade (tickWork { u with clk.tickAt := BitVec.ofNat 64 (now u / 125000 * 125000) })) :=
  if_pos (by rw [hon, hfirst]; rfl)

theorem exec_thymeTick_waits {s : State} (hlate : decisionFirst s = false) : exec .thymeTick s = .next s :=
  if_neg (by rw [hlate, Bool.and_false]; decide)

theorem exec_thymeDecision {s : State} (d : DecisionEnv) (hon : thymeOn s = true) (hfirst : windowFirst s = true) :
    exec (.thymeDecision d) s = .next (decide10ms d (decisionStart s)) :=
  if_pos (by rw [hon, hfirst]; rfl)

theorem exec_thymeDecision_waits {s : State} (d : DecisionEnv) (hlate : windowFirst s = false) : exec (.thymeDecision d) s = .next s :=
  if_neg (by rw [hlate, Bool.and_false]; decide)

theorem exec_thymeWindowEnd {s : State} (w : WindowEnv) (hon : thymeOn s = true) :
    exec (.thymeWindowEnd w) s = .next (endWindow w (windowStart s)) :=
  if_pos hon

/-! The decision (R314-R317, R321, R497). -/

/-- What it measured stands after placement and clock setting, and its telemetry window is empty. -/
theorem decide10ms_effect (d : DecisionEnv) (s : State) :
    (decide10ms d s).pwr.pkgMw = d.pkgMw ∧ (decide10ms d s).pwr.energyJ = d.energyJ ∧ (decide10ms d s).thm.posted = 0 ∧
    (decide10ms d s).thm.telSeq = (if s.thm.telEn then s.thm.telSeq + 1 else s.thm.telSeq) ∧ TelEmpty (decide10ms d s) := by
  unfold decide10ms
  extract_lets s1 s2
  obtain ⟨hplacedThm, hplacedPwr⟩ := placeStreams_keepsThyme (takePower d s)
  obtain ⟨hsetThm, hsetMw, hsetJ⟩ := setClocks_keepsMeasured s1
  have hthm : s2.thm = s.thm := hsetThm.trans hplacedThm
  have hmw : s2.pwr.pkgMw = d.pkgMw := hsetMw.trans (congrArg Pwr.pkgMw hplacedPwr)
  have hj : s2.pwr.energyJ = d.energyJ := hsetJ.trans (congrArg Pwr.energyJ hplacedPwr)
  clear_value s2
  obtain ⟨hpwr, hposted, hseq, hempty⟩ := telemetry_effect { s2 with thm.util := BitVec.ofNat 8 (utilPercent s2) }
  refine ⟨?_, ?_, hposted, hseq.trans ?_, hempty⟩
  · rw [hpwr, hmw]
  · rw [hpwr, hj]
  · rw [hthm]

end Sys2Proof.Laws
end

section
/-! The statement on the three time scales of Thyme. -/

namespace Sys2Proof.Proofs

open Sys2Proof.Machine Sys2Proof.Claims Sys2Proof.Laws

/-- Settles O36: a tick and a decision act only when nothing is due before them; a decision ends in `telemetry`, after steps that keep
what it measured (`decide10ms_effect`), and a window end is `endWindow`. -/
theorem thymeKeepsItsTimeScales : Obligations.ThymeKeepsItsTimeScales := by
  unfold Obligations.ThymeKeepsItsTimeScales
  intro s d w hon
  refine ⟨fun hfirst => ?_, fun hlate => ?_, fun hfirst => ?_, fun hlate => ?_, ?_⟩
  · exact exec_thymeTick hon hfirst
  · exact exec_thymeTick_waits hlate
  · obtain ⟨hmw, hj, hposted, hseq, hempty⟩ := decide10ms_effect d (decisionStart s)
    rw [(decisionStart_keepsThyme s).1] at hseq
    exact completes_of_next (exec_thymeDecision d hon hfirst) ⟨hmw, hj, hposted, hseq, hempty⟩
  · exact exec_thymeDecision_waits d hlate
  · obtain ⟨⟨hw, hl, hwcur, hlcur, hcal⟩, hlow, hall, htemps⟩ := endWindow_effect w (windowStart s)
    obtain ⟨hthm, hpwr⟩ := windowStart_keepsThyme s
    rw [hthm] at hw hl
    rw [hpwr] at hlow
    refine completes_of_next (exec_thymeWindowEnd w hon) ⟨hw, hl, hwcur, hlcur, hcal, hlow, hall, fun x hx => ?_⟩
    rw [htemps x hx, tempOf, hpwr]
    exact ⟨rfl, rfl⟩

end Sys2Proof.Proofs
end

section
/-! The statement on the state after reset. -/

namespace Sys2Proof.Proofs

open Sys2Proof.Machine Sys2Proof.Claims Sys2Proof.Laws

/-- A memory with no byte listed has the canonical form. -/
theorem wf_nil : Memory.wf [] := ⟨.nil, fun _ h => nomatch h⟩

/-- After reset no stream, no core and no byte of memory is listed: each reads as its initial value. -/
theorem reset_unlisted : (∀ n, getStream State.reset n = Stream.init) ∧ (∀ c, getCore State.reset c = Core.init) ∧
    State.reset.dram = [] ∧ State.reset.hostMem = [] :=
  ⟨fun _ => rfl, fun _ => rfl, rfl, rfl⟩

theorem reset_ports (p : PortId) : (getPort State.reset p.toNat).laserOff = true ∧ (getPort State.reset p.toNat).mode = 0 ∧
    (getPort State.reset p.toNat).linkUp = false := by
  revert p
  decide +kernel

theorem reset_queues (q : BitVec 2) : (getQ State.reset q.toNat).cmdEn = false ∧ (getQ State.reset q.toNat).cplEn = false := by
  revert q
  decide +kernel

/-- Settles O58: the registers, ports and queues are evaluated one by one, and all that a table does not list is initial. -/
theorem resetLeavesTheSpecsValues : Obligations.ResetLeavesTheSpecsValues := by
  unfold Obligations.ResetLeavesTheSpecsValues
  intro s
  subst s
  obtain ⟨hstreams, hcores, hdram, hhost⟩ := reset_unlisted
  refine ⟨by decide +kernel, reset_ports, reset_queues, rfl, rfl, fun n => ?_, rfl, rfl, rfl, rfl, rfl, ?_, ?_, fun c => ?_, fun a => ?_⟩
  · rw [hstreams]
    rfl
  · exact hdram ▸ wf_nil
  · exact hhost ▸ wf_nil
  · rw [hcores]
    exact wf_nil
  · rw [hdram, hhost]
    exact ⟨rfl, rfl⟩

end Sys2Proof.Proofs
end
